-- ==== Sys2Proof/Word.lean ====
section
/-! DEFINITION. Words, bytes and finite maps keyed by natural numbers.
The maps hold everything sparse: memory, registers, cores, caches (guide: a list of key and value pairs in one form). -/
namespace Sys2Proof

/-- A 64-bit word (R5). -/
abbrev Word := BitVec 64

/-- A byte (R5). -/
abbrev Byte := BitVec 8

/-- A finite map: keys rise strictly in the lists that `put` and `ins` build. -/
abbrev KMap (α : Type) := List (Nat × α)

namespace KMap

variable {α : Type}

/-- The value at `k`, or `d` where `k` is not listed. -/
def find (d : α) : KMap α → Nat → α
  | [], _ => d
  | (a, v) :: r, k => if a = k then v else find d r k

/-- Insert at the sorted place, replacing an entry for the same key. -/
def ins : KMap α → Nat → α → KMap α
  | [], k, v => [(k, v)]
  | (a, w) :: r, k, v =>
    if k < a then (k, v) :: (a, w) :: r
    else if a = k then (k, v) :: r
    else (a, w) :: ins r k v

/-- Remove every entry for `k`. -/
def del : KMap α → Nat → KMap α
  | [], _ => []
  | (a, w) :: r, k => if a = k then del r k else (a, w) :: del r k

/-- Write `v` at `k`, listing nothing that equals the default `d`. -/
def put [DecidableEq α] (d : α) (m : KMap α) (k : Nat) (v : α) : KMap α :=
  if v = d then del m k else ins (del m k) k v

/-- Keys rise strictly, and every key is above `lo` when `lo` is given. -/
def sortedFrom : Option Nat → KMap α → Bool
  | _, [] => true
  | none, (a, _) :: r => sortedFrom (some a) r
  | some lo, (a, _) :: r => decide (lo < a) && sortedFrom (some a) r

/-- The canonical form: keys rise strictly and no entry equals the default. -/
def canon [DecidableEq α] (d : α) (m : KMap α) : Bool :=
  sortedFrom none m && m.all fun e => !(decide (e.2 = d))

/-- Change the value at `k`. -/
def upd (d : α) (m : KMap α) (k : Nat) (f : α → α) : KMap α := ins m k (f (find d m k))

end KMap

/-- `n` bits of `v` from bit `lo` up, as a number. -/
def Word.bits (v : Word) (hi lo : Nat) : Nat := (v.toNat >>> lo) % 2 ^ (hi + 1 - lo)

/-- Bit `n` of a number. -/
def bitAt (v n : Nat) : Bool := Nat.testBit v n

/-- Set or clear bit `n` of a number. -/
def setBit (v n : Nat) (b : Bool) : Nat :=
  if b then v ||| (1 <<< n) else if Nat.testBit v n then v ^^^ (1 <<< n) else v

/-- The integer whose two's-complement form of `w` bits is `v` (R102). -/
def toSigned (w v : Nat) : Int :=
  let u := v % 2 ^ w
  if 2 * u < 2 ^ w then (u : Int) else (u : Int) - 2 ^ w

/-- The `w`-bit two's-complement form of an integer (R102). -/
def ofSigned (w : Nat) (i : Int) : Nat := (i % (2 ^ w : Int)).toNat

/-- `0`, `1`, …, `n - 1`. -/
def upTo (n : Nat) : List Nat := List.range n

end Sys2Proof
end

