-- ==== Sys2Proof/Syntax.lean ====
section
/-! DEFINITION. The instructions and events of the opcode table, each with its operands (R184 to R189, R195, R220, R238, R261, R281, R293, R323, R333, 95_what_each_step_holds.md). -/
namespace Sys2Proof

/-- A scalar register number, x0 to x15 (R76). -/
abbrev Reg := BitVec 4

/-- A scalar source with its F bit (R79). -/
structure Src where
  r : Reg
  f : Bool
  deriving DecidableEq, Repr

/-- Scopes, in the order of their codes (R149). -/
inductive Scope | cl | di | pk | sy
  deriving DecidableEq, Repr

/-- Rounding modes, in the order of their codes (R112); code 111 is reserved. -/
inductive RMode | rne | rtz | rdn | rup | rna | sr | dyn
  deriving DecidableEq, Repr

/-- Scalar floating-point types, in the order of their codes (R215). -/
inductive FTy | f64 | f32 | f16 | bf16
  deriving DecidableEq, Repr

/-- Types of FCVT, in the order of their codes (R215). -/
inductive CTy | f64 | f32 | f16 | bf16 | i64 | n64 | i32 | n32
  deriving DecidableEq, Repr

/-- Sizes of a scalar memory access, in the order of their codes (R184); code 111 is reserved. -/
inductive MSize | i8 | i16 | i32 | i64 | n8 | n16 | n32
  deriving DecidableEq, Repr

/-- Sizes of a scalar store, in the order of their codes (R220). -/
inductive SSize | i8 | i16 | i32 | i64
  deriving DecidableEq, Repr

/-- The widths of SEXT (R211). -/
inductive SextW | w8 | w16 | w32
  deriving DecidableEq, Repr

/-- The ordering of an AMO with its scope; RLX carries none (R220). -/
inductive AOrd | rlx | acq (s : Scope) | rel (s : Scope) | ar (s : Scope)
  deriving DecidableEq, Repr

/-- Register quads (R188). -/
inductive Quad | x4 | x8 | x12
  deriving DecidableEq, Repr

/-- A quad operand with its F bit. -/
structure QSrc where
  q : Quad
  f : Bool
  deriving DecidableEq, Repr

/-- Vector operands (R186). -/
inductive VOp
  | v (n : BitVec 5)
  | pop (n : BitVec 2)
  | peek (n : BitVec 2)
  | l0
  | l1
  | bc (r : Reg)
  deriving DecidableEq, Repr

/-- A vector source with its F bit. -/
structure VSrc where
  op : VOp
  f : Bool
  deriving DecidableEq, Repr

/-- Vector destinations (R187): a register, a load queue, or `l0` only (WB = 0). -/
inductive VDst
  | v (n : BitVec 5)
  | q (n : BitVec 2)
  | last
  deriving DecidableEq, Repr

/-- Mask fields ME, MK and MZ (R187). -/
structure MaskF where
  me : Bool
  mr : BitVec 3
  mz : Bool
  deriving DecidableEq, Repr

/-- The kinds of GETID, in the order of their codes (R312). -/
inductive IdKind | tid | core | clus | pkg | quad | berth | ident
  deriving DecidableEq, Repr

/-- A message on the network (R35, R47, R378). `rep` is the network; `refused` marks a REFUSED message; `info` is its x2 of R47, and the scope of the SEND in every other message; `bad` says that the payload was lost on the way (R422). -/
structure Msg where
  rep : Bool
  dstCore : Nat
  dstPkg : Nat
  chan : Nat
  srcPkg : Nat
  srcKind : Nat
  srcTid : Nat
  srcCore : Nat
  payload : List Word
  refused : Bool
  info : Word
  report : Bool
  bad : Bool
  deriving DecidableEq, Repr

/-- Where an arriving message comes from: the `n`-th one in flight, or a peer module (R352). -/
inductive MsgIn | inflight (n : Nat) | peer (m : Msg)
  deriving DecidableEq, Repr

/-- How a long-latency result returns (R78, R367, R392, R430); only a peer module answers with a value or with poison. -/
inductive ResultIn
  | arrives
  | uncorrectable (row lanes : Nat)
  | lost
  | poisoned
  | refused
  | answer (v : Nat)
  deriving DecidableEq, Repr

/-- An uncorrectable error in the array's own storage that a command meets (R416): a line of a slot, a byte of a sidecar, an accumulator element. -/
inductive OpaErr
  | ok
  | line (slot n : Nat)
  | scale (slot n : Nat)
  | acc (i j : Nat)
  deriving DecidableEq, Repr

/-- What the integrity check of a hop finds (R422): an error that a retry or the code corrects; a word, by PA / 8, whose stored or arriving data are lost; the payload of the `n`-th message in flight, or of the `n`-th item of a CBU session; a register of a context whose storage is lost, by the code of R368. -/
inductive CheckIn
  | corrected
  | word (w : Nat)
  | message (n : Nat)
  | item (cl slot n : Nat)
  | reg (core idx code : Nat)
  deriving DecidableEq, Repr

/-- Protocol features that the capability structures of the CXL port report (R348). -/
inductive CxlFeature
  | config | bar0 | msix | doe | sriov | logicalDevices | ide
  | hdm | interleave | backInvalidate | biasFlip | pooling
  | cacheRead | cacheWrite | snoop | hostFilter
  deriving DecidableEq, Repr

/-- What a host request names: device memory by its HDM offset, BAR0, the masks of the MSI-X vectors, or a capability of configuration space (R348 to R350). -/
inductive HostAt
  | hdm
  | bar0
  | msix
  | config (f : CxlFeature)
  deriving DecidableEq, Repr

/-- The place of a host request: what it names, and the offset in it. -/
structure HostPlace where
  target : HostAt
  off : Nat
  deriving DecidableEq, Repr

/-- A page grant that is asked for: whether to write, and the length of the lease that a home gives, in units of 10 us (R174, R355). -/
structure GrantAim where
  write : Bool
  len : Nat
  deriving DecidableEq, Repr

/-- The return of a page: the page, the package that returns it, and the incarnation under which it does (R174, R401). -/
structure HandOver where
  page : Nat
  pkg : Nat
  inc : Nat
  deriving DecidableEq, Repr

/-- A retry of a link: the link, and what its check found (R351, R422). -/
structure Retry where
  link : Nat
  found : CheckIn
  deriving DecidableEq, Repr

/-- The module that sends a request: its package and its incarnation (R401). -/
structure PeerFrom where
  pkg : Nat
  inc : Nat
  deriving DecidableEq, Repr

/-- Agents with a state register (R398). -/
inductive Agent | core (n : Nat) | die (n : Nat) | pkg (n : Nat)
  deriving DecidableEq, Repr

/-- The operations of an AMO, in the order of their codes (R226). -/
inductive AmoOp | add | and | or | xor | min | max | minn | maxn | swap | cas | fadd
  deriving DecidableEq, Repr

/-- What a peer module asks of this home module (R173, R229, R430). -/
inductive PeerOp
  | read (off n : Nat)
  | write (off : Nat) (data : List Byte)
  | scrub (off : Nat) (v : Word)
  | nibble (off : Nat) (high : Bool) (v : Nat)
  | amo (op : AmoOp) (off n : Nat) (b c : Word)
  | qacq (off ident : Nat) (versioned : Bool)
  | qtry (off ident : Nat)
  | qrel (off ident : Nat) (versioned : Bool)
  | group (kind off : Nat)
  | spoil (off : Nat)
  deriving DecidableEq, Repr

/-- The offset that a request names (R122). -/
def PeerOp.offset : PeerOp → Nat
  | .read o _ | .write o _ | .scrub o _ | .nibble o _ _ | .amo _ o _ _ _ | .qacq o _ _ | .qtry o _ | .qrel o _ _ | .group _ o | .spoil o => o

/-- Every row of the opcode table: the encoded instructions, then the events. -/
inductive Instr
  -- control and system (R195)
  | nop
  | br (imm : BitVec 32)
  | call (imm : BitVec 32)
  | jr (a : Src)
  | callr (a : Src)
  | ret
  | bccEq (a b : Src) (imm : BitVec 32)
  | bccNe (a b : Src) (imm : BitVec 32)
  | bccLt (a b : Src) (imm : BitVec 32)
  | bccGe (a b : Src) (imm : BitVec 32)
  | bccLtn (a b : Src) (imm : BitVec 32)
  | bccGen (a b : Src) (imm : BitVec 32)
  | bz (a : Src) (imm : BitVec 32)
  | bnz (a : Src) (imm : BitVec 32)
  | trap (imm : BitVec 27)
  | brk (imm : BitVec 27)
  | tret
  | sysr (d : Reg) (n : BitVec 12)
  | sysw (n : BitVec 12) (a : Src)
  | halt
  | ifence
  -- integer
  | add (d : Reg) (a b : Src)
  | sub (d : Reg) (a b : Src)
  | and (d : Reg) (a b : Src)
  | or (d : Reg) (a b : Src)
  | xor (d : Reg) (a b : Src)
  | andn (d : Reg) (a b : Src)
  | shl (d : Reg) (a b : Src)
  | shr (d : Reg) (a b : Src)
  | shra (d : Reg) (a b : Src)
  | min (d : Reg) (a b : Src)
  | max (d : Reg) (a b : Src)
  | minn (d : Reg) (a b : Src)
  | maxn (d : Reg) (a b : Src)
  | slt (d : Reg) (a b : Src)
  | sltn (d : Reg) (a b : Src)
  | seq (d : Reg) (a b : Src)
  | mul (d : Reg) (a b : Src)
  | mulh (d : Reg) (a b : Src)
  | mulhn (d : Reg) (a b : Src)
  | div (d : Reg) (a b : Src)
  | divn (d : Reg) (a b : Src)
  | rem (d : Reg) (a b : Src)
  | remn (d : Reg) (a b : Src)
  | clz (d : Reg) (a : Src)
  | ctz (d : Reg) (a : Src)
  | popc (d : Reg) (a : Src)
  | brev (d : Reg) (a : Src)
  | bswap (d : Reg) (a : Src)
  | sext (w : SextW) (d : Reg) (a : Src)
  | addi (d : Reg) (a : Src) (imm : BitVec 27)
  | andi (d : Reg) (a : Src) (imm : BitVec 27)
  | ori (d : Reg) (a : Src) (imm : BitVec 27)
  | xori (d : Reg) (a : Src) (imm : BitVec 27)
  | shli (d : Reg) (a : Src) (sh : BitVec 6)
  | shri (d : Reg) (a : Src) (sh : BitVec 6)
  | shrai (d : Reg) (a : Src) (sh : BitVec 6)
  | slti (d : Reg) (a : Src) (imm : BitVec 27)
  | sltni (d : Reg) (a : Src) (imm : BitVec 27)
  | li (d : Reg) (imm : BitVec 48)
  | lea (k : BitVec 2) (d : Reg) (a : Src) (imm : BitVec 27)
  | addpc (d : Reg) (imm : BitVec 27)
  | sel (d : Reg) (a b c : Src)
  -- scalar floating point
  | fadd (t : FTy) (rm : RMode) (d : Reg) (a b : Src)
  | fsub (t : FTy) (rm : RMode) (d : Reg) (a b : Src)
  | fmul (t : FTy) (rm : RMode) (d : Reg) (a b : Src)
  | fdiv (t : FTy) (rm : RMode) (d : Reg) (a b : Src)
  | fmin (t : FTy) (d : Reg) (a b : Src)
  | fmax (t : FTy) (d : Reg) (a b : Src)
  | fsqrt (t : FTy) (rm : RMode) (d : Reg) (a : Src)
  | fsgnj (t : FTy) (d : Reg) (a b : Src)
  | fsgnjn (t : FTy) (d : Reg) (a b : Src)
  | fsgnjx (t : FTy) (d : Reg) (a b : Src)
  | feq (t : FTy) (d : Reg) (a b : Src)
  | flt (t : FTy) (d : Reg) (a b : Src)
  | fle (t : FTy) (d : Reg) (a b : Src)
  | fclass (t : FTy) (d : Reg) (a : Src)
  | fmadd (t : FTy) (rm : RMode) (d : Reg) (a b c : Src)
  | fmsub (t : FTy) (rm : RMode) (d : Reg) (a b c : Src)
  | fnmadd (t : FTy) (rm : RMode) (d : Reg) (a b c : Src)
  | fcvt (dt st : CTy) (rm : RMode) (d : Reg) (a : Src)
  -- scalar memory, atomics, synchronisation (R220)
  | ld (z : MSize) (d : Reg) (a : Src) (off : BitVec 24)
  | st (z : SSize) (a : Src) (off : BitVec 24) (x : Src)
  | lda (z : MSize) (sc : Scope) (d : Reg) (a : Src) (off : BitVec 24)
  | strel (z : SSize) (sc : Scope) (a : Src) (off : BitVec 24) (x : Src)
  | amoadd (w : Bool) (o : AOrd) (d : Reg) (a : Src) (off : BitVec 16) (b : Src)
  | amoand (w : Bool) (o : AOrd) (d : Reg) (a : Src) (off : BitVec 16) (b : Src)
  | amoor (w : Bool) (o : AOrd) (d : Reg) (a : Src) (off : BitVec 16) (b : Src)
  | amoxor (w : Bool) (o : AOrd) (d : Reg) (a : Src) (off : BitVec 16) (b : Src)
  | amomin (w : Bool) (o : AOrd) (d : Reg) (a : Src) (off : BitVec 16) (b : Src)
  | amomax (w : Bool) (o : AOrd) (d : Reg) (a : Src) (off : BitVec 16) (b : Src)
  | amominn (w : Bool) (o : AOrd) (d : Reg) (a : Src) (off : BitVec 16) (b : Src)
  | amomaxn (w : Bool) (o : AOrd) (d : Reg) (a : Src) (off : BitVec 16) (b : Src)
  | amoswap (w : Bool) (o : AOrd) (d : Reg) (a : Src) (off : BitVec 16) (b : Src)
  | amocas (w : Bool) (o : AOrd) (d : Reg) (a : Src) (off : BitVec 16) (b c : Src)
  | amofadd (w : Bool) (o : AOrd) (d : Reg) (a : Src) (off : BitVec 16) (b : Src)
  | qacq (sc : Scope) (d : Reg) (a : Src) (off : BitVec 24)
  | qrel (sc : Scope) (d : Reg) (a : Src) (off : BitVec 24)
  | qtry (sc : Scope) (d : Reg) (a : Src) (off : BitVec 24)
  | vlock (sc : Scope) (d : Reg) (a : Src) (off : BitVec 24)
  | vunlock (sc : Scope) (d : Reg) (a : Src) (off : BitVec 24)
  | waitvAny (d : Reg) (sa : VSrc) (me : Bool) (mk : BitVec 3)
  | waitvAll (d : Reg) (sa : VSrc) (me : Bool) (mk : BitVec 3)
  | wmbind (n : BitVec 2) (sc : Scope) (a b : Src) (h : BitVec 6)
  | wmadv (sc : Scope) (a : Src) (off : BitVec 24) (x : Src)
  | acq (sc : Scope) (n : BitVec 10)
  | rel (sc : Scope) (n : BitVec 10)
  | acqrel (sc : Scope) (n : BitVec 10)
  | fence
  | rgninv (sc : Scope) (n : BitVec 10)
  | rgnwb (n : BitVec 10)
  | scrub (a : Src) (off : BitVec 24) (x : Src)
  -- vector configuration and arithmetic (R238)
  | vcfg (ty : BitVec 4) (s : Bool) (vd : BitVec 5)
  | setvl (w : BitVec 2) (g : BitVec 4) (d : Reg) (a : Src)
  | setvlFree (d : Reg)
  | vadd (d : VDst) (a b : VSrc) (m : MaskF)
  | vsub (d : VDst) (a b : VSrc) (m : MaskF)
  | vmul (d : VDst) (a b : VSrc) (m : MaskF)
  | vdiv (d : VDst) (a b : VSrc) (m : MaskF)
  | vmin (d : VDst) (a b : VSrc) (m : MaskF)
  | vmax (d : VDst) (a b : VSrc) (m : MaskF)
  | vand (d : VDst) (a b : VSrc) (m : MaskF)
  | vor (d : VDst) (a b : VSrc) (m : MaskF)
  | vxor (d : VDst) (a b : VSrc) (m : MaskF)
  | vshl (d : VDst) (a b : VSrc) (m : MaskF)
  | vshr (d : VDst) (a b : VSrc) (m : MaskF)
  | vshra (d : VDst) (a b : VSrc) (m : MaskF)
  | vsadd (d : VDst) (a b : VSrc) (m : MaskF)
  | vssub (d : VDst) (a b : VSrc) (m : MaskF)
  | vmulh (d : VDst) (a b : VSrc) (m : MaskF)
  | vmadd (rm : RMode) (d : VDst) (a b c : VSrc) (m : MaskF)
  | vmsub (rm : RMode) (d : VDst) (a b c : VSrc) (m : MaskF)
  | vnmadd (rm : RMode) (d : VDst) (a b c : VSrc) (m : MaskF)
  | vneg (d : VDst) (a : VSrc) (m : MaskF)
  | vabs (d : VDst) (a : VSrc) (m : MaskF)
  | vsqrt (d : VDst) (a : VSrc) (m : MaskF)
  | vrcp (d : VDst) (a : VSrc) (m : MaskF)
  | vrsq (d : VDst) (a : VSrc) (m : MaskF)
  | vexp2 (d : VDst) (a : VSrc) (m : MaskF)
  | vlog2 (d : VDst) (a : VSrc) (m : MaskF)
  | vnot (d : VDst) (a : VSrc) (m : MaskF)
  | vclz (d : VDst) (a : VSrc) (m : MaskF)
  | vpopc (d : VDst) (a : VSrc) (m : MaskF)
  | vcmpEq (md : BitVec 3) (a b : VSrc) (m : MaskF)
  | vcmpNe (md : BitVec 3) (a b : VSrc) (m : MaskF)
  | vcmpLt (md : BitVec 3) (a b : VSrc) (m : MaskF)
  | vcmpLe (md : BitVec 3) (a b : VSrc) (m : MaskF)
  | vsel (d : VDst) (a b : VSrc) (mk : BitVec 3)
  | vcvt (dt : BitVec 4) (rm : RMode) (d : VDst) (a : VSrc) (m : MaskF)
  | vqnt (dt : BitVec 4) (rm : RMode) (d : VDst) (a : VSrc)
  | vredSum (rm : RMode) (d : Reg) (a : VSrc) (me : Bool) (mk : BitVec 3)
  | vredMax (rm : RMode) (d : Reg) (a : VSrc) (me : Bool) (mk : BitVec 3)
  | vredMin (rm : RMode) (d : Reg) (a : VSrc) (me : Bool) (mk : BitVec 3)
  | vredAnd (rm : RMode) (d : Reg) (a : VSrc) (me : Bool) (mk : BitVec 3)
  | vredOr (rm : RMode) (d : Reg) (a : VSrc) (me : Bool) (mk : BitVec 3)
  | vreds (rm : RMode) (d : Reg) (a : VSrc) (me : Bool) (mk : BitVec 3)
  | vdot (rm : RMode) (d : Reg) (a b : VSrc) (me : Bool) (mk : BitVec 3)
  | vperm (d : VDst) (a b : VSrc) (m : MaskF)
  | vslideUp (d : VDst) (a : VSrc) (n : Src) (m : MaskF)
  | vslideDn (d : VDst) (a : VSrc) (n : Src) (m : MaskF)
  | vext (d : Reg) (a : VSrc) (i : Src)
  | vins (d : VDst) (a : VSrc) (x i : Src)
  | vbcast (vd : BitVec 5) (a : VSrc) (me : Bool) (mk : BitVec 3)
  | viota (vd : BitVec 5) (me : Bool) (mk : BitVec 3)
  | mand (md ma mb : BitVec 3) (m : MaskF)
  | mor (md ma mb : BitVec 3) (m : MaskF)
  | mxor (md ma mb : BitVec 3) (m : MaskF)
  | mnot (md ma : BitVec 3) (m : MaskF)
  | mpop (d : Reg) (ma : BitVec 3) (me : Bool) (mk : BitVec 3)
  | mfirst (d : Reg) (ma : BitVec 3) (me : Bool) (mk : BitVec 3)
  | mset (md : BitVec 3) (x : Src) (m : MaskF)
  | vscget (d : VDst) (va : BitVec 5) (fa : Bool)
  | vscset (vd va : BitVec 5) (fa : Bool)
  | vcompress (d : VDst) (a : VSrc) (me : Bool) (mk : BitVec 3)
  | vexpand (d : VDst) (a : VSrc) (me : Bool) (mk : BitVec 3)
  -- vector memory (R261)
  | vld (ty : BitVec 4) (d : VDst) (a : Src) (imm : BitVec 16) (m : MaskF) (wm : Option (BitVec 2))
  | vlds (ty : BitVec 4) (d : VDst) (a : Src) (imm : BitVec 16) (x : Src) (m : MaskF) (wm : Option (BitVec 2))
  | vldff (ty : BitVec 4) (d : VDst) (a : Src) (imm : BitVec 16) (m : MaskF) (wm : Option (BitVec 2))
  | vst (a : Src) (imm : BitVec 16) (b : VSrc) (m : MaskF)
  | vsts (a : Src) (imm : BitVec 16) (b : VSrc) (x : Src) (m : MaskF)
  | vldx (wc : BitVec 2) (d : VDst) (a : Src) (imm : BitVec 16) (b : VSrc) (m : MaskF) (wm : Option (BitVec 2))
  | vstx (a : Src) (imm : BitVec 16) (b : VSrc) (idx : BitVec 5) (m : MaskF)
  | vldt (d : VDst) (vb : BitVec 5) (fb : Bool) (me : Bool) (mk : BitVec 3) (wm : Option (BitVec 2))
  | vstt (b : VSrc) (shape : BitVec 5) (m : MaskF)
  -- outer-product array (R281)
  | mlease (k : Src)
  | mfree
  | slclaim (a b : BitVec 6)
  | slfree (a b : BitVec 6)
  | slloadRow (fmt : BitVec 4) (slot : BitVec 6) (a : Src) (imm : BitVec 16) (b c : Src)
  | slloadCol (fmt : BitVec 4) (slot : BitVec 6) (a : Src) (imm : BitVec 16) (b c : Src)
  | slloadScale (slot : BitVec 6) (a : Src) (imm : BitVec 16)
  | mop (t : BitVec 2) (sa sb : BitVec 6) (fa fb : BitVec 4) (k : Src)
  | mops (t : BitVec 2) (sa sb : BitVec 6) (fa fb : BitVec 4)
  | aclaim (i32 : Bool) (t : BitVec 2)
  | afree (t : BitVec 2)
  | mzero (t : BitVec 2)
  | mrd (d : VDst) (a : Src) (me : Bool) (mk : BitVec 3)
  | mwr (a : Src) (vs : BitVec 5) (me : Bool) (mk : BitVec 3)
  | mst (t : BitVec 2) (a : Src) (imm : BitVec 16) (b c : Src)
  | msync
  -- Ferry, threads, groups, messages, tasks (R293)
  | ferry (q : QSrc)
  | ferrynb (d : Reg) (q : QSrc)
  | lwinit (d : Reg) (a : Src) (imm : BitVec 16) (b : Src)
  | lwwait (sc : Scope) (d : Reg) (a : Src) (imm : BitVec 16) (b : Src)
  | lwread (d : Reg) (a : Src) (imm : BitVec 16)
  | fjoin (sc : Scope) (d : Reg) (a : Src)
  | fcpoll (sc : Scope) (q : Quad) (a : Src) (imm : BitVec 16)
  | spawn (d : Reg) (a b c : Src)
  | exit
  | yield
  | join (d : Reg) (a : Src) (imm : BitVec 16)
  | leave (sc : Scope) (d : Reg) (a : Src) (imm : BitVec 16)
  | gbar (sc : Scope) (d : Reg) (a : Src) (imm : BitVec 16)
  | send (rep : Bool) (sc : Scope) (q : QSrc) (b : Src)
  | sendnb (rep : Bool) (sc : Scope) (d : Reg) (q : QSrc) (b : Src)
  | hret
  | hmask (d : Reg) (a : Src)
  | hunmask (d : Reg) (a : Src)
  | tspawn (a : Src) (imm : BitVec 16)
  | grant (q : Quad)
  | watch (once : Bool) (n : BitVec 3) (d : Reg) (q : QSrc)
  | unwatch (d : Reg) (a : Src)
  | getid (k : IdKind) (d : Reg)
  -- conflict batching unit (R323)
  | cbopen (d : Reg) (a : Src)
  | cbpost (q : QSrc)
  | cbtake (d : Reg) (h : Src)
  | cbtakev (vd : BitVec 5) (h : Src)
  | cbdone (a : VSrc) (h : Src) (me : Bool) (mk : BitVec 3)
  | cbclose (h : Src)
  -- ergs (R333)
  | compose (nowait : Bool) (four : Bool) (d : Reg)
  | decomp (d : Reg)
  | erginfo (d : Reg)
  -- events: steps of the part that no encoding names
  | moduleReset
  | clockChange (rate : Nat)
  | instructionFetch (core idx : Nat)
  | issueSelect (core : Nat)
  | yieldHoldEnd (core idx : Nat)
  | longLatencyResult (n : Nat) (r : ResultIn)
  | bankMoveComplete (core idx : Nat)
  | bankReturn (core : Nat)
  | drainComplete (core idx : Nat)
  | reqMessageArrival (m : MsgIn)
  | repMessageArrival (m : MsgIn)
  | heldMessageEnter (core : Nat) (rep : Bool) (n : Nat)
  | refused (m : MsgIn)
  | handlerStart (core : Nat)
  | handlerStartNotice (n : Nat)
  | handlerSlotFree (core slot : Nat)
  | watchpointMatch (n : Nat)
  | dependenceSatisfied (inst : Nat)
  | pendingEnterQueue (disp : Nat)
  | taskDispatch (disp : Nat)
  | taskAging (disp inst : Nat)
  | preempt (disp : Nat)
  | resume (core : Nat)
  | taskCompletion (inst : Nat)
  | hostMemWrite (place : HostPlace) (data : List Byte) (poisoned : Bool)
  | hostMemRead (place : HostPlace) (n : Nat)
  | hostBar0Write (off : Nat) (v : Word)
  | hirq (v : Word)
  | spdmMeasurement
  | shootdownGo (port : Nat) (v : Word)
  | shootdownComplete (port : Nat)
  | wbRewalk (core idx : Nat)
  | wbwaitExpiry (core idx : Nat)
  | l1Eviction (core line : Nat)
  | nearPartitionEviction (cl line : Nat)
  | homePartitionEviction (line : Nat)
  | forwardedRead (core word : Nat)
  | pageGrantRequest (page pkg : Nat) (aim : GrantAim)
  | readLeaseExpiry (page : Nat)
  | grantHandOver (h : HandOver)
  | grantRecall (page : Nat)
  | baseDieAtomicResult (n : Nat) (bad : Bool)
  | ferryTake (cl : Nat)
  | landingCount (cl n : Nat)
  | ringRecordWrite (cl n : Nat)
  | ferryFinish (cl n : Nat)
  | ferryWbRewalk (cl n : Nat)
  | leaseGrant (cl : Nat)
  | opaCommandAccept (cl : Nat)
  | leaseClockExpiry (cl : Nat)
  | opaFreeze (cl : Nat)
  | composeForm (cl : Nat)
  | ergMispredictSquash (core idx : Nat)
  | linkRetry (r : Retry)
  | ucieEdgeFail (die nb : Nat)
  | ualinkPortFail (port : Nat)
  | cxlLinkDown
  | portfail (v : Word)
  | agentSuspect (a : Agent) (svc pa : Nat)
  | agentDeclareDead (a : Agent)
  | agentReadmit (a : Agent)
  | staleMessageDrop (a : Agent) (svc inc : Nat)
  | erracc (core : Nat) (v : Word)
  | cbukill (cl : Nat) (v : Word)
  | mbicfg (stack : Nat) (v : Word)
  | mbiLaneTurn (stack : Nat)
  | route (p : Nat) (v : Word)
  | agentStateWrite (a : Agent) (v : Word)
  | htab (v : Word)
  | hotq (v : Word)
  | vlanes (v : Word)
  | flexcfg (v : Word)
  | saveptr (v : Word)
  | ptbase (asid : Bool) (v : Word)
  | pkgid (v : Word)
  | mboxpol (depth : Bool) (v : Word)
  | fcsr (seed : Bool) (v : Word)
  | deviceRegisterWrite (off : Nat) (v : Word)
  | cxlCacheSnoop (cl pa : Nat) (data : List Byte)
  | peerModuleAccess (sender : PeerFrom) (op : PeerOp)
  | leaseRecordExpiry (page pkg : Nat)
  | opaFreezeEnd (cl : Nat)
  | opaCommandComplete (core idx : Nat) (e : OpaErr)
  deriving DecidableEq, Repr

end Sys2Proof
end

