-- ==== Sys2Proof/Machine/Flags.lean ====
section
/-! DEFINITION. Number formats, rounding, and the flags that each computation raises (R102 to R116).
A flag set is a number with NV 16, DZ 8, OF 4, UF 2, NX 1, as in FCSR (R96). -/
namespace Sys2Proof.Machine

/-- NV. -/
def flNV : Nat := 16
/-- DZ. -/
def flDZ : Nat := 8
/-- OF. -/
def flOF : Nat := 4
/-- UF. -/
def flUF : Nat := 2
/-- NX. -/
def flNX : Nat := 1

/-- A value: NaN (signalling or not), an infinity, or (-1)^neg * m * 2^e exactly. -/
inductive Fv
  | nan (sig : Bool)
  | inf (neg : Bool)
  | fin (neg : Bool) (m : Nat) (e : Int)
  deriving DecidableEq, Repr

/-- A floating-point format: exponent bits, fraction bits, bias, whether it has infinities and whether it has NaNs (R104). -/
structure Fmt where
  ex : Nat
  fr : Nat
  bias : Nat
  inf : Bool
  nan : Bool
  deriving DecidableEq, Repr

/-- The format of an element type code; integers and OQ4 have none (R104). -/
def fmtOf : Nat → Option Fmt
  | 8 => some ⟨11, 52, 1023, true, true⟩
  | 9 => some ⟨8, 23, 127, true, true⟩
  | 10 => some ⟨5, 10, 15, true, true⟩
  | 11 => some ⟨8, 7, 127, true, true⟩
  | 12 => some ⟨4, 3, 7, false, true⟩
  | 13 => some ⟨5, 2, 15, true, true⟩
  | 14 => some ⟨2, 1, 1, false, false⟩
  | _ => none

/-- F32. -/
def f32 : Fmt := ⟨8, 23, 127, true, true⟩
/-- F64. -/
def f64 : Fmt := ⟨11, 52, 1023, true, true⟩
/-- E4M3. -/
def e4m3 : Fmt := ⟨4, 3, 7, false, true⟩

/-- Bits of a format. -/
def Fmt.width (f : Fmt) : Nat := 1 + f.ex + f.fr

/-- The code of the largest finite magnitude (R104). -/
def Fmt.maxCode (f : Fmt) : Nat :=
  if f.inf then (2 ^ f.ex - 1) * 2 ^ f.fr - 1
  else if f.nan then 2 ^ (f.ex + f.fr) - 2
  else 2 ^ (f.ex + f.fr) - 1

/-- The canonical NaN (R105). -/
def Fmt.qnan (f : Fmt) : Nat :=
  if f.inf then (2 ^ f.ex - 1) * 2 ^ f.fr + 2 ^ (f.fr - 1) else 2 ^ (f.ex + f.fr) - 1

/-- The code of +infinity. -/
def Fmt.infCode (f : Fmt) : Nat := (2 ^ f.ex - 1) * 2 ^ f.fr

/-- Put the sign bit above a magnitude code. -/
def Fmt.signed (f : Fmt) (neg : Bool) (mag : Nat) : Nat := (if neg then 2 ^ (f.ex + f.fr) else 0) + mag

/-- Exponent of the unit of the smallest subnormal. -/
def Fmt.qmin (f : Fmt) : Int := 1 - (f.bias : Int) - f.fr

/-- Read a code (R104). -/
def Fmt.read (f : Fmt) (bits : Nat) : Fv :=
  let neg := bitAt bits (f.ex + f.fr)
  let e := bits / 2 ^ f.fr % 2 ^ f.ex
  let fr := bits % 2 ^ f.fr
  if f.inf && e == 2 ^ f.ex - 1 then
    if fr = 0 then .inf neg else .nan (!bitAt fr (f.fr - 1))
  else if f.nan && !f.inf && e == 2 ^ f.ex - 1 && fr == 2 ^ f.fr - 1 then .nan false
  else if e = 0 then .fin neg fr f.qmin
  else .fin neg (2 ^ f.fr + fr) (f.qmin + (e : Int) - 1)

/-- The exponent of a code's own least significant bit (R113). -/
def Fmt.lsb (f : Fmt) (bits : Nat) : Int :=
  let e := bits / 2 ^ f.fr % 2 ^ f.ex
  if e = 0 then f.qmin else f.qmin + (e : Int) - 1

/-! ### Rounding (R112, R113) -/

/-- The rounding of one value: the mode, and for SR the generator's word and the exponent of the source's last bit. -/
structure Rnd where
  mode : RMode
  x : Nat
  lsb : Int
  deriving DecidableEq, Repr

/-- Rounding by a mode that draws nothing; SR acts as RNE (R112). -/
def Rnd.plain (m : RMode) : Rnd :=
  match m with
  | .sr | .dyn => ⟨.rne, 0, 0⟩
  | m => ⟨m, 0, 0⟩

/-- Round m * 2^e (more below when `sticky`) to a multiple of 2^q: the multiple, and whether it is inexact. -/
def roundAt (neg : Bool) (m : Nat) (e q : Int) (sticky : Bool) (r : Rnd) : Nat × Bool :=
  if q ≤ e then
    let i := m * 2 ^ (e - q).toNat
    (if sticky && ((r.mode == .rup && !neg) || (r.mode == .rdn && neg)) then i + 1 else i, sticky)
  else
    let sh := (q - e).toNat
    let i := m / 2 ^ sh
    let rem := m % 2 ^ sh
    let half := 2 ^ (sh - 1)
    let inexact := rem ≠ 0 || sticky
    let up : Bool :=
      match r.mode with
      | .rne | .dyn => rem > half || (rem == half && (sticky || i % 2 == 1))
      | .rtz => false
      | .rdn => neg && inexact
      | .rup => !neg && inexact
      | .rna => decide (rem ≥ half)
      | .sr =>
        let d := min 32 (q - r.lsb).toNat
        let top := rem * 2 ^ d / 2 ^ sh
        decide (top + r.x / 2 ^ (32 - d) ≥ 2 ^ d) && d != 0
    (if up then i + 1 else i, inexact)

/-- floor(log2(m * 2^e)) for m > 0. -/
def topExp (m : Nat) (e : Int) : Int := (Nat.log2 m : Int) + e

/-- What to do on overflow: IEEE arithmetic, or a narrowing conversion under SATN (R114). -/
inductive Over | ieee | sat | convert (satn : Bool)
  deriving DecidableEq, Repr

/-- The code that an overflow gives (R114). -/
def overflowCode (f : Fmt) (neg : Bool) (mode : RMode) (o : Over) : Nat :=
  let away := match mode with
    | .rtz => false
    | .rdn => neg
    | .rup => !neg
    | _ => true
  let ieee := f.signed neg (if away then f.infCode else f.maxCode)
  let big := f.signed neg f.maxCode
  match o with
  | .ieee => if f.inf then ieee else big
  | .sat => big
  | .convert satn => if satn then big else if f.inf then ieee else if f.nan then f.qnan else big

/-- Round a finite nonzero magnitude into a format: code and flags (R105, R112 to R114). -/
def Fmt.round (f : Fmt) (neg : Bool) (m : Nat) (e : Int) (sticky : Bool) (r : Rnd) (o : Over) : Nat × Nat :=
  if m = 0 then
    if sticky then
      -- a value below every bit: round from a tiny positive stand-in
      let (i, _) := roundAt neg 1 (f.qmin - 80) f.qmin true r
      (f.signed neg i, flUF + flNX)
    else (f.signed neg 0, 0)
  else
    let t := topExp m e
    let q := max (t - f.fr) f.qmin
    let (i, inexact) := roundAt neg m e q sticky r
    let mag := (q - f.qmin).toNat * 2 ^ f.fr + i
    if mag > f.maxCode then (overflowCode f neg r.mode o, flOF + flNX)
    else
      let tiny : Bool :=
        if t < f.qmin + f.fr then
          let r' : Rnd := if r.mode == .sr then ⟨.rne, 0, 0⟩ else r
          let (j, _) := roundAt neg m e (t - f.fr) sticky r'
          !(t == f.qmin + f.fr - 1 && j == 2 ^ (f.fr + 1))
        else false
      (f.signed neg mag, (if inexact then flNX else 0) + (if tiny && inexact then flUF else 0))

/-- Round a value into a format as arithmetic does (R105). -/
def Fmt.put (f : Fmt) (v : Fv) (r : Rnd) (o : Over) : Nat × Nat :=
  match v with
  | .nan sig => (if f.nan then f.qnan else 0, if sig || !f.nan then flNV else 0)
  | .inf neg =>
    if f.inf then (f.signed neg f.infCode, 0)
    else (overflowCode f neg r.mode o, flOF + flNX)
  | .fin neg m e => f.round neg m e false r o

/-! ### Exact arithmetic -/

/-- A signed integer times a power of two. -/
def Fv.int (neg : Bool) (m : Nat) (e base : Int) : Int :=
  let n : Int := (m : Int) * 2 ^ (e - base).toNat
  if neg then -n else n

/-- The value of an integer. -/
def Fv.ofInt (n : Int) (e : Int) : Fv := .fin (decide (n < 0)) n.natAbs e

/-- Exact sum; `down` is RDN, which makes an exact zero from unlike signs negative (IEEE 754). The flags are NV of unlike infinities. -/
def Fv.add (a b : Fv) (down : Bool) : Fv × Nat :=
  match a, b with
  | .nan s, .nan t => (.nan false, if s || t then flNV else 0)
  | .nan s, _ => (.nan false, if s then flNV else 0)
  | _, .nan t => (.nan false, if t then flNV else 0)
  | .inf s, .inf t => if s = t then (.inf s, 0) else (.nan false, flNV)
  | .inf s, .fin _ _ _ => (.inf s, 0)
  | .fin _ _ _, .inf t => (.inf t, 0)
  | .fin n1 m1 e1, .fin n2 m2 e2 =>
    let base := min e1 e2
    let n := Fv.int n1 m1 e1 base + Fv.int n2 m2 e2 base
    if n = 0 then (.fin (if n1 = n2 then n1 else down) 0 base, 0) else (Fv.ofInt n base, 0)

/-- Change the sign. -/
def Fv.neg : Fv → Fv
  | .nan s => .nan s
  | .inf s => .inf (!s)
  | .fin s m e => .fin (!s) m e

/-- Absolute value. -/
def Fv.abs : Fv → Fv
  | .nan s => .nan s
  | .inf _ => .inf false
  | .fin _ m e => .fin false m e

/-- Exact product, with NV of 0 times infinity and of signalling NaNs. -/
def Fv.mul (a b : Fv) : Fv × Nat :=
  match a, b with
  | .nan s, .nan t => (.nan false, if s || t then flNV else 0)
  | .nan s, _ => (.nan false, if s then flNV else 0)
  | _, .nan t => (.nan false, if t then flNV else 0)
  | .inf s, .inf t => (.inf (s != t), 0)
  | .inf s, .fin t m _ => if m = 0 then (.nan false, flNV) else (.inf (s != t), 0)
  | .fin s m _, .inf t => if m = 0 then (.nan false, flNV) else (.inf (s != t), 0)
  | .fin s m1 e1, .fin t m2 e2 => (.fin (s != t) (m1 * m2) (e1 + e2), 0)

/-- Times 2^k, exactly (R107). -/
def Fv.scale (v : Fv) (k : Int) : Fv :=
  match v with
  | .fin s m e => .fin s m (e + k)
  | v => v

/-- Is it a NaN? -/
def Fv.isNan : Fv → Bool
  | .nan _ => true
  | _ => false

/-- Is it a signalling NaN? -/
def Fv.isSnan : Fv → Bool
  | .nan s => s
  | _ => false

/-- Is it finite? -/
def Fv.isFin : Fv → Bool
  | .fin _ _ _ => true
  | _ => false

/-- Is it zero? -/
def Fv.isZero : Fv → Bool
  | .fin _ m _ => m == 0
  | _ => false

/-- Order of two values that are not NaN; zeros are equal. -/
def Fv.cmp (a b : Fv) : Ordering :=
  match a, b with
  | .inf s, .inf t => if s = t then .eq else if s then .lt else .gt
  | .inf s, _ => if s then .lt else .gt
  | _, .inf t => if t then .gt else .lt
  | .fin n1 m1 e1, .fin n2 m2 e2 =>
    let base := min e1 e2
    compare (Fv.int n1 m1 e1 base) (Fv.int n2 m2 e2 base)
  | _, _ => .eq

/-- The bits of an integer square root from bit `n` down. -/
def isqrtFrom (v : Nat) : Nat → Nat → Nat
  | 0, r => r
  | n + 1, r =>
    let c := r + 2 ^ n
    isqrtFrom v n (if c * c ≤ v then c else r)

/-- Integer square root of a number below 2^(2n). -/
def isqrt (n v : Nat) : Nat := isqrtFrom v n 0

/-! ### Operations in one format (R105, R216, R218) -/

/-- Addition. -/
def Fmt.addOp (f : Fmt) (r : Rnd) (a b : Fv) : Nat × Nat :=
  let (v, fl) := a.add b (r.mode == .rdn)
  let (c, fl') := f.put v r .ieee
  (c, fl ||| fl')

/-- Multiplication. -/
def Fmt.mulOp (f : Fmt) (r : Rnd) (a b : Fv) : Nat × Nat :=
  let (v, fl) := a.mul b
  let (c, fl') := f.put v r .ieee
  (c, fl ||| fl')

/-- a * b + c with one rounding; NV for 0 times infinity whatever c is. -/
def Fmt.fmaOp (f : Fmt) (r : Rnd) (a b c : Fv) (negate : Bool) : Nat × Nat :=
  let (p, fl) := a.mul b
  let (v, fl2) := p.add c (r.mode == .rdn)
  let (o, fl3) := f.put (if negate then v.neg else v) r .ieee
  (o, fl ||| fl2 ||| fl3)

/-- Division. -/
def Fmt.divOp (f : Fmt) (r : Rnd) (a b : Fv) : Nat × Nat :=
  match a, b with
  | .nan s, .nan t => (f.qnan, if s || t then flNV else 0)
  | .nan s, _ => (f.qnan, if s then flNV else 0)
  | _, .nan t => (f.qnan, if t then flNV else 0)
  | .inf _, .inf _ => (f.qnan, flNV)
  | .inf s, .fin t _ _ => (f.signed (s != t) f.infCode, 0)
  | .fin s _ _, .inf t => (f.signed (s != t) 0, 0)
  | .fin s m1 e1, .fin t m2 e2 =>
    if m2 = 0 then
      if m1 = 0 then (f.qnan, flNV) else (f.signed (s != t) f.infCode, flDZ)
    else if m1 = 0 then (f.signed (s != t) 0, 0)
    else
      let k : Nat := 130
      let n := m1 * 2 ^ k
      f.round (s != t) (n / m2) (e1 - e2 - k) (decide (n % m2 ≠ 0)) r .ieee

/-- Square root. -/
def Fmt.sqrtOp (f : Fmt) (r : Rnd) (a : Fv) : Nat × Nat :=
  match a with
  | .nan s => (f.qnan, if s then flNV else 0)
  | .inf neg => if neg then (f.qnan, flNV) else (f.infCode, 0)
  | .fin neg m e =>
    if m = 0 then (f.signed neg 0, 0)
    else if neg then (f.qnan, flNV)
    else
      let odd := e % 2 != 0
      let m := (if odd then 2 * m else m) * 2 ^ 140
      let e := (if odd then e - 1 else e) - 140
      let q := isqrt 110 m
      f.round false q (e / 2) (decide (q * q ≠ m)) r .ieee

/-- minimumNumber or maximumNumber on codes: an operand, or the canonical NaN (R105). -/
def Fmt.minmax (f : Fmt) (isMax : Bool) (a b : Nat) : Nat × Nat :=
  let va := f.read a
  let vb := f.read b
  let fl := if va.isSnan || vb.isSnan then flNV else 0
  if va.isNan then (if vb.isNan then f.qnan else b, fl)
  else if vb.isNan then (a, fl)
  else
    let aLess := match va.cmp vb with
      | .lt => true
      | .gt => false
      | .eq => bitAt a (f.ex + f.fr)
    (if aLess != isMax then a else b, fl)

/-- One-hot class (R217). -/
def Fmt.classOf (f : Fmt) (bits : Nat) : Nat :=
  match f.read bits with
  | .nan s => if s then 8 else 9
  | .inf neg => if neg then 0 else 7
  | .fin neg m _ =>
    if m = 0 then (if neg then 3 else 4)
    else if m < 2 ^ f.fr then (if neg then 2 else 5)
    else if neg then 1 else 6

/-! ### Conversions (R113 to R115) -/

/-- One step of the stochastic generator (R113). -/
def srStep (x : Nat) : Nat :=
  let x := Nat.xor x (x * 2 ^ 13 % 2 ^ 32)
  let x := Nat.xor x (x / 2 ^ 17)
  Nat.xor x (x * 2 ^ 5 % 2 ^ 32)

/-- Bounds of an integer type of width `w`. -/
def intLo (signed : Bool) (w : Nat) : Int := if signed then -(2 ^ (w - 1)) else 0
/-- Upper bound of an integer type. -/
def intHi (signed : Bool) (w : Nat) : Int := if signed then 2 ^ (w - 1) - 1 else 2 ^ w - 1

/-- Limit an integer. -/
def clampInt (lo hi i : Int) : Int := if i < lo then lo else if hi < i then hi else i

/-- A value to an integer type: code and flags (R115). -/
def toInt (signed : Bool) (w : Nat) (v : Fv) (r : Rnd) : Nat × Nat :=
  let lo := intLo signed w
  let hi := intHi signed w
  match v with
  | .nan _ => (0, flNV)
  | .inf neg => (ofSigned w (if neg then lo else hi), flNV)
  | .fin neg m e =>
    let (i, inexact) := roundAt neg m e 0 false r
    let n : Int := if neg then -(i : Int) else i
    if n < lo || hi < n then (ofSigned w (clampInt lo hi n), flNV)
    else (ofSigned w n, if inexact then flNX else 0)

/-- An integer code read as an integer. -/
def intOf (signed : Bool) (w v : Nat) : Int := if signed then toSigned w v else ((v % 2 ^ w : Nat) : Int)

/-- Is the integer type code signed (R82)? -/
def tySigned (t : Nat) : Bool := decide (t < 4)

/-- Integer-to-integer conversion: saturating or keeping the low bits (R115). -/
def intToInt (w : Nat) (signed satn : Bool) (n : Int) : Nat :=
  ofSigned w (if satn then clampInt (intLo signed w) (intHi signed w) n else n)

/-! ### OQ4 (R106 to R111, R429) -/

/-- The value of an INT4 nibble. -/
def int4 (n : Nat) : Int := toSigned 4 n

/-- Element `j` of the quad `q` (R108). -/
def oq4Elem (q j : Nat) : Fv :=
  if q % 16 = 8 then
    match j with
    | 0 => e4m3.read (q / 16 % 256)
    | 3 => Fv.ofInt (int4 (q / 4096)) 0
    | _ => .fin false 0 0
  else Fv.ofInt (int4 (q / 16 ^ j)) 0

/-- A value times an E8S scale (R106, R107). -/
def withScale (v : Fv) (code : Nat) : Fv := if code = 255 then .nan false else v.scale ((code : Int) - 127)

/-- The exact value of an element of a type: integer, float or E2M1. -/
def elemValue (ty bits : Nat) : Fv :=
  match fmtOf ty with
  | some f => f.read bits
  | none => Fv.ofInt (intOf (tySigned ty) (if ty = 15 then 4 else 8 * 2 ^ (ty % 4)) bits) 0

/-- An input of an OQ4 encoding: its value and the exponent of its source's last bit. -/
abbrev OqIn := Fv × Int

/-- The larger of two magnitudes; infinity counts as 2^128 (R109). -/
def magMax (a b : Nat × Int) : Nat × Int :=
  let base := min a.2 b.2
  if a.1 * 2 ^ (a.2 - base).toNat < b.1 * 2 ^ (b.2 - base).toNat then b else a

/-- The magnitude that an input has in the choice of scale. -/
def oqMag : Fv → Nat × Int
  | .nan _ => (0, 0)
  | .inf _ => (1, 128)
  | .fin _ m e => (m, e)

/-- The exponent s of R109 for the largest non-lead magnitude. -/
def oqScale (m : Nat × Int) : Int :=
  if m.1 = 0 then 0
  else
    let t := topExp m.1 m.2
    let s := if m.1 * 4 ≤ 7 * 2 ^ Nat.log2 m.1 then t - 2 else t - 1
    if s < -127 then -127 else if 127 < s then 127 else s

/-- Round an input scaled by 2^(-s) to an integer and limit it: nibble value, and whether it was limited. -/
def oqInt (v : OqIn) (s lo : Int) (mode : RMode) (x : Nat) : Int × Bool :=
  match v.1 with
  | .nan _ => (0, false)
  | .inf neg => (if neg then lo else 7, true)
  | .fin neg m e =>
    let (i, _) := roundAt neg m (e - s) 0 false ⟨mode, x, v.2 - s⟩
    let n : Int := if neg then -(i : Int) else i
    (clampInt lo 7 n, decide (n < lo) || decide (7 < n))

/-- Is |y| > 7.5 for a lead? -/
def oqOutlier (v : Fv) (s : Int) : Bool :=
  match v with
  | .nan _ => false
  | .inf _ => true
  | .fin _ m e =>
    -- 2 |y| > 15
    let e2 := e - s + 1
    let base := min e2 0
    decide (15 * 2 ^ (0 - base).toNat < m * 2 ^ (e2 - base).toNat)

/-- Encode one quad of four inputs with their draws: quad and flags (R109, R110). -/
def oqQuad (v0 v1 v2 v3 : OqIn) (s : Int) (mode : RMode) (d0 d1 d2 d3 : Nat) : Nat × Nat :=
  let n1 := oqInt v1 s (-8) mode d1
  let n2 := oqInt v2 s (-8) mode d2
  let n3 := oqInt v3 s (-8) mode d3
  let nib (i : Int) : Nat := ofSigned 4 i
  let lead : Nat × Bool :=
    if oqOutlier v0.1 s then
      let (code, fl) := e4m3.put (v0.1.scale (-s)) ⟨mode, d0, v0.2 - s⟩ .sat
      (nib n3.1 * 4096 + code * 16 + 8, bitAt fl 2)
    else
      let n0 := oqInt v0 s (-7) mode d0
      (nib n3.1 * 4096 + nib n2.1 * 256 + nib n1.1 * 16 + nib n0.1, n0.2)
  let q := lead.1
  let limited := lead.2 || n1.2 || n2.2 || n3.2
  let differs (j : Nat) (v : OqIn) : Bool := ((oq4Elem q j).scale s).cmp v.1 != .eq
  let isNx := differs 0 v0 || differs 1 v1 || differs 2 v2 || differs 3 v3
  (q, (if limited then flOF else 0) + (if isNx then flNX else 0))

/-- `n` generator words after `x`, oldest first. -/
def srDraws (x : Nat) : Nat → List Nat
  | 0 => []
  | n + 1 => srStep x :: srDraws (srStep x) n

/-- Encode a block of 256 inputs: quads packed, scale code, flags, generator after it (R109, R110). -/
def oq4Encode (ins : List OqIn) (mode : RMode) (seed : Nat) : Nat × Nat × Nat × Nat :=
  let anyNan := ins.any fun v => v.1.isNan
  let ins := ins.map fun v => if v.1.isNan then ((.fin false 0 0 : Fv), v.2) else v
  let ks := upTo 256
  let big := (ks.zip ins).foldl (fun acc kv => if kv.1 % 4 = 0 then acc else magMax acc (oqMag kv.2.1)) (0, 0)
  let s := oqScale big
  let draws := if mode = .sr then srDraws seed 256 else []
  let get (k : Nat) : OqIn := ins.getD k (.fin false 0 0, 0)
  let dr (k : Nat) : Nat := draws.getD k 0
  let (bits, fl) := (upTo 64).foldl (fun acc q =>
    let r := oqQuad (get (4 * q)) (get (4 * q + 1)) (get (4 * q + 2)) (get (4 * q + 3)) s mode
      (dr (4 * q)) (dr (4 * q + 1)) (dr (4 * q + 2)) (dr (4 * q + 3))
    (acc.1 + r.1 * 2 ^ (16 * q), acc.2 ||| r.2)) (0, 0)
  (bits, (s + 127).toNat, fl ||| (if anyNan then flNV else 0), draws.getLast?.getD seed)

/-! ### Quantisation of a block (R252) -/

/-- Q of R252. -/
def quantLimit (ty : Nat) : Nat := match ty with
  | 12 => 448
  | 13 => 57344
  | 14 => 6
  | _ => 127

/-- The scale exponent of R252: the least s with mx at most Q * 2^s, limited to -127 .. 127; 0 for mx = 0. -/
def quantScale (ty : Nat) (mx : Nat × Int) : Int :=
  if mx.1 = 0 then 0
  else
    let q := quantLimit ty
    let s0 := topExp mx.1 mx.2 - (Nat.log2 q : Int)
    let base := min mx.2 s0
    let s := if mx.1 * 2 ^ (mx.2 - base).toNat ≤ q * 2 ^ (s0 - base).toNat then s0 else s0 + 1
    if s < -127 then -127 else if 127 < s then 127 else s

/-- Does a NaN keep its place as the canonical NaN (E4M3, E5M2)? -/
def keepsNan (ty : Nat) : Bool := ty == 12 || ty == 13

/-- One element of a block under the exponent `s`: code and flags. -/
def quantElem (ty : Nat) (v : OqIn) (s : Int) (mode : RMode) (x : Nat) : Nat × Nat :=
  match fmtOf ty with
  | some f =>
    if v.1.isNan then (if keepsNan ty then f.qnan else 0, flNV)
    else if !v.1.isFin then (f.signed (v.1.cmp (.fin false 0 0) == .lt) f.maxCode, flOF + flNX)
    else
      let (c, fl) := f.put (v.1.scale (-s)) ⟨mode, x, v.2 - s⟩ .sat
      let nx := if ((f.read c).scale s).cmp v.1 = .eq then 0 else flNX
      (c, (fl &&& (flOF + flUF)) ||| nx)
  | none =>
    match v.1 with
    | .nan _ => (0, flNV)
    | .inf neg => (ofSigned 8 (if neg then -127 else 127), flOF + flNX)
    | .fin neg m e =>
      let (i, _) := roundAt neg m (e - s) 0 false ⟨mode, x, v.2 - s⟩
      let n : Int := if neg then -(i : Int) else i
      let c := clampInt (-127) 127 n
      let nx := if ((Fv.ofInt c 0).scale s).cmp v.1 = .eq then 0 else flNX
      (ofSigned 8 c, (if c = n then 0 else flOF) + nx)

/-- Encode a block whose first `n` inputs lie below VL: packed codes, scale code, flags, generator after it. Under SR each of them draws but one that gives the canonical NaN, as R252 states (log 11: R113's general point excepts more). -/
def quantBlock (ty : Nat) (ins : List OqIn) (n : Nat) (mode : RMode) (seed : Nat) : Nat × Nat × Nat × Nat :=
  let w := if ty = 14 then 4 else 8
  let mx := ins.foldl (fun acc v => magMax acc (oqMag v.1)) (0, 0)
  let s := quantScale ty mx
  let r := (upTo n).foldl (fun acc k =>
    let v := ins.getD k (.fin false 0 0, 0)
    let draw := mode == .sr && !(v.1.isNan && keepsNan ty)
    let seed := if draw then srStep acc.2.2 else acc.2.2
    let (c, fl) := quantElem ty v s mode seed
    (acc.1 + c * 2 ^ (w * k), acc.2.1 ||| fl, seed)) (0, 0, seed)
  (r.1, (s + 127).toNat, r.2.1, r.2.2)

end Sys2Proof.Machine
end

