-- ==== Sys2Proof/Config.lean ====
section
/-! DEFINITION. What an implementation fixes, and the free values.
A constant with no body is a value that the spec leaves open: nothing can be proved of it. -/
namespace Sys2Proof.Config

/-- WBWAIT of R145, in fc. -/
def wbWait : Nat := 1048576

/-- AGTMO of R399, in fc. -/
def agTmo : Nat := 1048576

/-- The rewalk interval of a write-blocked store (R145), in fc. -/
def wbRewalk : Nat := 1024

/-- 10 us in fc at 1.6 GHz: the unit of a page lease's length (R6, R174). -/
def leaseUnit : Nat := 16000

/-- Length of a lease in lease ac (R275). -/
def leaseAc : Nat := 8192

/-- DESIGN CHOICE (log 5). A value that R4 calls unpredictable: some value of the stated width, one for each use. -/
opaque freeWord : Nat → Word

/-- DESIGN CHOICE (log 5). The contents of a vector that R4 leaves open, one for each use. -/
opaque freeBits : Nat → Nat

/-- DESIGN CHOICE (log 5). A choice that the spec leaves to the hardware among a finite set, one for each use; the user of it takes it modulo the number of choices. -/
opaque pick : Nat → Nat

/-- HDMBASE of R349: where the host has placed the device's memory in its own addresses. -/
opaque hdmBase : Nat

/-- DESIGN CHOICE (log 14). The SHA-256 measurement with index `i` of R360; the firmware images are not part of the machine. -/
opaque measurement : Nat → Nat

/-- DESIGN CHOICE (log 14). The signature of a report (R360), made with a device key that is fused and secret. -/
opaque signReport : List Nat → Nat

end Sys2Proof.Config
end

