-- ==== Sys2Proof/Machine/State.lean ====
section
/-! DEFINITION. The state of one BX4 module as plain data (R25, R75 and the rules named at each field).
Maps are sparse: a key that is not listed holds the reset value. -/
namespace Sys2Proof.Machine

/-! ### Contexts -/

/-- A context: a core (0 to 1023; 1024 + s is service core s) and a berth 0 to 7, or 8 and 9 for handler slots H0 and H1 (R14, R25, R46). -/
structure CtxId where
  core : Nat
  idx : Nat
  deriving DecidableEq, Repr

/-- The key of a context in the map of contexts. -/
def CtxId.key (c : CtxId) : Nat := c.core * 16 + c.idx

/-- The context of a key. -/
def CtxId.ofKey (k : Nat) : CtxId := ⟨k / 16, k % 16⟩

/-- A full/empty bit, or a failed register with its cause, address and TRAPMASK (R78, R367, R368). -/
inductive RegSt
  | full
  | empty
  | failed (cause addr mask : Nat)
  deriving DecidableEq, Repr

/-- A vector register: element type code, scaled flag, packed elements, scale side array (R82, R84).
Element `k` of width `w` lies at bit `k * w`; an unlisted scale is 127. -/
structure VReg where
  ty : Nat
  s : Bool
  bits : Nat
  sc : KMap Nat
  deriving DecidableEq, Repr

/-- A vector register at grant (R88). -/
def VReg.zero : VReg := ⟨0, false, 0, []⟩

/-- An entry of a load queue; `id` names the load that fills it (R86). -/
structure QEnt where
  id : Nat
  r : VReg
  st : RegSt
  deriving DecidableEq, Repr

/-- An entry that holds zeros. -/
def QEnt.zero : QEnt := ⟨0, VReg.zero, .full⟩

/-- A watermark binding (R87, R74). -/
structure Wm where
  bound : Bool
  addr : Nat
  base : Nat
  shift : Nat
  scope : Scope
  deriving DecidableEq, Repr

/-- An unbound binding. -/
def Wm.none : Wm := ⟨false, 0, 0, 0, .cl⟩

/-- Vector state of a berth thread (R25, R82 to R91); masks are bit sets, m1 to m7 listed by number. -/
structure VState where
  g : Nat
  vl : Nat
  v : KMap VReg
  st : KMap RegSt
  m : KMap Nat
  q : KMap (List QEnt)
  /-- the last two results (R87); a long-latency one fills its entry when it returns -/
  l0 : QEnt
  l1 : QEnt
  /-- results produced since the grant, at most 2: an l register that none reached holds no rows (R74) -/
  used : Nat
  w : KMap Wm
  /-- intact elements of failed loads, held apart (R394) -/
  held : KMap VReg
  deriving DecidableEq, Repr

/-- Vector state right after a grant of size `g` (R85 to R88). -/
def VState.init (g vl : Nat) : VState := ⟨g, vl, [], [], [], [], QEnt.zero, QEnt.zero, 0, [], []⟩

/-- The line that a context runs: address, bytes, heads and predication bits read at entry (R177 to R182). -/
structure Line where
  base : Nat
  bytes : Nat
  n : Nat
  mask : Nat
  deriving DecidableEq, Repr

/-- Whether a berth or slot holds a thread (R26). READY, STALLED and SLEEPING follow from the thread's next instruction. -/
inductive Occ | free | occupied | draining | lent
  deriving DecidableEq, Repr

/-- Lease states (R275). -/
inductive Lease | none | waiting | held | lapsed
  deriving DecidableEq, Repr

/-- Destination of a long-latency result (R78, R86), or what waits for a peer's answer: an instruction, or a Ferry command for so many bytes (R173). -/
inductive Dst
  | none
  | x (r : Nat)
  | quad (r : Nat)
  | v (n : Nat)
  | q (n : Nat)
  | last
  | ask (pkg : Nat) (op : PeerOp)
  | ferry (cmd len : Nat)
  deriving DecidableEq, Repr

/-- Waits that another agent ends by a token (R26, R33, R229, R325, R328, R335). A waiting take has marked its destination empty and keeps what its marker was; MLEASE keeps the lease state before it. WAITV keeps the words that it waits for at this module's homes, by address, with the latest read of each, and whether all must be nonzero (R232). A load that its watermark does not admit keeps the word's address and the greatest value that does not admit it (R168). An access to a page that a peer may write waits for its recall (R174). A blocking FERRY waits for room in the FIFO, with its landing word as found; an FJOIN waits for the commands of its tag (R26). -/
inductive Wait
  | lock (addr : Nat)
  | group (addr : Nat)
  | take (dst : Dst) (before : RegSt)
  | post
  | compose
  | lease (before : Lease)
  | writeBlock (since last va : Nat)
  | landing (pa g : Nat)
  | ack
  | peer
  | fifo (land : Option Nat)
  | join (tag : Nat)
  | words (all : Bool) (l : List (Nat × Nat))
  | mark (pa lim : Nat)
  | recallOf (page : Nat)
  deriving DecidableEq, Repr

/-- An error due at a wait point: cause and virtual address (R393). -/
structure Report where
  cause : Nat
  addr : Nat
  deriving DecidableEq, Repr

/-- Combined STREAM bytes of one word: data, byte mask, region, virtual address (R139). -/
structure Comb where
  data : Nat
  mask : Nat
  region : Nat
  va : Nat
  deriving DecidableEq, Repr

/-- A page as it was translated when a command issued (R280): PA / 64 KiB, mode, region, HOSTC, ASID. -/
structure PageX where
  pa : Nat
  mode : Nat
  region : Nat
  hostc : Bool
  asid : Nat
  deriving DecidableEq, Repr

/-- Translated pages by VA / 64 KiB. -/
abbrev Pages := KMap PageX

/-- Commands of an OPA stream with everything captured at issue (R279, R285 to R292): slots and tiles, rows, addresses with their pages, rounding. A stride is its 64-bit form; `y` is 0 where an element is a nibble; masks are bit sets. -/
inductive OpaCmd
  | slclaim (slots : List Nat)
  | slload (col : Bool) (fmt slot l0 n base st y : Nat) (pages : Pages)
  | scale (slot base : Nat) (pages : Pages)
  | aclaim (t : Nat) (i32 : Bool)
  | mzero (t : Nat)
  | mop (t sa sb fa fb k : Nat)
  | mops (t sa sb fa fb : Nat)
  | mrd (pend t i0 vl mask : Nat)
  | mwr (t i0 vl mask data : Nat)
  | mst (t i0 n base st d : Nat) (mode : RMode) (satn : Bool) (seed : Nat) (pages : Pages)
  | mlease (k : Nat)
  | mfree
  deriving DecidableEq, Repr

/-- A command in a stream; a leased one is performed only after the array accepted it (R277). `since` is the fc at which it reached the array. -/
structure StreamEnt where
  cmd : OpaCmd
  accepted : Bool
  since : Nat
  deriving DecidableEq, Repr

/-- What a home module answers: a value, or the cause of an error: REG_EMPTY for a lost result, POISON or UNCORRECTABLE for bad data (R392, R430). -/
inductive Reply
  | value (v : Nat)
  | bad (cause : Nat)
  deriving DecidableEq, Repr

/-- A request to a peer module that an instruction waits for: the package, what is asked, and the answer once it is there. -/
structure Ask where
  pkg : Nat
  op : PeerOp
  ans : Option Reply
  deriving DecidableEq, Repr

/-- A context: berth or handler slot (R25, R75, R95 to R99). -/
structure Ctx where
  occ : Occ
  /-- serial number of the thread, for ownership inside the machine -/
  uid : Nat
  tid : Nat
  x : KMap Word
  xs : KMap RegSt
  pc : Nat
  pl : Nat
  ergBit : Bool
  trapBit : Bool
  nopre : Bool
  tstatus : Word
  trappc : Word
  trapcause : Word
  trapval : Word
  trapmask : Word
  ptbase : Nat
  asid : Nat
  fcsr : Nat
  seed : Nat
  vs : Option VState
  line : Option Line
  /-- wake bit of HALT (R207) -/
  wake : Bool
  /-- a Ferry command of the thread ended with a status other than 1 (R302) -/
  fbad : Bool
  /-- shortfall flag of the berth (R90) -/
  short : Bool
  /-- end of a YIELD hold, in fc (R306) -/
  hold : Option Nat
  /-- instructions that a handler has issued (R375) -/
  issued : Nat
  /-- the message a handler runs for, and its channel (R374) -/
  hmsg : Option Msg
  hchan : Nat
  /-- trap entry taken and nothing issued since (R371) -/
  entry : Bool
  /-- an XBANK move of SETVL in progress: destination and value (R93) -/
  moving : Option (Nat × Nat)
  inst : Option Nat
  /-- start order of the thread, for the choice of a victim (R72) -/
  order : Nat
  lease : Lease
  leaseK : Nat
  leaseUsed : Nat
  /-- the fc since which the berth waits for a grant, or at which its lease lapsed (R275, R276) -/
  leaseSince : Nat
  stream : List StreamEnt
  comb : KMap Comb
  reports : List Report
  msyncReports : List Report
  ergSize : Nat
  ergHeld : Bool
  wait : Option Wait
  /-- the answer that ends a wait -/
  token : Option (List Word)
  /-- requests to peers that the instruction waits for, with their answers (R430) -/
  asks : List Ask
  /-- physical addresses that an instruction in a restartable wait has found: it does not translate again (R372) -/
  pas : List Nat
  /-- the thread is being preempted: it stops at its next instruction boundary, its berth then drains until the save (R26, R73) -/
  saving : Bool
  /-- a register, by the code of R368, whose storage has lost its content (R421) -/
  regErr : Option Nat
  deriving DecidableEq, Repr

/-- A context after reset. Registers with no reset value hold 0, SEEDSR 1 (log 2, DESIGN CHOICE). -/
def Ctx.reset : Ctx :=
  { occ := .free, uid := 0, tid := 0, x := [], xs := [], pc := 0, pl := 0, ergBit := false, trapBit := false,
    nopre := false, tstatus := 0, trappc := 0, trapcause := 0, trapval := 0, trapmask := 0, ptbase := 0, asid := 0,
    fcsr := 0x100, seed := 1, vs := none, line := none, wake := false, fbad := false, short := false, hold := none,
    issued := 0, hmsg := none, hchan := 0, entry := false, moving := none, inst := none, order := 0, lease := .none,
    leaseK := 0, leaseUsed := 0, leaseSince := 0, stream := [], comb := [], reports := [], msyncReports := [],
    ergSize := 0, ergHeld := false, wait := none, token := none, asks := [], pas := [], saving := false, regErr := none }

/-! ### Cores and clusters -/

/-- A word of a core's L1 (R140, R158): data, region, dirty and registered marks, home core of the erg that it is held for on another member (R340), poison mark, last writer's thread and address, and the ASID of the translation where its page counts host accesses (R146). -/
structure L1W where
  data : Word
  region : Nat
  dirty : Bool
  reg : Bool
  erg : Option Nat
  poison : Bool
  uid : Nat
  va : Nat
  host : Option Nat
  deriving DecidableEq, Repr

/-- A word of a near partition; `cl` names the core that registered it at CL (R17, R158), `uid` and `va` the thread that wrote it and its address. -/
structure NearW where
  data : Word
  region : Nat
  cl : Option Nat
  poison : Bool
  uid : Nat
  va : Nat
  deriving DecidableEq, Repr

/-- A translation held in a TLB (R134, R142). `size` is the log2 of the page. -/
structure TlbE where
  va : Nat
  size : Nat
  asid : Nat
  g : Bool
  pa : Nat
  hostc : Bool
  mode : Nat
  region : Nat
  d : Bool
  wb : Bool
  usr : Bool
  x : Bool
  w : Bool
  deriving DecidableEq, Repr

/-- A fault log (R378); an entry is its eight words. -/
structure FaultLog where
  prod : Nat
  cons : Nat
  lost : Nat
  ents : KMap (List Nat)
  deriving DecidableEq, Repr

/-- A saved thread (R73, R74): save slot, what the thread keeps inside the machine, the berth and VLANES that it was saved under. -/
structure Saved where
  slot : Nat
  ctx : Ctx
  berth : Nat
  lanes : Nat
  deriving DecidableEq, Repr

/-- A Ferry command as issued (R295 to R299). -/
structure FerryCmd where
  id : Nat
  uid : Nat
  tid : Nat
  ctxKey : Nat
  pl : Nat
  ptbase : Nat
  asid : Nat
  inst : Option Nat
  w0 : Nat
  w1 : Nat
  w2 : Nat
  w3 : Nat
  /-- physical address of the landing word of COMPL 00, found at issue (R297) -/
  land : Option Nat
  deriving DecidableEq, Repr

/-- A run of presented bytes that a command reads or writes: from a virtual address, or nowhere (R296). `why` is the fault of a gather row whose index could not be used: code and address of the index (R405). -/
structure Extent where
  va : Option Nat
  len : Nat
  why : Option (Nat × Nat)
  deriving DecidableEq, Repr

/-- A command taken by an engine (R299, R405 to R407). `src` and `dst` are its two sides as its records gave them, `swin` and `dwin` their WIN fields. `pos` is the place in the stream of bytes up to which it has come, `errs` what failed on the way, as address and code, `waits` how many of its writes a peer's home has not acknowledged. `pieces` are the chunks of destination bytes performed and not yet counted; `land` and `landVa` are the addresses of the landing word; `blocked` says that at the last walk a destination page was write-blocked (R391), or that the way to a home was held (R358, R417, R418). -/
structure FerryJob where
  cmd : FerryCmd
  src : List Extent
  dst : List Extent
  swin : Nat
  dwin : Nat
  pos : Nat
  errs : List (Nat × Nat)
  waits : Nat
  moved : Bool
  blocked : Bool
  pieces : List Nat
  bytes : Nat
  status : Nat
  fcode : Nat
  faddr : Nat
  land : Option Nat
  landVa : Nat
  recorded : Bool
  deriving DecidableEq, Repr

/-- State of a core or service core (R75, R14, R15, R36, R39, R45, R52). -/
structure Core where
  tvec : Nat
  vlanes : Nat
  vrfb : Nat
  vrfcap : Nat
  fixed : Bool
  mboxdepth : Nat
  mboxpol : Bool
  htab : Nat
  hptbase : Nat
  hasid : Nat
  hsup : Bool
  hbudget : Nat
  wincfg : KMap Word
  saveBase : Nat
  saveN : Nat
  lend : Bool
  usrc : Bool
  chmask : Nat
  banks : Nat
  hprev : Bool
  left : Nat
  owed : List Nat
  last : Nat
  lastSlot : Nat
  /-- channel last started at each priority (R45) -/
  lastCh : KMap Nat
  box : List Msg
  held : List Msg
  reqOut : Nat
  repOut : Nat
  fifo : List FerryCmd
  l1 : KMap L1W
  icache : KMap Nat
  dtlb : List TlbE
  saved : List Saved
  log : FaultLog
  hostdisc : Nat
  /-- MODEL: the fc after that of the core's last issue opportunity; fc 0 is that of the boot (R52; log 4) -/
  seen : Nat
  deriving DecidableEq, Repr

/-- A core after reset (R97 to R99, R45, R52); `lanes` is 32, or 16 on a narrow core (R22). The captured handler address space, the channel rotation and the slot rotation are DESIGN CHOICE (log 2). -/
def Core.reset (lanes : Nat) : Core :=
  { tvec := 0, vlanes := lanes, vrfb := 16, vrfcap := 28, fixed := false, mboxdepth := 32, mboxpol := false, htab := 0,
    hptbase := 0, hasid := 0, hsup := false, hbudget := 2048, wincfg := [], saveBase := 0, saveN := 0, lend := true,
    usrc := true, chmask := 0, banks := 16, hprev := false, left := 0, owed := [], last := 7, lastSlot := 1,
    lastCh := [], box := [], held := [], reqOut := 0, repOut := 0, fifo := [], l1 := [], icache := [], dtlb := [],
    saved := [], log := ⟨0, 0, 0, []⟩, hostdisc := 0, seen := 1 }

/-- A watchpoint (R63, R311). -/
structure Watch where
  handle : Nat
  pa : Nat
  n : Nat
  mask : Word
  value : Word
  record : Nat
  once : Bool
  ptbase : Nat
  asid : Nat
  sup : Bool
  deriving DecidableEq, Repr

/-- An operand slot of the array: 16 KiB as a number, format, orientation, sidecar, owner (R273, R274, R286). -/
structure Slot where
  bytes : Nat
  scales : KMap Nat
  owner : Option Nat
  deriving DecidableEq, Repr

/-- An accumulator tile: 128 rows of 128 32-bit elements, type, owner (R273, R274, R290). -/
structure Tile where
  rows : KMap Nat
  i32 : Bool
  owner : Option Nat
  deriving DecidableEq, Repr

/-- A CBU item that is not DONE (R315 to R317): taken or not, TSEQ, window entry, body IDs, payload. An item is ISSUABLE when it is not taken and no earlier item of its session shares a body. -/
structure Item where
  taken : Bool
  tseq : Nat
  entry : Nat
  bodies : List Nat
  payload : Nat
  /-- its payload was lost on the way (R422) -/
  bad : Bool
  deriving DecidableEq, Repr

/-- A take or a post waiting at the CBU (R319, R321): its thread, session slot and SEQ, the most items a take may get, the item of a post. -/
structure CbuWait where
  ctxKey : Nat
  uid : Nat
  slot : Nat
  seq : Nat
  most : Nat
  bodies : List Nat
  payload : Nat
  deriving DecidableEq, Repr

/-- A CBU session (R313, R326, R331): items in posting order, waiting takes in arrival order. -/
structure Session where
  seq : Nat
  scope : Nat
  accepted : Nat
  closed : Bool
  items : List Item
  takes : List CbuWait
  deriving DecidableEq, Repr

/-- State of a cluster (R16, R17); keys 256 + s hold the near copies and translations of service core s. -/
structure Cluster where
  near : KMap NearW
  tlb : List TlbE
  watch : KMap (Option Watch)
  watchSeq : Nat
  slots : KMap Slot
  tiles : KMap Tile
  /-- the HELD berth by its context's key, the fc of the last command boundary, the fc at which the last freeze ended, the fc of the grant, and the fc at which a freeze began (R275 to R278) -/
  opaHeld : Option Nat
  opaBoundary : Nat
  opaThaw : Nat
  leaseStart : Nat
  opaLastCore : Nat
  opaLastBerth : KMap Nat
  frozen : Option Nat
  sessions : KMap (Option Session)
  cbuSeq : Nat
  cbuPosts : List CbuWait
  jobs : List FerryJob
  ferryRot : Nat
  spawnLast : Nat
  ergQueue : List Nat
  deriving DecidableEq, Repr

/-- An operand slot after reset: no owner; contents and sidecar DESIGN CHOICE 0 and 127 (log 2). -/
def Slot.reset : Slot := ⟨0, [], none⟩
/-- A tile after reset. -/
def Tile.reset : Tile := ⟨[], false, none⟩

/-- A cluster after reset; the first scans begin at core 0 (R28; DESIGN CHOICE, log 2, for the arbiters). -/
def Cluster.reset : Cluster :=
  { near := [], tlb := [], watch := [], watchSeq := 0, slots := [], tiles := [], opaHeld := none, opaBoundary := 0, opaThaw := 0,
    leaseStart := 0, opaLastCore := 3,
    opaLastBerth := [], frozen := none, sessions := [], cbuSeq := 0, cbuPosts := [], jobs := [], ferryRot := 3,
    spawnLast := 3, ergQueue := [] }

/-! ### Tasks -/

/-- Where a task instance stands (R60 to R71). -/
inductive InstSt | pending | satisfied | queued | live | done
  deriving DecidableEq, Repr

/-- A task instance (R56, R58, R60 to R71). -/
structure Inst where
  record : Nat
  ptbase : Nat
  asid : Nat
  entry : Nat
  argp : Word
  rows : Nat
  cols : Nat
  prio : Nat
  grain : Nat
  compl : Nat
  hintv : Bool
  hint : Nat
  qmask : Nat
  diemask : Nat
  nopre : Bool
  sup : Bool
  /-- the agent that pushed it was at SUP or MON -/
  psup : Bool
  maxthr : Nat
  depVa : Nat
  depPa : Nat
  depThr : Nat
  owner : Nat
  rb : Nat
  c : Nat
  started : Nat
  /-- threads that have not left DRAINING, the SAVED ones included -/
  threads : Nat
  ferries : Nat
  lost : Nat
  since : Nat
  st : InstSt
  deriving DecidableEq, Repr

/-- A hot-page counter (R146). -/
structure Hot where
  page : Nat
  va : Nat
  asid : Nat
  count : Nat
  deriving DecidableEq, Repr

/-- A line request to a host page that counts accesses, on its way to the service core of its quadrant: cluster, physical and virtual address, ASID (R146). -/
structure HotReq where
  cl : Nat
  pa : Nat
  va : Nat
  asid : Nat
  deriving DecidableEq, Repr

/-- State of a quadrant's dispatcher and counters, by service ID (R12, R62, R68, R99, R146). -/
structure Disp where
  tdage : Nat
  hotthr : Nat
  hotq : Nat
  qptbase : Nat
  qasid : Nat
  queues : KMap (List Nat)
  satisfied : List Nat
  hot : List Hot
  deriving DecidableEq, Repr

/-- A dispatcher after reset (R99). -/
def Disp.reset : Disp := ⟨2500, 256, 0, 0, 0, [], [], []⟩

/-! ### The module -/

/-- The holder of a registered word (R159): a core's L1 or a cluster's near partition. -/
inductive Holder
  | l1 (core : Nat)
  | near (cl : Nat)
  deriving DecidableEq, Repr

/-- Who returns a result: the cluster itself, the holder of a registered word to which the home forwards the read (R159), a scratchpad port, the home slices of a die, a peer module, a base die that an atomic was forwarded to (R227, R358, R400, R430), or the home once it has recalled the word of an atomic from its holder (R159, R399). -/
inductive Origin
  | here
  | fwd (h : Holder)
  | spm (core : Nat)
  | home (die : Nat)
  | peer (pkg : Nat)
  | base (die : Nat)
  | recall (h : Holder)
  deriving DecidableEq, Repr

/-- An element of a vector load: its number, its addresses, and who returns it (R400). -/
structure Elem where
  k : Nat
  va : Nat
  pa : Nat
  src : Origin
  deriving DecidableEq, Repr

/-- A result in flight (R78): its thread, destination, values, address, and the way it fails (R367), if it does: cause, address, TRAPMASK. A peer's answer supplies the value of its results (R173, R430), extended as `ext` says: the width in bits and whether the sign is copied. -/
structure Pend where
  id : Nat
  ctxKey : Nat
  uid : Nat
  dst : Dst
  xs : List Word
  vr : VReg
  va : Nat
  fail : Option (Nat × Nat × Nat)
  origin : Origin
  ext : Nat × Bool
  /-- the elements that a vector load accesses -/
  elems : List Elem
  /-- the physical address of the request -/
  pa : Nat
  /-- the fc at which the request left (R399) -/
  since : Nat
  deriving DecidableEq, Repr

/-- An atomic that its home slice has begun: forwarded to a base die (R358), or behind the recall of its word (R159, R399). -/
structure BaseOp where
  pa : Nat
  op : AmoOp
  wide : Bool
  b : Word
  c : Word
  pend : Nat
  uid : Nat
  ctxKey : Nat
  va : Nat
  deriving DecidableEq, Repr

/-- A request sent to a peer module through a port (R173, R352, R354). -/
structure PeerReq where
  pend : Nat
  pkg : Nat
  port : Nat
  op : PeerOp
  deriving DecidableEq, Repr

/-- A write performed at home that a watchpoint matched, waiting to push its instance (R64). -/
structure Hit where
  cl : Nat
  watch : Watch
  deriving DecidableEq, Repr

/-- A waiter of a queue lock or a group record (R33, R229): a context and its thread, or a peer's request by number; a group waiter is a held JOIN or a GBAR, a lock waiter a QACQ or a VLOCK. -/
structure Waiter where
  peer : Bool
  ctxKey : Nat
  uid : Nat
  second : Bool
  ident : Nat
  deriving DecidableEq, Repr

/-- State register of an agent (R398). -/
structure AgentSt where
  susp : Bool
  dead : Bool
  inc : Nat
  deriving DecidableEq, Repr

/-- A shootdown port (R143): its registers, and the values under which the running shootdown began. -/
structure SdPort where
  va : Nat
  ctl : Nat
  runVa : Nat
  runCtl : Nat
  done : Nat
  lost : Bool
  busy : Bool
  deriving DecidableEq, Repr

/-- A page grant that this module holds from a peer (R174, R355): for a read grant, the fc at which its lease ends, timed from the request. -/
structure PageGrant where
  pkg : Nat
  write : Bool
  ends : Nat
  deriving DecidableEq, Repr

/-- A request for a page grant that waits at this home (R355): the package, and whether it asks to write. -/
structure GrantAsk where
  pkg : Nat
  write : Bool
  deriving DecidableEq, Repr

/-- A lease record that this home module keeps (R174, R355): length in units of 10 us, grantees with a running lease and the fc at which it ends, the write grantee, the fc since which a hand-over is awaited, and the requests that wait in arrival order. -/
structure LeaseRec where
  len : Nat
  readers : KMap Nat
  writer : Option Nat
  recalled : Option Nat
  asks : List GrantAsk
  deriving DecidableEq, Repr

/-- Fused values and boot reports (R22, R23). -/
structure Fuses where
  step : Nat
  part : Nat
  clmask : KMap Nat
  narrow : KMap Nat
  pcmask : KMap Nat
  stkcfg : KMap Nat
  deriving DecidableEq, Repr

/-- The default of a cluster mask: every cluster present. -/
def fullMask : Nat := 2 ^ 64 - 1

/-- Page-grant traffic of this module (R174, R352, R355): a request for a page, a grant, a recall, the return of a page. -/
inductive GrantMsg
  | request (page : Nat) (write : Bool)
  | grant (page pkg : Nat) (write : Bool) (len : Nat)
  | recallOf (page pkg : Nat)
  | back (page : Nat)
  deriving DecidableEq, Repr

/-- What leaves the module and is seen by others: MSI-X messages, completions of host requests (what was asked, and bytes with their poison mark, or an error), SPDM reports, requests to peers, answers to peers, messages to peers with their port, handler-start notices to peers, page-grant traffic with its port, and answers of the CXL.cache agents to snoops: the cluster, and the address with the mark that its near partition had the line, or an error (R36, R175, R350, R352, R360). -/
structure Outs where
  msix : List (Nat × Nat)
  hostData : List (HostAt × Nat × Option (List Nat × Bool))
  reports : List (List Nat × Nat)
  peers : List PeerReq
  answers : List (Nat × Reply)
  msgs : List (Nat × Msg)
  notices : List (Nat × Nat)
  grants : List (Nat × GrantMsg)
  snoops : List (Nat × Nat × Option Bool)
  deriving DecidableEq, Repr

/-- The state of one module. -/
structure State where
  /-- memory by physical address: local HBM, scratchpads through window 0, host memory (R122) -/
  mem : List Host.Cell
  /-- poisoned words, by PA / 8 (R395) -/
  poison : KMap Bool
  /-- dies whose local HBM is poisoned as a whole (R400); the words above then list the exceptions -/
  poisonDie : Nat
  /-- words, by PA / 8, of which the next access at the home meets an uncorrectable error: in the storage, or in the data of a write (R392, R395; log 37) -/
  flaws : KMap Bool
  /-- what the ports know of the 16 bytes of a landing word, by PA / 16: bit 3, LWINIT has been there; bit 2, it is lost; bits 0 and 1, its words that still need SCRUB (R404) -/
  landLost : KMap Nat
  /-- requests to host pages not yet counted (R146) -/
  hotReqs : List HotReq
  /-- home registrations, by PA / 8 (R159) -/
  reg : KMap (Option Holder)
  /-- lines that a home partition holds, by PA / 64 (R17, R358) -/
  homeLines : KMap Bool
  ctx : KMap Ctx
  core : KMap Core
  cl : KMap Cluster
  disp : KMap Disp
  insts : KMap Inst
  nextInst : Nat
  locks : KMap (List Waiter)
  /-- lock words that are held, by PA, and whether VLOCK took them (R228, R231, R414) -/
  heldLocks : KMap (Option Bool)
  groups : KMap (List Waiter)
  msgs : List Msg
  pend : List Pend
  nextPend : Nat
  baseq : List BaseOp
  hits : List Hit
  notices : List Nat
  pkgid : Nat
  route : KMap Nat
  mbicfg : KMap Nat
  mbiNext : KMap (Option Nat)
  portfail : Nat
  bootstat : Nat
  sd : KMap SdPort
  agCore : KMap AgentSt
  agDie : KMap AgentSt
  agPkg : KMap AgentSt
  fuse : Fuses
  /-- stacks whose base-die report failed the checks at reset, as a bit set (R357) -/
  badStacks : Nat
  grants : KMap (Option PageGrant)
  leases : KMap LeaseRec
  edgeFail : List (Nat × Nat)
  cxlDown : Bool
  /-- MSI-X vectors that are masked, and those pending behind a mask, as bit sets (R350) -/
  msixMask : Nat
  msixPend : Nat
  fc : Nat
  /-- requests of peers received so far -/
  nextPeer : Nat
  out : Outs
  /-- MODEL: outside events and hardware choices still to come, each with the fc that pass before it (log 4) -/
  agenda : List (Nat × Instr)
  /-- MODEL: a context that the next step must issue from (log 4) -/
  chosen : Option CtxId
  /-- MODEL: the context an instruction acts for -/
  cur : CtxId
  /-- MODEL: the last context tried could only wait -/
  waited : Bool
  /-- MODEL: what a unit that acts in one step found out of its reach: a page to recall, or the way of an access held (R174, R417, R418; log 36) -/
  lacks : List (Option Nat)
  /-- MODEL: free values used so far (log 5) -/
  freeN : Nat
  /-- MODEL: thread serials given so far -/
  nextUid : Nat
  /-- MODEL: the default schedule's last step was an event (log 4) -/
  turn : Bool
  deriving DecidableEq, Repr

/-- Why the machine stops: it never does. Every condition that the spec names is a trap, an event or a log entry, all of them next states; a module held in reset lets time pass (R359). -/
inductive Fault
  deriving DecidableEq, Repr

/-- Why an instruction has no meaning. -/
inductive Refusal
  /-- Raised by an arm of `exec` whose instruction has no meaning yet. Safe. -/
  | notModelled (mnemonic : String)
  deriving DecidableEq, Repr

/-- Fused values of a full PJ-BX4-512 (R24; log 3, DESIGN CHOICE): every unlisted cluster mask is full, every narrow mask 0, every stack 65,536 MiB of height 16. -/
def Fuses.full : Fuses := ⟨0, 1, [], [], [], []⟩

/-- The module right after reset: the boot in progress (R359); `step` ends it. -/
def State.reset : State :=
  { mem := [], poison := [], poisonDie := 0, flaws := [], landLost := [], hotReqs := [], reg := [], homeLines := [], ctx := [], core := [], cl := [], disp := [], insts := [],
    nextInst := 0, locks := [], heldLocks := [], groups := [], msgs := [], pend := [], nextPend := 0, baseq := [], hits := [],
    notices := [], pkgid := 0, route := [], mbicfg := [], mbiNext := [], portfail := 0, bootstat := 0, sd := [],
    agCore := [], agDie := [], agPkg := [], fuse := Fuses.full, badStacks := 0, grants := [], leases := [],
    edgeFail := [], cxlDown := false, msixMask := 0xFFFF, msixPend := 0, fc := 0, nextPeer := 0, out := ⟨[], [], [], [], [], [], [], [], []⟩, agenda := [], chosen := none,
    cur := ⟨0, 0⟩, waited := false, lacks := [], freeN := 0, nextUid := 1, turn := false }

end Sys2Proof.Machine
end

