-- ==== Sys2Proof/Machine/Base.lean ====
section
/-! DEFINITION. Finding and changing parts of the state, identifiers of agents, and the form of an instruction's meaning. -/
namespace Sys2Proof.Machine

/-! ### Identifiers (R12, R20) -/

/-- Is the agent a service core? -/
def isSvc (core : Nat) : Bool := decide (1024 ≤ core)

/-- The cluster of a core. DESIGN CHOICE (log 48): service core s has a near partition, an L2 TLB, walkers and Ferry engines of its own, under the key 256 + s; R13 and R149 give it none of a cluster's. -/
def clusterOf (core : Nat) : Nat := if isSvc core then 256 + (core - 1024) else core / 4

/-- The die of a core (R20). -/
def dieOf (core : Nat) : Nat := if isSvc core then (core - 1024) / 4 else core / 256

/-- Quadrant of a cluster on its die: 2 (y >> 2) + (x >> 2) (R12). -/
def quadOfCluster (cl : Nat) : Nat := 2 * ((cl / 8 % 8) / 4) + (cl % 8) / 4

/-- The service ID of a cluster's quadrant (R20). -/
def svcOfCluster (cl : Nat) : Nat := 4 * (cl / 64) + quadOfCluster cl

/-- The service ID of a core's quadrant; a service core's own. -/
def svcOfCore (core : Nat) : Nat := if isSvc core then core - 1024 else svcOfCluster (core / 4)

/-- Is the context a handler slot? -/
def CtxId.isHandler (c : CtxId) : Bool := decide (8 ≤ c.idx)

/-- Kind of a context (R20). -/
def CtxId.kind (c : CtxId) : Nat := (if isSvc c.core then 2 else 0) + (if c.isHandler then 1 else 0)

/-- Thread ID of a context by its position (R20). -/
def CtxId.tid (c : CtxId) : Nat :=
  let n := if c.isHandler then c.idx - 8 else c.idx
  if isSvc c.core then 8 * (c.core - 1024) + n else 8 * c.core + n

/-! ### Parts of the state -/

/-- Is the cluster present (R22)? -/
def State.clusterPresent (s : State) (cl : Nat) : Bool :=
  decide (cl < 256) && bitAt (KMap.find fullMask s.fuse.clmask (cl / 64)) (cl % 64)

/-- Is the core present? Every service core is. -/
def State.corePresent (s : State) (core : Nat) : Bool :=
  if isSvc core then decide (core < 1040) else s.clusterPresent (core / 4)

/-- Is the core's vector unit limited to 16 lanes (R22)? -/
def State.narrow (s : State) (core : Nat) : Bool := bitAt (KMap.find 0 s.fuse.narrow (core / 64)) (core % 64)

/-- A context. -/
def State.ctxAt (s : State) (c : CtxId) : Ctx := KMap.find Ctx.reset s.ctx c.key

/-- A context under the trap registers and the wake bit of a berth, which are the berth's and not its thread's (R75, R207). -/
def Ctx.inBerth (x b : Ctx) : Ctx :=
  { x with wake := b.wake, tstatus := b.tstatus, trappc := b.trappc, trapcause := b.trapcause, trapval := b.trapval, trapmask := b.trapmask }

/-- A berth that its thread has left: its own registers stay (R75). -/
def Ctx.vacate (b : Ctx) : Ctx := { Ctx.reset.inBerth b with ptbase := b.ptbase, asid := b.asid }

/-- Change a context. -/
def State.updCtx (s : State) (c : CtxId) (f : Ctx → Ctx) : State :=
  { s with ctx := KMap.ins s.ctx c.key (f (s.ctxAt c)) }

/-- A core. -/
def State.coreAt (s : State) (n : Nat) : Core :=
  KMap.find (Core.reset (if s.narrow n then 16 else 32)) s.core n

/-- Change a core. -/
def State.updCore (s : State) (n : Nat) (f : Core → Core) : State :=
  { s with core := KMap.ins s.core n (f (s.coreAt n)) }

/-- A cluster. -/
def State.clAt (s : State) (n : Nat) : Cluster := KMap.find Cluster.reset s.cl n

/-- Change a cluster. -/
def State.updCl (s : State) (n : Nat) (f : Cluster → Cluster) : State :=
  { s with cl := KMap.ins s.cl n (f (s.clAt n)) }

/-- A dispatcher. -/
def State.dispAt (s : State) (n : Nat) : Disp := KMap.find Disp.reset s.disp n

/-- Change a dispatcher. -/
def State.updDisp (s : State) (n : Nat) (f : Disp → Disp) : State :=
  { s with disp := KMap.ins s.disp n (f (s.dispAt n)) }

/-- The context that an instruction acts for. -/
def State.me (s : State) : Ctx := s.ctxAt s.cur

/-- Change the context that an instruction acts for. -/
def State.updMe (s : State) (f : Ctx → Ctx) : State := s.updCtx s.cur f

/-- An agent's state register before anything is written (R398). -/
def AgentSt.reset : AgentSt := ⟨false, false, 0⟩

/-- Is the core declared dead, itself or with its die (R398, R400)? -/
def State.coreDead (s : State) (core : Nat) : Bool :=
  (KMap.find AgentSt.reset s.agDie (dieOf core)).dead ||
    (!isSvc core && (KMap.find AgentSt.reset s.agCore core).dead)

/-! ### Home slices (R22, R125) -/

/-- The present clusters of a die in stop order, and the absent ones. -/
def State.dieStops (s : State) (die : Nat) (present : Bool) : List Nat :=
  (upTo 64).filter fun k => s.clusterPresent (64 * die + k) == present

/-- The cluster that homes a class-000 offset: the slot of R125, mapped as R22 gives on a degraded die. -/
def State.homeSlice (s : State) (pa : Nat) : Nat :=
  let die := fld64 pa 37 2
  let slot := Nat.xor (Nat.xor (fld64 pa 6 6) (fld64 pa 12 6)) (fld64 pa 18 4)
  let stop :=
    if s.clusterPresent (64 * die + slot) then slot
    else
      let i := ((s.dieStops die false).takeWhile (· != slot)).length
      (s.dieStops die true).getD i slot
  64 * die + stop
where
  /-- bits of an address -/
  fld64 (n lo w : Nat) : Nat := n / 2 ^ lo % 2 ^ w

/-- The 39-bit offset that decides the home slice; a peer's line has its proxy home by the same rule (R173). -/
def homeOffset (pa : Nat) : Nat := pa % 2 ^ 39

/-! ### Links to peers (R353, R354, R418) -/

/-- The ports that may carry traffic to a package, less the failed ones. -/
def State.ports (s : State) (p : Nat) : Nat :=
  let r := KMap.find 0 s.route p
  if bitAt r 16 then (upTo 16).foldl (fun acc j => setBit acc j (bitAt r j && !bitAt s.portfail j)) 0 else 0

/-- Does the route table name ports for the package (R353)? -/
def State.routed (s : State) (p : Nat) : Bool := bitAt (KMap.find 0 s.route p) 16 && KMap.find 0 s.route p % 2 ^ 16 != 0

/-- Is the package reached (R353)? -/
def State.reached (s : State) (p : Nat) : Bool := s.ports p != 0

/-- The port that traffic to a package leaves through: the (h mod c)-th set bit (R354). -/
def State.portFor (s : State) (p h : Nat) : Nat :=
  let l := (upTo 16).filter fun j => bitAt (s.ports p) j
  l.getD (h % l.length) 0

/-- The number h of an access (R354). -/
def accessHash (pa : Nat) : Nat := Nat.xor (pa / 2 ^ 6 % 64) (pa / 2 ^ 12 % 64)

/-- Is the access of a result still to be performed: a write that is not acknowledged, or an operation that a peer module, a base die, or a home after a recall performs? Every other load took its value when it issued (log 6). -/
def Pend.unperformed (p : Pend) : Bool :=
  p.dst == .none || match p.origin with
    | .peer _ | .base _ | .recall _ => true
    | _ => false

/-- Are accesses of a thread not performed (R156)? -/
def State.unperformed (s : State) (uid : Nat) : Bool := s.pend.any fun p => p.uid == uid && p.unperformed

/-- Does the pending result end something of its thread: a register, or an atomic that its home has begun? Requests of an instruction that waits are its own, and a write to a peer needs its acknowledgement only at a wait point. -/
def Pend.result (p : Pend) : Bool :=
  match p.dst, p.origin with
  | .ask _ _, _ => false
  | .none, .base _ | .none, .recall _ => true
  | .none, _ => false
  | _, _ => true

/-- Has a thread results outstanding (R73, R343)? -/
def State.resultsDue (s : State) (uid : Nat) : Bool := s.pend.any fun p => p.uid == uid && p.result

/-- Is an atomic outstanding at its home on a line that the bytes touch (R358)? -/
def State.baseHeld (s : State) (pa n : Nat) : Bool :=
  s.baseq.any fun b => decide (pa / 64 ≤ b.pa / 64) && decide (b.pa / 64 ≤ (pa + n - 1) / 64)

/-- The edges that traffic between two dies crosses: the horizontal one first (R10, R351, R428). -/
def edgesBetween (a b : Nat) : List (Nat × Nat) :=
  let turn := if a % 2 = b % 2 then a else Nat.xor a 1
  (if turn = a then [] else [(min a turn, max a turn)]) ++ (if turn = b then [] else [(min turn b, max turn b)])

/-- Is traffic between two dies held by a failed edge of which neither die is declared dead (R417)? -/
def State.edgeHeld (s : State) (a b : Nat) : Bool :=
  (edgesBetween a b).any fun e => s.edgeFail.contains e &&
    !(KMap.find AgentSt.reset s.agDie e.1).dead && !(KMap.find AgentSt.reset s.agDie e.2).dead

/-- Is new traffic to a package held: some request outstanding there left through a port that its address does not choose any more (R418)? -/
def State.portHeld (s : State) (pkg : Nat) : Bool :=
  s.pend.any fun p => p.origin == .peer pkg && s.out.peers.any fun r =>
    r.pend == p.id && r.pkg == pkg && r.port != s.portFor pkg (accessHash r.op.offset)

/-- A lease record before anything is granted: 10 us (R174). -/
def LeaseRec.reset : LeaseRec := ⟨1, [], none, none, []⟩

/-- The lease record of a page of this module. -/
def State.lease (s : State) (page : Nat) : LeaseRec := KMap.find LeaseRec.reset s.leases page

/-- Replace it. -/
def State.setLease (s : State) (page : Nat) (r : LeaseRec) : State := { s with leases := KMap.put LeaseRec.reset s.leases page r }

/-- May a peer write the page of a class-000 address under a grant of this module (R174)? -/
def State.lentPage (s : State) (pa : Nat) : Bool := (s.lease (pa / 65536)).writer.isSome

/-- The die of a UALink port (R19). -/
def portDie (port : Nat) : Nat := port / 4

/-- The first die that an access meets outside its own: of its home, of the port to its package, of the CXL port, of the scratchpad's core (R19, R20, R122). -/
def State.targetDie (s : State) (core pa : Nat) : Nat :=
  match pa / 2 ^ 49 % 8 with
  | 0 => pa / 2 ^ 37 % 4
  | 1 =>
    let k := pa / 2 ^ 35 % 1024
    if bitAt pa 34 then k % 16 / 4 else k / 256
  | 2 => portDie (s.portFor (pa / 2 ^ 39 % 1024) (accessHash pa))
  | 3 => 0
  | _ => dieOf core

/-- The die of a holder. -/
def Holder.die : Holder → Nat
  | .l1 c => dieOf c
  | .near k => if k < 256 then k / 64 else (k - 256) / 4

/-- Must the home cross a failed edge to a holder of words of the lines that the bytes touch, for a forward or a recall (R159, R417)? -/
def State.recallHeld (s : State) (pa n : Nat) : Bool :=
  !s.edgeFail.isEmpty && (upTo (8 * ((pa + n + 63) / 64 - pa / 64))).any fun k =>
    (KMap.find none s.reg (8 * (pa / 64) + k)).any fun h => s.edgeHeld (s.homeSlice pa / 64) h.die

/-- Is an access of a core held on its way: behind an atomic of the base die (R358), by a failed edge (R19, R417), by a failed port (R418)? -/
def State.wayHeld (s : State) (core pa n : Nat) : Bool :=
  s.edgeHeld (dieOf core) (s.targetDie core pa) || s.recallHeld pa n ||
    match pa / 2 ^ 49 % 8 with
    | 0 => s.baseHeld pa n
    | 2 => s.portHeld (pa / 2 ^ 39 % 1024)
    | _ => false

/-- Does an access of a core wait before its home can take it: held on its way, or for the recall of a write grant (R174)? -/
def State.heldBack (s : State) (core pa n : Nat) : Bool :=
  s.wayHeld core pa n || (pa / 2 ^ 49 % 8 == 0 && s.lentPage pa)

/-- What a unit that acts in one step found out of its reach: a page to recall first, or the way of an access held. -/
def State.lack (s : State) (p : Option Nat) : State := { s with lacks := s.lacks ++ [p] }

/-- A unit comes to an access of `n` bytes: a page that a peer may write must be recalled first (R174), and its way must be open (R358, R417, R418). -/
def State.reach (s : State) (core pa n : Nat) : State :=
  let s := if pa / 2 ^ 49 % 8 = 0 && s.lentPage pa then s.lack (some (pa / 65536)) else s
  if s.wayHeld core pa n then s.lack none else s

/-- A unit comes to traffic from one die to another: a failed edge on the way holds it (R417). -/
def State.cross (s : State) (a b : Nat) : State := if s.edgeHeld a b then s.lack none else s

/-- Does traffic from a die to another package wait: for the edge on the way to its port, for requests on a port that failed, or because every port has failed (R352, R354, R417, R418)? -/
def State.outHeld (s : State) (die pkg h : Nat) : Bool :=
  s.edgeHeld die (portDie (s.portFor pkg h)) || s.portHeld pkg || (s.routed pkg && !s.reached pkg)

/-- The die from which page-grant traffic of a page leaves: that of its home slice, or of its proxy home (R125, R173). -/
def State.grantDie (s : State) (page : Nat) : Nat := s.homeSlice (page * 65536) / 64

/-- Does page-grant traffic of a page wait on its way? -/
def State.grantHeld (s : State) (pkg page : Nat) : Bool := s.outHeld (s.grantDie page) pkg (page % 1024)

/-- Page-grant traffic leaves through the port of its page (R352, R354); where its way is held, what sends it waits (R417, R418). -/
def State.sendGrant (s : State) (pkg page : Nat) (m : GrantMsg) : State :=
  if s.grantHeld pkg page then s.lack none
  else { s with out := { s.out with grants := s.out.grants ++ [(s.portFor pkg (page % 1024), m)] } }

/-- The home recalls the write grant of a page, once, as soon as the way is open: it awaits the hand-over (R174, R355). -/
def State.askRecall (s : State) (page : Nat) : State :=
  let r := s.lease page
  match r.writer, r.recalled with
  | some p, none =>
    if s.grantHeld p page then s else (s.sendGrant p page (.recallOf page p)).setLease page { r with recalled := some s.fc }
  | _, _ => s

/-- Recall the pages that a step found lent to peers. -/
def State.askRecalls (s : State) (l : List (Option Nat)) : State :=
  (l.filterMap id).foldl (fun (s : State) p => s.askRecall p) s

/-- A unit's step as a whole: it happens where everything that it touches is within reach; else nothing happens but the recalls that it needs (R174, R417, R418; log 36). -/
def State.whole (s : State) (f : State → State) : State :=
  let t := f s
  if t.lacks = s.lacks then t else s.askRecalls t.lacks

/-- Accesses that waited for a recall go on where no peer may write the page any more. -/
def State.wakeRecalls (s : State) : State :=
  { s with ctx := s.ctx.map fun e => (e.1, match e.2.wait with
      | some (.recallOf page) => if (s.lease page).writer.isNone then { e.2 with wait := none } else e.2
      | _ => e.2) }

/-- Send a request about a class-010 address to its home module, numbered as the next result (R352). -/
def State.sendPeer (s : State) (pa : Nat) (op : PeerOp) : State :=
  let p := pa / 2 ^ 39 % 1024
  { s with nextPend := s.nextPend + 1,
           out := { s.out with peers := s.out.peers ++ [⟨s.nextPend, p, s.portFor p (accessHash pa), op⟩] } }

/-- A free value of 64 bits (R4; log 5). -/
def State.free (s : State) : Word × State := (Config.freeWord s.freeN, { s with freeN := s.freeN + 1 })

/-! ### Ergs -/

/-- The members of an erg of size `n` with this home core (R332). -/
def ergMembers (home n : Nat) : List Nat :=
  if n = 2 then [home / 2 * 2, home / 2 * 2 + 1]
  else if n = 4 then (upTo 4).map fun k => home / 4 * 4 + k
  else [home]

/-- The data member of an erg access: (A[7:6] xor A[9:8] xor A[11:10]) mod n for the 64-byte line (R336, R339). -/
def lineMember (va n : Nat) : Nat :=
  Nat.xor (Nat.xor (va / 2 ^ 6 % 4) (va / 2 ^ 8 % 4)) (va / 2 ^ 10 % 4) % n

/-- Is the context an erg's home now: composed, and not in trap context (R332, R344)? -/
def Ctx.composed (x : Ctx) : Bool := x.ergBit && !x.trapBit && x.ergSize != 0

/-- The member of the context's erg to which a line hashes; its own core where it is no erg (R336, R339). -/
def Ctx.memberCore (x : Ctx) (core va : Nat) : Nat :=
  if x.composed then (ergMembers core x.ergSize).getD (lineMember va x.ergSize) core else core

/-- The L1 that performs a data access, and whose line it is there: the erg's data member, or the context's own core (R339, R340). -/
def Ctx.member (x : Ctx) (core va : Nat) : Nat × Option Nat :=
  let m := x.memberCore core va
  (m, if m = core then none else some core)

/-- The cores of a cluster's key: its four, or the one service core. -/
def clusterCores (cl : Nat) : List Nat := if cl < 256 then (upTo 4).map fun k => 4 * cl + k else [1024 + (cl - 256)]

/-! ### The form of a meaning -/

/-- Why an instruction does not complete: a trap with cause, TRAPVAL and TRAPMASK (R365), a wait that leaves nothing behind (R26), or a wait whose effects so far stand. -/
inductive Stop
  | trap (cause val mask : Nat)
  | stall
  | sleep (w : Wait)
  deriving DecidableEq, Repr

/-- A computation over the state that may stop. -/
abbrev M (α : Type) := ExceptT Stop (StateM State) α

/-- The state after a computation and how it ended. -/
def M.go {α : Type} (m : M α) (s : State) : Except Stop α × State := StateT.run (ExceptT.run m) s

/-- Change the state. -/
def upd (f : State → State) : M Unit := modify f

/-- Change the acting context. -/
def updMe (f : Ctx → Ctx) : M Unit := modify fun s => s.updMe f

/-- The acting context. -/
def me : M Ctx := do return (← get).me

/-- The acting context's name. -/
def curId : M CtxId := do return (← get).cur

/-- Stop with a trap whose TRAPMASK is zero. -/
def trap {α : Type} (cause val : Nat) : M α := throw (.trap cause val 0)

/-- Wait with no effect; the instruction is tried again. -/
def stall {α : Type} : M α := throw .stall

/-- A free value. -/
def freeW : M Word := do
  let s ← get
  set s.free.2
  return s.free.1

/-- Trap when the condition holds. -/
def trapIf (c : Bool) (cause val : Nat) : M Unit := if c then trap cause val else pure ()

/-! ### Trap causes (R365) -/
namespace Cause
def illegalLine : Nat := 0x01
def illegalOp : Nat := 0x02
def badTarget : Nat := 0x03
def priv : Nat := 0x04
def regEmpty : Nat := 0x05
def misalign : Nat := 0x06
def tag : Nat := 0x07
def vstate : Nat := 0x08
def subbyteStride : Nat := 0x09
def shape : Nat := 0x0A
def pageLoad : Nat := 0x10
def pageStore : Nat := 0x11
def pageFetch : Nat := 0x12
def pageAtomic : Nat := 0x13
def writeBlocked : Nat := 0x14
def protection : Nat := 0x15
def poison : Nat := 0x18
def uncorrectable : Nat := 0x19
def sendqFull : Nat := 0x20
def handlerBudget : Nat := 0x22
def handlerBlock : Nat := 0x23
def lease : Nat := 0x28
def slot : Nat := 0x29
def tile : Nat := 0x2A
def ferryFault : Nat := 0x30
def cbuState : Nat := 0x38
def ergState : Nat := 0x40
def taskQueueFull : Nat := 0x48
def watchFull : Nat := 0x49
def software : Nat := 0x50
def machineCheck : Nat := 0xF0
end Cause

/-- A value kept to its low 64 bits. -/
def wd (n : Nat) : Word := BitVec.ofNat 64 n

/-- Wait for what a step finds out of its reach: for the hand-over of a page that has been recalled (R174), or for the way (R358, R417, R418). -/
def waitLacks {α : Type} (l : List (Option Nat)) : M α := do
  upd fun s => s.askRecalls l
  let s ← get
  match (l.filterMap id).find? fun p => (s.lease p).recalled.isSome with
  | some p => throw (.sleep (.recallOf p))
  | none => stall

/-- Accesses, each with its core, address and length, wait where their way is held (R358, R417, R418); one to a page that a peer may write recalls its grant first and waits for the hand-over (R174). -/
def wayGate (l : List (Nat × Nat × Nat)) : M Unit := do
  let s ← get
  if l.any fun a => s.heldBack a.1 a.2.1 a.2.2 then
    waitLacks (l.foldl (fun (s : State) a => s.reach a.1 a.2.1 a.2.2) { s with lacks := [] }).lacks

/-- What another unit does for an instruction as a whole: it happens where everything that it touches is within reach, else the instruction waits. -/
def wholeM {α : Type} (f : State → α × State) : M α := do
  let s ← get
  let r := f s
  if r.2.lacks = s.lacks then
    set r.2
    return r.1
  else waitLacks r.2.lacks

end Sys2Proof.Machine
end

