-- ==== Sys2Proof/Machine/Log.lean ====
section
/-! DEFINITION. Fault logs and reports to service cores (R378, R379, R420, R421), and the errors that a thread meets at its next wait point (R392, R393). -/
namespace Sys2Proof.Machine

/-! ### Fault logs (R378, R379) -/

/-- The service core that a core reports to (R379). -/
def reportCore (core : Nat) : Nat := 1024 + svcOfCore core

/-- Sender word of R46: package, channel, kind, thread ID. -/
def senderWord (m : Msg) : Nat := m.srcPkg * 2 ^ 32 + m.chan * 2 ^ 16 + m.srcKind * 2 ^ 14 + m.srcTid

/-- A core itself as the sender of a message (R20). -/
def coreSender (core : Nat) : Nat × Nat :=
  if isSvc core then (3, 8 * (core - 1024) + 7) else (1, 8 * core + 7)

/-- What an event writes into a fault log. -/
structure LogEntry where
  kind : Nat
  cause : Nat
  slot : Nat
  msg : Option Msg
  chan : Nat
  pc : Nat
  val : Nat
  deriving DecidableEq, Repr

/-- The eight words of an entry (R378, R420). -/
def LogEntry.words (e : LogEntry) (seq : Nat) : List Nat :=
  let net := match e.msg with
    | some m => if m.rep then 1 else 0
    | none => 0
  let pay := match e.msg with
    | some m => senderWord m :: m.payload.map BitVec.toNat
    | none => [0, 0, 0, 0, 0]
  [seq * 2 ^ 48 + e.kind * 2 ^ 28 + e.slot * 2 ^ 26 + net * 2 ^ 25 + e.chan * 2 ^ 16 + e.cause, e.pc, e.val] ++ pay

/-- Write an event into the fault log of a core, or count it as lost, and report it (R378, R379). -/
def State.logFault (s : State) (core : Nat) (e : LogEntry) : State :=
  let l := (s.coreAt core).log
  let room := decide ((l.prod + 65536 - l.cons) % 65536 < 8)
  let l' : FaultLog :=
    if room then { l with prod := (l.prod + 1) % 65536, ents := KMap.ins l.ents (l.prod % 8) (e.words l.prod) }
    else { l with lost := (l.lost + 1) % 65536 }
  let s := s.updCore core fun c => { c with log := l' }
  let id := if isSvc core then (core - 1024) + 1024 else core
  let w0 := id % 1024 + (if isSvc core then 1024 else 0) + e.kind * 2 ^ 16 + (if room then 0 else 2 ^ 31) + l.prod * 2 ^ 32
  let snd := coreSender core
  let m : Msg := ⟨true, reportCore core, s.pkgid, 62, s.pkgid, snd.1, snd.2, core, [wd w0, wd e.cause, 0, 0], false, 0, true, false⟩
  { s with msgs := s.msgs ++ [m] }

/-- TRAPVAL of a data error: register code and address (R368). -/
def dataVal (code addr : Nat) : Nat := code * 2 ^ 56 + addr % 2 ^ 56

/-- Reports still due at a wait point become machine-check entries with ADDR when the thread ends (R392, R421 code 3). -/
def State.logReports (s : State) (core : Nat) (l : List Report) : State :=
  l.foldl (fun s r => s.logFault core ⟨10, 3, 0, none, 0, 0, r.addr % 2 ^ 56⟩) s

/-- The context in which a thread stands; number 0 is no thread. -/
def State.ctxOf (s : State) (uid : Nat) : Option CtxId :=
  if uid = 0 then none else (s.ctx.find? fun e => e.2.uid == uid && e.2.occ != .free).map fun e => CtxId.ofKey e.1

/-- Record an error due at the next wait point of the thread that wrote (R393): a saved thread keeps it; of a thread that has ended it becomes a machine-check report of the core (R392, R421 code 3). -/
def State.report (s : State) (core uid cause va : Nat) : State :=
  let add (x : Ctx) : Ctx := { x with reports := x.reports ++ [⟨cause, va⟩] }
  match s.ctxOf uid with
  | some c => if (s.ctxAt c).occ = .draining && !(s.ctxAt c).saving then s.logReports core [⟨cause, va⟩] else s.updCtx c add
  | none =>
    if (s.coreAt core).saved.any fun v => v.ctx.uid == uid then
      s.updCore core fun k => { k with saved := k.saved.map fun v => if v.ctx.uid = uid then { v with ctx := add v.ctx } else v }
    else s.logReports core [⟨cause, va⟩]

end Sys2Proof.Machine
end

