-- ==== Sys2Proof/Machine/Home.lean ====
section
/-! DEFINITION. Words and bytes at their home, and what scratchpad windows present of them (R108 to R115, R122, R127 to R132, R159, R395). -/
namespace Sys2Proof.Machine

/-! ### Addresses (R122, R127 to R129) -/

/-- `w` bits of `n` from bit `lo` up. -/
def bitsAt (n lo w : Nat) : Nat := n / 2 ^ lo % 2 ^ w

/-- The class of a physical address (R122). -/
def paClass (pa : Nat) : Nat := bitsAt pa 49 3

/-- Width in bits of an element type code (R82). -/
def tyWidth (t : Nat) : Nat :=
  match t with
  | 0 | 4 | 12 | 13 => 8
  | 1 | 5 | 10 | 11 => 16
  | 2 | 6 | 9 => 32
  | 3 | 7 | 8 => 64
  | _ => 4

/-- A window's stored and presented formats, scaling, scale offset and rounding code, where it is legal (R128, R129). -/
structure Window where
  sfmt : Nat
  dfmt : Nat
  scaled : Bool
  scoff : Nat
  rm : Nat
  deriving DecidableEq, Repr

/-- The type is a signed or unsigned integer. -/
def tyIsInt (t : Nat) : Bool := decide (t < 8)

/-- Window `n` of a core, windows 1 to 15; none where EN = 0 or the pair is illegal (R128, R129). -/
def State.window (s : State) (core n : Nat) : Option Window :=
  match n with
  | 1 => some ⟨12, 11, false, 0, 0⟩
  | 2 => some ⟨13, 11, false, 0, 0⟩
  | 3 => some ⟨14, 11, false, 0, 0⟩
  | 4 => some ⟨15, 11, true, 0x3F800, 0⟩
  | 5 => some ⟨12, 9, false, 0, 0⟩
  | 6 => some ⟨0, 9, false, 0, 0⟩
  | 7 => some ⟨11, 9, false, 0, 0⟩
  | _ =>
    let c := (KMap.find 0 (s.coreAt core).wincfg (n - 8)).toNat
    let sf := bitsAt c 0 4
    let df := bitsAt c 4 4
    let sc := bitAt c 13
    if bitAt c 12 && decide (df < 12) && decide (tyWidth sf ≤ tyWidth df) && (!tyIsInt df || tyIsInt sf) &&
        (sf != 15 || sc) then
      some ⟨sf, df, sc, bitsAt c 32 18, bitsAt c 8 3⟩
    else none

/-- Parts of a class-001 address: window, service flag, core or service ID, offset (R122). -/
structure SpmAddr where
  window : Nat
  svc : Bool
  core : Nat
  off : Nat
  deriving DecidableEq, Repr

/-- The parts of a class-001 address; the core number is the model's (1024 + s for service core s). -/
def spmAddr (pa : Nat) : SpmAddr :=
  if bitAt pa 34 then ⟨bitsAt pa 45 4, true, 1024 + bitsAt pa 35 4, bitsAt pa 0 34⟩
  else ⟨bitsAt pa 45 4, false, bitsAt pa 35 10, bitsAt pa 0 34⟩

/-- Where a byte of a scratchpad is held in memory: its window-0 address (R127). -/
def spmPa (core off : Nat) : Nat :=
  if isSvc core then 2 ^ 49 + (core - 1024) * 2 ^ 35 + 2 ^ 34 + off else 2 ^ 49 + core * 2 ^ 35 + off

/-! ### Memory -/

/-- What an unlisted byte of memory reads as (log 1, DESIGN CHOICE: the spec gives no contents after power-on). -/
def unlistedByte : Byte := 0

/-- The byte of memory at an address. -/
def readByte (mem : List Host.Cell) (a : Nat) : Byte := KMap.find unlistedByte mem a

/-- Write one byte, keeping the canonical form. -/
def writeByte (mem : List Host.Cell) (a : Nat) (b : Byte) : List Host.Cell := KMap.put unlistedByte mem a b

/-- The canonical form of memory: addresses rise strictly and no entry equals what an unlisted address reads as. -/
def Memory.wf (mem : List Host.Cell) : Bool := KMap.canon unlistedByte mem

/-- `n` bytes from `a`, the lowest address least significant (R5). -/
def readBytes (mem : List Host.Cell) (a : Nat) : Nat → Nat
  | 0 => 0
  | n + 1 => (readByte mem a).toNat + 256 * readBytes mem (a + 1) n

/-- Write `n` bytes of `v` from `a` up, the least significant at the lowest address (R5). -/
def writeBytes (mem : List Host.Cell) (a v : Nat) : Nat → List Host.Cell
  | 0 => mem
  | n + 1 => writeBytes (writeByte mem a (BitVec.ofNat 8 v)) (a + 1) (v / 256) n

/-- The class of a word number (R122). -/
def wordClass (w : Nat) : Nat := w * 8 / 2 ^ 49

/-- Does the word lie in a peer module (class 010)? Addresses of the module's own package are class 000 by then (R124). -/
def foreignWord (w : Nat) : Bool := wordClass w == 2

/-- Is the word cached under the registration protocol: local HBM or a peer's (R139)? -/
def cachedWord (w : Nat) : Bool := wordClass w == 0 || wordClass w == 2

/-- The word of memory at its home, before forwarding. -/
def State.memWord (s : State) (w : Nat) : Word := wd (readBytes s.mem (8 * w) 8)

/-- Loads that a watermark holds, when its word goes bad: each reads it again and fails (R404). -/
def wakeMarks (w : Nat) (l : KMap Ctx) : KMap Ctx :=
  l.map fun e => match e.2.wait with
    | some (.mark pa _) => if pa / 8 = w then (e.1, { e.2 with wait := none }) else e
    | _ => e

/-- Store a whole word in memory. -/
def State.setMemWord (s : State) (w : Nat) (v : Word) : State := { s with mem := writeBytes s.mem (8 * w) v.toNat 8 }

/-- Is the word's die poisoned as a whole (R400)? -/
def State.diePoison (s : State) (w : Nat) : Bool := wordClass w == 0 && bitAt s.poisonDie (8 * w / 2 ^ 37 % 4)

/-- Does the word hold an uncorrectable error that no access has met (R392, R395)? -/
def State.flawed (s : State) (w : Nat) : Bool := KMap.find false s.flaws w

/-- Does the word carry the mark of poison at its home (R395)? -/
def State.marked (s : State) (w : Nat) : Bool := KMap.find (s.diePoison w) s.poison w

/-- Is the word's content at its home unusable: poisoned, or with an uncorrectable error (R392, R395)? -/
def State.poisoned (s : State) (w : Nat) : Bool := s.marked w || s.flawed w

/-- The cause with which an access to a bad word fails (R392). -/
def State.errCause (s : State) (w : Nat) : Nat := if s.flawed w then Cause.uncorrectable else Cause.poison

/-- What becomes of the landing word that a word belongs to: a bad word of it loses it as a whole, a SCRUB of a word serves for that word (R404). -/
def State.landMark (s : State) (w : Nat) (b : Bool) : KMap Nat :=
  let k := KMap.find 0 s.landLost (w / 2)
  if !bitAt k 3 then s.landLost
  else
    let k := if b || s.poisoned w then k ||| 7 else k
    KMap.put 0 s.landLost (w / 2) (if b then k else setBit k (w % 2) false)

/-- Mark a word poisoned, or clear the mark as SCRUB does; its error is then gone. -/
def State.setPoison (s : State) (w : Nat) (b : Bool) : State :=
  { s with poison := KMap.put (s.diePoison w) s.poison w b, flaws := KMap.put false s.flaws w false, landLost := s.landMark w b,
           ctx := if b then wakeMarks w s.ctx else s.ctx }

/-- An access met the word at its home: an uncorrectable error found there poisons the word (R395). -/
def State.met (s : State) (w : Nat) : State := if s.flawed w then s.setPoison w true else s

/-- The home registration of a word (R159). -/
def State.holder (s : State) (w : Nat) : Option Holder := KMap.find none s.reg w

/-- A core's L1 copy of a word. -/
def l1Find (m : KMap L1W) (w : Nat) : Option L1W := (m.find? fun e => e.1 == w).map (·.2)

/-- A near partition's copy of a word. -/
def nearFind (m : KMap NearW) (w : Nat) : Option NearW := (m.find? fun e => e.1 == w).map (·.2)

/-- The L1 word of a core. -/
def State.l1 (s : State) (core w : Nat) : Option L1W := l1Find (s.coreAt core).l1 w

/-- The near-partition word of a cluster. -/
def State.near (s : State) (cl w : Nat) : Option NearW := nearFind (s.clAt cl).near w

/-- What a holder keeps of a word for its home: the data, their poison mark, the core, thread and address that wrote them. -/
structure Held where
  data : Word
  poison : Bool
  core : Nat
  uid : Nat
  va : Nat
  deriving DecidableEq, Repr

/-- The word that a holder keeps for its home. -/
def State.heldData (s : State) (w : Nat) : Option Held :=
  match s.holder w with
  | some (.l1 c) => (s.l1 c w).map fun e => ⟨e.data, e.poison, c, e.uid, e.va⟩
  | some (.near k) => (s.near k w).map fun e => ⟨e.data, e.poison, e.cl.getD (4 * k), e.uid, e.va⟩
  | none => none

/-- A read performed at home: forwarded to the holder of a registered word (R159). The mark says that the word is unusable. -/
def State.homeWord (s : State) (w : Nat) : Word × Bool :=
  match s.heldData w with
  | some h => (h.data, h.poison || s.poisoned w)
  | none => (s.memWord w, s.poisoned w)

/-! ### Bytes -/

/-- The numbers of the words that `n` bytes from `pa` touch. -/
def wordsOf (pa n : Nat) : List Nat := if n = 0 then [] else (upTo ((pa + n - 1) / 8 - pa / 8 + 1)).map fun k => pa / 8 + k

/-- The first poisoned word among those that `n` bytes touch. -/
def State.poisonIn (s : State) (pa n : Nat) : Option Nat := (wordsOf pa n).find? fun w => (s.homeWord w).2

/-- `n` bytes at their home, each word forwarded from its holder (R159). -/
def State.homeBytes (s : State) (pa n : Nat) : Nat :=
  (upTo n).foldl (fun acc k =>
    acc + (s.homeWord ((pa + k) / 8)).1.toNat / 256 ^ ((pa + k) % 8) % 256 * 256 ^ k) 0

/-- Some word of the bytes holds an error that no access has met: the cause of an access that fails (R392). -/
def State.badCause (s : State) (pa n : Nat) : Nat :=
  if (wordsOf pa n).any fun w => (s.homeWord w).2 && s.flawed w then Cause.uncorrectable else Cause.poison

/-- The cause with which a read of `n` bytes at home fails, if it does (R392). -/
def State.badIn (s : State) (pa n : Nat) : Option Nat := (s.poisonIn pa n).map fun _ => s.badCause pa n

/-- Errors that an access to `n` bytes met at home poison their words (R395). -/
def State.metBytes (s : State) (pa n : Nat) : State := (wordsOf pa n).foldl (fun s w => s.met w) s

/-! ### Conversions between element types (R112 to R115) -/

/-- The greatest exponent of a format's values. -/
def Fmt.topE (f : Fmt) : Int := (2 ^ f.ex : Int) - 1 - (if f.inf then 1 else 0) - f.bias

/-- Can the format `d` represent every value of `f`? -/
def Fmt.holds (d f : Fmt) : Bool :=
  decide (d.qmin ≤ f.qmin) && decide (f.fr ≤ d.fr) && decide (f.topE ≤ d.topE) && (d.inf || !f.inf) && (d.nan || !f.nan)

/-- Is a conversion narrowing, judged by the pair and the scaling (R112)? Every value of an unscaled OQ4 element is a value of E4M3 (R108). -/
def narrowing (src dst : Nat) (scaled : Bool) : Bool :=
  if scaled then !(dst == 8 && decide (tyWidth src ≤ 32))
  else
    match fmtOf src, fmtOf dst with
    | some f, some d => !d.holds f
    | some _, none => true
    | none, some d =>
      if src = 15 then !d.holds e4m3
      else decide ((d.fr : Nat) + 1 < tyWidth src - (if tySigned src then 1 else 0))
    | none, none =>
      if src = 15 || dst = 15 then true
      else !(decide (intLo (tySigned dst) (tyWidth dst) ≤ intLo (tySigned src) (tyWidth src)) &&
        decide (intHi (tySigned src) (tyWidth src) ≤ intHi (tySigned dst) (tyWidth dst)))

/-- The exponent of the last source bit of element `j` of a quad: an outlier's lead is an E4M3 value, every other element an integer (R108, R113). -/
def quadLsb (q j : Nat) : Int := if q % 16 = 8 && j = 0 then e4m3.lsb (q / 16 % 256) else 0

/-- The exponent of the last source bit of an element (R113). -/
def elemLsb (ty bits : Nat) : Int :=
  match fmtOf ty with
  | some f => f.lsb bits
  | none => 0

/-- A value put into a type: code and flags, under SATN (R114, R115). -/
def putValue (dst : Nat) (v : Fv) (r : Rnd) (o : Over) : Nat × Nat :=
  match fmtOf dst with
  | some f => f.put v r o
  | none => toInt (tySigned dst) (tyWidth dst) v r

/-- An unscaled integer element to an integer type keeps R115's own rule. -/
def convInt (src dst bits : Nat) (satn : Bool) : Nat :=
  intToInt (tyWidth dst) (tySigned dst) satn (intOf (tySigned src) (tyWidth src) bits)

/-! ### Windows -/

/-- Bits of stored element `i` of a scratchpad. -/
def State.spmElem (s : State) (core sfmt i : Nat) : Nat :=
  let w := tyWidth sfmt
  if w = 4 then
    if sfmt = 15 then s.homeBytes (spmPa core (i / 4 * 2)) 2 else s.homeBytes (spmPa core (i / 2)) 1 / 16 ^ (i % 2) % 16
  else s.homeBytes (spmPa core (i * w / 8)) (w / 8)

/-- The offset of the scale of block `b` (R128, R129). -/
def Window.scaleOff (w : Window) (b : Nat) : Nat := (w.scoff + b) % 2 ^ 18

/-- The scale code of block `b`; 127 where the window has no scales. -/
def State.windowScale (s : State) (core : Nat) (w : Window) (b : Nat) : Nat :=
  if w.scaled then s.homeBytes (spmPa core (w.scaleOff b)) 1 else 127

/-- The unscaled value of element `i` behind a window. -/
def State.windowElem (s : State) (core : Nat) (w : Window) (i : Nat) : Fv :=
  let b := s.spmElem core w.sfmt i
  if w.sfmt = 15 then oq4Elem b (i % 4) else elemValue w.sfmt b

/-- The code that a read of element `i` presents: element times scale, RNE, saturated (R130). -/
def State.windowRead1 (s : State) (core : Nat) (w : Window) (i : Nat) : Nat :=
  if !w.scaled && tyIsInt w.sfmt && tyIsInt w.dfmt then convInt w.sfmt w.dfmt (s.spmElem core w.sfmt i) true
  else
    let v := s.windowElem core w i
    let v := if w.scaled then withScale v (s.windowScale core w (i / 256)) else v
    (putValue w.dfmt v (.plain .rne) (.convert true)).1

/-- Stored bytes and scale bytes that presented bytes touch, as offset and length (R127). -/
def Window.touched (w : Window) (o n : Nat) : List (Nat × Nat) :=
  let sw := tyWidth w.sfmt
  let dw := tyWidth w.dfmt
  let i0 := o * 8 / dw
  let i1 := (o + n) * 8 / dw
  let lo := if w.sfmt = 15 then i0 / 4 * 2 else i0 * sw / 8
  let hi := if w.sfmt = 15 then (i1 + 3) / 4 * 2 else (i1 * sw + 7) / 8
  (lo, hi - lo) ::
    (if w.scaled then (upTo ((i1 + 255) / 256 - i0 / 256)).map fun k => (w.scaleOff (i0 / 256 + k), 1) else [])

/-- The cause with which a read through a window fails: of the first bad word that it meets. -/
def State.windowBad (s : State) (core : Nat) (w : Window) (o n : Nat) : Option Nat :=
  (w.touched o n).findSome? fun e => s.badIn (spmPa core e.1) e.2

/-- Errors that a read through a window met poison their words (R395). -/
def State.windowMet (s : State) (core : Nat) (w : Window) (o n : Nat) : State :=
  (w.touched o n).foldl (fun s e => s.metBytes (spmPa core e.1) e.2) s

/-- Presented bytes of a window. -/
def State.windowRead (s : State) (core : Nat) (w : Window) (o n : Nat) : Nat :=
  let db := tyWidth w.dfmt / 8
  (upTo (n / db)).foldl (fun acc k => acc + s.windowRead1 core w (o / db + k) * 256 ^ (k * db)) 0

/-! ### Words that an instruction waits for -/

/-- The window, other than 0, that an address lies behind. -/
def State.windowAt (s : State) (pa : Nat) : Option Window :=
  if paClass pa = 1 && (spmAddr pa).window != 0 then s.window (spmAddr pa).core (spmAddr pa).window else none

/-- Does a write of word `w` change what 8 bytes at an address read as? -/
def State.waitsOn (s : State) (pa w : Nat) : Bool :=
  match s.windowAt pa with
  | some k => (k.touched (spmAddr pa).off 8).any fun t => (wordsOf (spmPa (spmAddr pa).core t.1) t.2).contains w
  | none => pa / 8 == w

/-- The 8 bytes at an address as their home reads them: a word, or what a window presents (R168, R232). -/
def State.waitRead (s : State) (pa : Nat) : Nat :=
  match s.windowAt pa with
  | some k => s.windowRead (spmAddr pa).core k (spmAddr pa).off 8
  | none => (s.homeWord (pa / 8)).1.toNat

end Sys2Proof.Machine
end

