-- ==== Sys2Proof/Machine/Queues.lean ====
section
/-! DEFINITION. Task instances by number, the ready queues of the dispatchers and the order in which waiting instances enter them (R62, R68). -/
namespace Sys2Proof.Machine

/-- A ready queue of a dispatcher. -/
def Disp.queue (d : Disp) (p : Nat) : List Nat := KMap.find [] d.queues p

/-- Is a ready queue full (R68)? -/
def Disp.full (d : Disp) (p : Nat) : Bool := decide (512 ≤ (d.queue p).length)

/-- Put an instance at the tail of a ready queue. -/
def Disp.enqueue (d : Disp) (p i : Nat) : Disp := { d with queues := KMap.put [] d.queues p (d.queue p ++ [i]) }

/-- Take an instance out of every ready queue. -/
def Disp.dequeue (d : Disp) (i : Nat) : Disp := { d with queues := d.queues.map fun e => (e.1, e.2.filter (· != i)) }

/-- The instance with a number. -/
def State.instAt (s : State) (i : Nat) : Option Inst := (s.insts.find? fun e => e.1 == i).map (·.2)

/-- Replace an instance. -/
def State.setInst (s : State) (i : Nat) (v : Inst) : State := { s with insts := KMap.ins s.insts i v }

/-- Change an instance, where it stands. -/
def State.updInst (s : State) (i : Nat) (f : Inst → Inst) : State :=
  match s.instAt i with
  | some v => s.setInst i (f v)
  | none => s

/-- Is the dispatcher gone with its die (R413)? -/
def State.dispDead (s : State) (svc : Nat) : Bool := (KMap.find AgentSt.reset s.agDie (svc / 4)).dead

/-- An instance becomes ready while it is pending: it joins those whose conditions hold (R62). -/
def State.satisfy (s : State) (i : Nat) (v : Inst) : State :=
  (s.setInst i { v with st := .satisfied }).updDisp v.owner fun d => { d with satisfied := d.satisfied ++ [i] }

/-- An instance enters its ready queue (R68). -/
def State.makeReady (s : State) (i : Nat) (v : Inst) : State :=
  (s.setInst i { v with st := .queued, since := s.fc }).updDisp v.owner fun d => d.enqueue v.prio i

/-- Instances whose conditions hold enter their queues in the order in which they came to hold, while there is room (R62). -/
def State.enterQueue (s : State) (svc : Nat) : State :=
  ((s.dispAt svc).satisfied).foldl (fun (s : State) i =>
    match s.instAt i with
    | none => s.updDisp svc fun d => { d with satisfied := d.satisfied.filter (· != i) }
    | some v =>
      if (s.dispAt svc).full v.prio then s
      else (s.updDisp svc fun d => { d with satisfied := d.satisfied.filter (· != i) }).makeReady i v) s

end Sys2Proof.Machine
end

