-- ==== Sys2Proof/Machine/Coherence.lean ====
section
/-! DEFINITION. Words at home, in near partitions and in L1 caches: reads, writes, registration, release, acquire, write-back (R139, R140, R157 to R162, R395, R396). -/
namespace Sys2Proof.Machine

/-- Put a word into an L1. -/
def State.setL1 (s : State) (core w : Nat) (e : L1W) : State :=
  s.updCore core fun c => { c with l1 := KMap.ins c.l1 w e }

/-- Drop a word from an L1. -/
def State.dropL1 (s : State) (core w : Nat) : State :=
  if (s.l1 core w).isSome then s.updCore core fun c => { c with l1 := KMap.del c.l1 w } else s

/-- Put a word into a near partition. -/
def State.setNear (s : State) (cl w : Nat) (e : NearW) : State :=
  s.updCl cl fun c => { c with near := KMap.ins c.near w e }

/-- Drop a word from a near partition. -/
def State.dropNear (s : State) (cl w : Nat) : State :=
  if (s.near cl w).isSome then s.updCl cl fun c => { c with near := KMap.del c.near w } else s

/-- Clear the registered mark of an L1 word. -/
def State.unmarkL1 (s : State) (core w : Nat) : State :=
  match s.l1 core w with
  | some e => s.setL1 core w { e with reg := false }
  | none => s

/-- Clear the registered marks that the L1s of a cluster hold on a word: of the core itself, and of an erg's members (R159, R162). -/
def State.unmarkCluster (s : State) (cl w : Nat) : State := (clusterCores cl).foldl (fun s c => s.unmarkL1 c w) s

/-- The holder clears its mark before the home goes on (R159). -/
def State.clearHolder (s : State) (w : Nat) : State :=
  let s := match s.holder w with
    | some (.l1 c) => s.unmarkL1 c w
    | some (.near k) => (s.unmarkCluster k w).dropNear k w
    | none => s
  { s with reg := KMap.put none s.reg w none }

/-! ### Writes performed at home -/

/-- Merge bytes of `v` chosen by `mask` (bit k: byte k) into a word. -/
def mergeBytes (old v : Nat) (mask : Nat) : Nat :=
  (upTo 8).foldl (fun acc k =>
    acc + (if bitAt mask k then v / 256 ^ k % 256 else old / 256 ^ k % 256) * 256 ^ k) 0

/-- Record the watchpoints that a write at home matches, in index order, and remove one-shot ones (R64). -/
def State.watchWrite (s : State) (w : Nat) (v : Word) : State :=
  if wordClass w ≠ 0 then s
  else
    let cl := s.homeSlice (8 * w)
    (upTo 16).foldl (fun s i =>
      match KMap.find none (s.clAt cl).watch i with
      | some k =>
        if k.pa ≤ 8 * w && 8 * w < k.pa + 8 * k.n && (v &&& k.mask) == k.value then
          let s := { s with hits := s.hits ++ [⟨cl, k⟩] }
          if k.once then s.updCl cl fun c => { c with watch := KMap.ins c.watch i none } else s
        else s
      | none => s) s

/-- Compare a word written at home with the thresholds of pending instances; one whose condition holds enters its queue as soon as there is room (R62). DESIGN CHOICE (log 51): those that one write satisfies become ready in the order in which they were pushed. -/
def State.dependWrite (s : State) (w : Nat) (v : Word) : State :=
  s.insts.foldl (fun s e =>
    if e.2.st = .pending && e.2.depPa == 8 * w && decide (e.2.depThr ≤ v.toNat) then
      let s := s.satisfy e.1 e.2
      if s.dispDead e.2.owner then s else s.enterQueue e.2.owner
    else s) s

/-- A home reads a word again for the instructions that wait there, after every write: a WAITV whose condition holds now goes on with the reads as its token (R232), a load that the watermark admits with the value that admitted it (R168). -/
def State.waitWrite (s : State) (w : Nat) : State :=
  s.ctx.foldl (fun (s : State) e =>
    match e.2.wait with
    | some (.words all l) =>
      if l.any fun p => s.waitsOn p.1 w then
        let l := l.map fun p => if s.waitsOn p.1 w then (p.1, s.waitRead p.1) else p
        let hit := if all then l.all fun p => p.2 != 0 else l.any fun p => p.2 != 0
        s.updCtx (CtxId.ofKey e.1) fun x =>
          if hit then { x with wait := none, token := some (l.flatMap fun p => [wd p.1, wd p.2]) }
          else { x with wait := some (.words all l) }
      else s
    | some (.mark pa lim) =>
      if s.waitsOn pa w && decide (lim < s.waitRead pa) then
        s.updCtx (CtxId.ofKey e.1) fun x => { x with wait := none, token := some [wd (s.waitRead pa)] }
      else s
    | _ => s) s

/-- A write performed at home: discarded at a bad word, with the cause (R395, R396), else it clears the registration (R159), and watchpoints, dependences and waits see it. -/
def State.homeWrite (s : State) (w : Nat) (v mask : Nat) : Option Nat × State :=
  if s.poisoned w then (some (s.errCause w), s.met w)
  else
    let new := wd (mergeBytes (s.homeWord w).1.toNat v mask)
    let s := if (s.holder w).isSome then s.clearHolder w else s
    let s := s.setMemWord w new
    let s := { s with homeLines := if wordClass w = 0 then KMap.put false s.homeLines (w / 8) true else s.homeLines }
    (none, ((s.watchWrite w new).dependWrite w new).waitWrite w)

/-- What a request to a peer module that a thread's write makes leaves behind: an acknowledgement to wait for (R156, R430). -/
def ackPend (id key uid va pkg pa fc : Nat) : Pend := ⟨id, key, uid, .none, [], VReg.zero, va, none, .peer pkg, (64, false), [], pa, fc⟩

/-- Send a request about a word to its peer module, acknowledged to a thread. -/
def State.peerAcked (s : State) (w : Nat) (op : PeerOp) (ctxKey uid va : Nat) : State :=
  ({ s with pend := s.pend ++ [ackPend s.nextPend ctxKey uid va (8 * w / 2 ^ 39 % 1024) (8 * w) s.fc] }).sendPeer (8 * w) op

/-- Write bytes of a word to a peer's home module (R173). -/
def State.peerWrite (s : State) (w : Nat) (v mask : Nat) (ctxKey uid va : Nat) : State :=
  let bytes := (upTo 8).filter (bitAt mask)
  match bytes with
  | [] => s
  | lo :: _ =>
    let data := (upTo bytes.length).map fun k => BitVec.ofNat 8 (v / 256 ^ (lo + k))
    s.peerAcked w (.write (8 * w % 2 ^ 39 + lo) data) ctxKey uid va

/-- The context of a thread, where it stands; the first of a core where it is gone. -/
def State.keyOf (s : State) (core uid : Nat) : Nat :=
  match s.ctxOf uid with
  | some c => c.key
  | none => core * 16

/-- Send a whole word that this module holds to its home module, a bad one as poison (R395); a registration at the proxy home ends (R159). -/
def State.sendWord (s : State) (w : Nat) (d : Nat) (bad : Bool) (ctxKey uid va : Nat) : State :=
  let s := if (s.holder w).isSome then s.clearHolder w else s
  if bad then s.peerAcked w (.spoil (8 * w % 2 ^ 39)) ctxKey uid va else s.peerWrite w d 255 ctxKey uid va

/-- Write bytes of a word to a peer's home module for a unit that is no thread: nothing waits for the acknowledgement; a bad word goes as poison (R395). -/
def State.peerSend (s : State) (w v mask : Nat) (bad : Bool) : State :=
  let s := if (s.holder w).isSome then s.clearHolder w else s
  let bytes := (upTo 8).filter (bitAt mask)
  match bytes with
  | [] => s
  | lo :: _ =>
    if bad then s.sendPeer (8 * w) (.spoil (8 * w % 2 ^ 39))
    else s.sendPeer (8 * w) (.write (8 * w % 2 ^ 39 + lo) ((upTo bytes.length).map fun k => BitVec.ofNat 8 (v / 256 ^ (lo + k))))

/-- The home recalls a registered word: its data goes home, to memory or to the home module, as a write (R64, R161), which a bad word discards (R396). -/
def State.recallWord (s : State) (w : Nat) : State :=
  match s.heldData w with
  | some h =>
    if foreignWord w then s.sendWord w h.data.toNat (h.poison || s.poisoned w) (s.keyOf h.core h.uid) h.uid h.va
    else
      let r := s.homeWrite w h.data.toNat 255
      match r.1 with
      | some c => (r.2.clearHolder w).report h.core h.uid c h.va
      | none => r.2
  | none => { s with reg := KMap.put none s.reg w none }

/-- Record a holder of a word at its home slice (R159). A line has one owner (R140): words of it that others hold are recalled first (log 46). -/
def State.setHolder (s : State) (w : Nat) (h : Holder) : State :=
  let line := w / 8
  let s := (upTo 8).foldl (fun (s : State) k =>
    if 8 * line + k != w && (s.holder (8 * line + k)).any fun o => o != h then s.recallWord (8 * line + k) else s) s
  { s with reg := KMap.put none s.reg w (some h),
           homeLines := (if wordClass w = 0 then KMap.put false s.homeLines line true else s.homeLines) }

/-- Bytes of a word written through to its home module: what a holder of this module has of it goes with them (R159, R173). -/
def State.peerMerge (s : State) (w v mask ctxKey uid va : Nat) : State :=
  match s.heldData w with
  | some h => s.sendWord w (mergeBytes h.data.toNat v mask) (h.poison || s.poisoned w) ctxKey uid va
  | none => s.peerWrite w v mask ctxKey uid va

/-! ### L1 and near partitions -/

/-- Drop a word from a near partition together with the registration that it stands for (R159, R161). -/
def State.endNear (s : State) (cl w : Nat) : State :=
  let s := if (s.near cl w).any fun e => e.cl.isSome then s.unmarkCluster cl w else s
  s.dropNear cl w

/-- Does the near partition of a cluster keep copies of a word: of every line that is homed on another slice (R17)? -/
def State.nearKeeps (s : State) (cl w : Nat) : Bool :=
  wordClass w == 2 || (wordClass w == 0 && s.homeSlice (8 * w) != cl)

/-- What a cache keeps of the translation that an access used: region, address, and the ASID where its page counts host accesses (R138, R146). -/
structure Via where
  region : Nat
  va : Nat
  host : Option Nat
  deriving DecidableEq, Repr

/-- The near partition of a cluster has a host line, as its CXL.cache agent (R175); a request that leaves the module for it is counted where the page asks for it (R146). -/
def State.hostLine (s : State) (cl w : Nat) (a : Via) : State :=
  if (s.near cl w).isSome then s
  else
    let s := (upTo 8).foldl (fun s k =>
      s.setNear cl (8 * (w / 8) + k) ⟨s.memWord (8 * (w / 8) + k), a.region, none, false, 0, 0⟩) s
    match a.host with
    | some asid => { s with hotReqs := s.hotReqs ++ [⟨cl, 8 * w, a.va, asid⟩] }
    | none => s

/-- The word as the near partition of a cluster serves it: its own copy, or a fill from home (R17, R139, R158). Host lines are always current (R175). -/
def State.readNear (s : State) (cl w : Nat) (a : Via) : (Word × Bool) × State :=
  if wordClass w = 3 then (s.homeWord w, (s.hostLine cl w a).met w)
  else if cachedWord w then
    match s.near cl w with
    | some e => ((e.data, e.poison), s)
    | none =>
      let r := s.homeWord w
      let s := s.met w
      let s := { s with homeLines := if wordClass w = 0 then KMap.put false s.homeLines (w / 8) true else s.homeLines }
      if s.nearKeeps cl w && !foreignWord w then (r, s.setNear cl w ⟨r.1, a.region, none, r.2, 0, 0⟩) else (r, s)
  else (s.homeWord w, s.met w)

/-- Can the module serve the word: a word of its own, or a peer's that it holds (R173)? -/
def State.served (s : State) (cl w : Nat) : Bool := !foreignWord w || (s.near cl w).isSome || (s.holder w).isSome

/-- Fill the words of a line that an L1 does not hold. -/
def State.fillLine (s : State) (core cl w : Nat) (a : Via) (erg : Option Nat) : State :=
  (upTo 8).foldl (fun s k =>
    let w := 8 * (w / 8) + k
    if (s.l1 core w).isSome || !s.served cl w then s
    else
      let (r, s) := s.readNear cl w a
      s.setL1 core w ⟨r.1, a.region, false, false, erg, r.2, 0, 0, none⟩) s

/-- A cached load of one word through an L1 (R139). Vector loads do not allocate. -/
def State.loadWord (s : State) (core cl w : Nat) (a : Via) (erg : Option Nat) (alloc : Bool) : (Word × Bool) × State :=
  match s.l1 core w with
  | some e => ((e.data, e.poison), s)
  | none =>
    let r := s.readNear cl w a
    (r.1, if alloc then r.2.fillLine core cl w a erg else r.2)

/-- An OWNED store of some bytes of a word (R139). -/
def State.storeWord (s : State) (core cl w v mask : Nat) (a : Via) (erg : Option Nat) (uid : Nat) : State :=
  match s.l1 core w with
  | some e =>
    s.setL1 core w { e with data := wd (mergeBytes e.data.toNat v mask), dirty := true, uid := uid, va := a.va, host := a.host }
  | none =>
    if mask = 255 then s.setL1 core w ⟨wd v, a.region, true, false, erg, s.poisoned w, uid, a.va, a.host⟩
    else
      let (r, s) := s.readNear cl w a
      s.setL1 core w ⟨wd (mergeBytes r.1.toNat v mask), a.region, true, false, erg, r.2, uid, a.va, a.host⟩

/-- Merge bytes that were written past an L1 and a near partition into the copies that they hold, so that the writer reads them (R155, R156). -/
def State.refresh (s : State) (core w v mask : Nat) : State :=
  let s := match s.l1 core w with
    | some l => s.setL1 core w { l with data := wd (mergeBytes l.data.toNat v mask) }
    | none => s
  match s.near (clusterOf core) w with
  | some e => s.setNear (clusterOf core) w { e with data := wd (mergeBytes e.data.toNat v mask) }
  | none => s

/-- Does a region set, named by one region, cover a word's region (R138, R150)? -/
def covers (g region : Nat) : Bool := g == 1023 || g == region

/-- Does the module hold a write grant for a peer's word (R173)? -/
def State.writeGrant (s : State) (w : Nat) : Bool :=
  match KMap.find none s.grants (w * 8 / 65536) with
  | some g => g.write
  | none => false

/-- A home registration that an L1 of the cluster holds passes to its near partition, which now has the newest data. -/
def State.holderToNear (s : State) (cl w : Nat) : State :=
  match s.holder w with
  | some (.l1 c) => if clusterOf c = cl then s.setHolder w (.near cl) else s
  | _ => s

/-- Data of a core becomes its CL registration in the near partition: whatever else of the cluster was registered there, or registered at home out of it, is replaced (R158, R159). -/
def State.nearRegister (s : State) (cl w : Nat) (e : NearW) : State :=
  ((s.unmarkCluster cl w).holderToNear cl w).setNear cl w e

/-- Register a word of an L1 at CL: the data goes to the near partition, the L1 copy stays clean and registered (R158). -/
def State.registerCl (s : State) (core cl w : Nat) (e : L1W) : State :=
  let s := s.nearRegister cl w ⟨e.data, e.region, some (e.erg.getD core), e.poison, e.uid, e.va⟩
  s.setL1 core w { e with dirty := false, reg := true }

/-- Register a word of an L1 at its home slice, the data staying in L1 (R158, R159). The holder is the L1 that has the data: an erg's member (R340). -/
def State.registerHome (s : State) (core cl w : Nat) (e : L1W) : State :=
  let s := if (s.holder w).isSome then s.clearHolder w else s
  let s := s.endNear cl w
  (s.setL1 core w { e with dirty := false, reg := true }).setHolder w (.l1 core)

/-- A write that its home discarded: dropped, and due at the writer's wait point (R393, R396). -/
def State.discard (s : State) (core w uid va : Nat) : State :=
  ((s.dropL1 core w).report core uid (s.errCause w) va).met w

/-- A dirty word at a release: discarded at a bad word (R396), else registered or written as R158 and R173 give. `wide` is DI or wider, `sy` is SY. -/
def State.releaseL1 (s : State) (core cl w : Nat) (e : L1W) (wide sy : Bool) : State :=
  if e.poison || s.poisoned w then s.discard core w e.uid e.va
  else if wordClass w = 3 then
    if s.cxlDown then (s.dropL1 core w).report core e.uid Cause.uncorrectable e.va
    else
      let (_, s) := (s.hostLine cl w ⟨e.region, e.va, e.host⟩).homeWrite w e.data.toNat 255
      s.setL1 core w { e with dirty := false }
  else if !wide then s.registerCl core cl w e
  else if foreignWord w && (sy || !s.writeGrant w) then
    let s := (s.endNear cl w).sendWord w e.data.toNat false (s.keyOf core e.uid) e.uid e.va
    s.setL1 core w { e with dirty := false, reg := false }
  else s.registerHome core cl w e

/-- CL promotion of one word that a near partition holds: registered at home with the near partition as holder (R158), or written to its home module at SY or without a write grant (R173). A bad word discards it (R396). -/
def State.promoteWord (s : State) (cl w : Nat) (e : NearW) (sy : Bool) : State :=
  let core := e.cl.getD (4 * cl)
  if e.poison || s.poisoned w then ((s.endNear cl w).discard core w e.uid e.va)
  else if foreignWord w && (sy || !s.writeGrant w) then
    ((s.endNear cl w).sendWord w e.data.toNat false (s.keyOf core e.uid) e.uid e.va)
  else if s.holder w = some (.near cl) then s
  else
    (if (s.holder w).isSome then s.clearHolder w else s).setHolder w (.near cl)

/-- CL promotion of a cluster over a region set, whichever core registered the words (R158). -/
def State.promote (s : State) (cl g : Nat) (sy : Bool) : State :=
  ((s.clAt cl).near).foldl (fun s ent =>
    if ent.2.cl.isSome && covers g ent.2.region then s.promoteWord cl ent.1 ent.2 sy else s) s

/-- CL promotion of one word, where it is registered in the near partition: before a write at home that would pass it. -/
def State.promoteOne (s : State) (cl w : Nat) : State :=
  match s.near cl w with
  | some e => if e.cl.isSome then s.promoteWord cl w e false else s
  | none => s

/-- The region that the holder of a registered word keeps with it. -/
def State.holderRegion (s : State) (w : Nat) : Nat :=
  match s.holder w with
  | some (.l1 c) => match s.l1 c w with
    | some e => e.region
    | none => 1
  | some (.near k) => match s.near k w with
    | some e => e.region
    | none => 1
  | none => 1

/-- At SY, every word of G registered at a proxy home is written to its home module (R158). -/
def State.flushProxies (s : State) (g : Nat) : State :=
  s.reg.foldl (fun s ent =>
    match s.heldData ent.1 with
    | some h =>
      if foreignWord ent.1 && covers g (s.holderRegion ent.1) then
        s.sendWord ent.1 h.data.toNat (h.poison || s.poisoned ent.1) s.cur.key s.me.uid h.va
      else s
    | none => s) s

/-- Where the cached copies of a context's combined bytes are: the L1 of the data member (R339). -/
def Ctx.combCore (x : Ctx) (c : CtxId) (e : Comb) : Nat := x.memberCore c.core e.va

/-- A combined word at a release (R139, R158): written through to home at DI and wider, registered in the near partition at CL. A word of a peer module without a write grant, and one of which the cluster has no copy, is written to its home module. -/
def State.drainWord (s : State) (c : CtxId) (x : Ctx) (w : Nat) (e : Comb) (wide : Bool) : State :=
  let core := x.combCore c e
  let cl := clusterOf core
  let s := if wide then s.reach core (8 * w) 8 else s
  if s.poisoned w then (s.report c.core x.uid (s.errCause w) e.va).met w
  else if wordClass w = 3 then
    if s.cxlDown then s.report c.core x.uid Cause.uncorrectable e.va
    else (((s.hostLine cl w ⟨e.region, e.va, none⟩).homeWrite w e.data e.mask).2).refresh core w e.data e.mask
  else if foreignWord w && (wide || !s.served cl w) then
    ((s.promoteOne cl w).peerMerge w e.data e.mask c.key x.uid e.va).refresh core w e.data e.mask
  else if wide then
    let r := (s.promoteOne cl w).homeWrite w e.data e.mask
    if r.1.isSome then r.2.report c.core x.uid (r.1.getD 0) e.va else r.2.refresh core w e.data e.mask
  else
    let (r, s) := s.readNear cl w ⟨e.region, e.va, none⟩
    let new := mergeBytes r.1.toNat e.data e.mask
    let s := (s.refresh core w e.data e.mask)
    s.nearRegister cl w ⟨wd new, e.region, some c.core, r.2, x.uid, e.va⟩

/-- The combined bytes of one word of a context go home (R161, R227). -/
def State.drainOne (s : State) (c : CtxId) (w : Nat) : State :=
  match ((s.ctxAt c).comb.find? fun e => e.1 == w).map (·.2) with
  | some e => (s.drainWord c (s.ctxAt c) w e true).updCtx c fun x => { x with comb := x.comb.filter fun e => e.1 != w }
  | none => s

/-- Combined STREAM stores of one context at a release (R139, R158). -/
def State.drainComb (s : State) (c : CtxId) (g : Nat) (wide : Bool) : State :=
  let x := s.ctxAt c
  let s := x.comb.foldl (fun s ent => if covers g ent.2.region then s.drainWord c x ent.1 ent.2 wide else s) s
  s.updCtx c fun x => { x with comb := x.comb.filter fun ent => !covers g ent.2.region }

/-- The dirty words of one L1 at a release; `who` is none for the core's own lines, or the home core of the erg whose lines they are (R340). -/
def State.releaseCore (s : State) (core : Nat) (who : Option Nat) (g : Nat) (wide sy : Bool) : State :=
  ((s.coreAt core).l1).foldl (fun s ent =>
    if ent.2.dirty && ent.2.erg = who && covers g ent.2.region then
      s.releaseL1 core (clusterOf core) ent.1 ent.2 wide sy
    else s) s

/-- A release at a scope over a region set, for a core and the L1s of its erg's other members (R158, R340). -/
def State.release (s : State) (cores : List (Nat × Option Nat)) (sc g : Nat) : State :=
  if g = 0 then s
  else
    let wide := decide (1 ≤ sc)
    let sy := decide (sc = 3)
    let cl := clusterOf s.cur.core
    let s := if wide then s.promote cl g sy else s
    let s := cores.foldl (fun s e =>
      let s := s.releaseCore e.1 e.2 g wide sy
      if e.2.isSome then s
      else (upTo 10).foldl (fun s k =>
        if (s.ctxAt ⟨e.1, k⟩).comb.isEmpty then s else s.drainComb ⟨e.1, k⟩ g wide) s) s
    if sy then s.flushProxies g else s

/-- Invalidate the words of one L1 that are neither dirty nor registered (R160). -/
def State.acquireCore (s : State) (core : Nat) (who : Option Nat) (g : Nat) : State :=
  s.updCore core fun c =>
    { c with l1 := c.l1.filter fun e => e.2.dirty || e.2.reg || e.2.erg != who || !covers g e.2.region }

/-- Invalidate near-partition copies (R160): class 000 at DI and wider, class 010 at SY; registered words stay. -/
def State.acquireNear (s : State) (cl g sc : Nat) : State :=
  let reg := s.reg
  s.updCl cl fun c =>
    { c with near := c.near.filter fun e =>
        e.2.cl.isSome || !covers g e.2.region || KMap.find none reg e.1 == some (.near cl) ||
          (wordClass e.1 == 2 && sc != 3) || wordClass e.1 == 3 }

/-- An acquire at a scope over a region set, for a core and the L1s of its erg's other members (R160, R340). -/
def State.acquire (s : State) (cores : List (Nat × Option Nat)) (sc g : Nat) : State :=
  if g = 0 then s
  else
    let s := cores.foldl (fun s e => s.acquireCore e.1 e.2 g) s
    if 1 ≤ sc then s.acquireNear (clusterOf s.cur.core) g sc else s

/-! ### Write grants of this home (R174) -/

/-- A write grant comes to its end at home: the grantee has handed its words over. -/
def State.endLoan (s : State) (page : Nat) : State :=
  let r := s.lease page
  if r.writer.isSome then (s.setLease page { r with writer := none, recalled := none }).wakeRecalls else s

/-- An access of a unit of this module to a page that a peer may write waits for the recall of its grant (R174). -/
def State.recallPage (s : State) (pa : Nat) : State :=
  if wordClass (pa / 8) = 0 then
    match (s.lease (pa / 65536)).writer with
    | some _ => s.lack (some (pa / 65536))
    | none => s
  else s

/-! ### Write-back and eviction (R161, R236) -/

/-- Write a word that an L1 or a near partition holds to its home, the write clearing the registration (R161, R236); its L1 copy stays clean. A write to a peer is acknowledged to the writer where it stands, else to the thread with the given key. -/
def State.writeHome (s : State) (core w : Nat) (d : Word) (bad : Bool) (key uid : Nat) (a : Via) : State :=
  let cl := clusterOf core
  let va := a.va
  if bad || s.poisoned w then ((s.endNear cl w).discard core w uid va)
  else if foreignWord w then (s.endNear cl w).sendWord w d.toNat false key uid va
  else if wordClass w = 3 && s.cxlDown then (s.dropL1 core w).report core uid Cause.uncorrectable va
  else if wordClass w = 3 then ((s.hostLine cl w a).homeWrite w d.toNat 255).2
  else (((s.recallPage (8 * w)).homeWrite w d.toNat 255).2).endNear cl w

/-- Write one word of a near partition home, where it is registered there or held for its home. -/
def State.nearHome (s : State) (cl w : Nat) (e : NearW) : State :=
  if e.cl.isSome || s.holder w == some (.near cl) then
    let core := e.cl.getD (4 * cl)
    (s.endNear cl w).writeHome core w e.data e.poison (s.keyOf core e.uid) e.uid ⟨e.region, e.va, none⟩
  else s

/-- Write one L1 word back to its home (R161, R236), after what another core of the cluster has registered of it. -/
def State.writeBack (s : State) (core w : Nat) (e : L1W) (key uid : Nat) : State :=
  let s := match s.near (clusterOf core) w with
    | some n => if n.cl.isSome && n.cl != some (e.erg.getD core) then s.nearHome (clusterOf core) w n else s
    | none => s
  let s := s.setL1 core w { e with dirty := false, reg := false }
  s.writeHome core w e.data e.poison key uid ⟨e.region, e.va, e.host⟩

/-- Evict a line from an L1: dirty and registered words go home (R161). -/
def State.evictL1 (s : State) (core line : Nat) : State :=
  (upTo 8).foldl (fun s k =>
    let w := 8 * line + k
    match s.l1 core w with
    | some e => (if e.dirty || e.reg then s.writeBack core w e (s.keyOf core e.uid) e.uid else s).dropL1 core w
    | none => s) s

/-- Evict a line from a near partition: CL-registered words, and words it holds for their home, go home (R161). -/
def State.evictNear (s : State) (cl line : Nat) : State :=
  (upTo 8).foldl (fun s k =>
    let w := 8 * line + k
    match s.near cl w with
    | some e => (s.nearHome cl w e).endNear cl w
    | none => s) s

/-- Evict a line from a home partition: registered words are recalled and written to memory, a peer's at their home module (R161). -/
def State.evictHome (s : State) (line : Nat) : State :=
  let s := (upTo 8).foldl (fun s k =>
    let w := 8 * line + k
    if (s.holder w).isSome then (s.recallWord w) else s) s
  { s with homeLines := KMap.put false s.homeLines line false }

/-- Write home every copy of a word that a core and its cluster keep ahead of its home, with the bytes that the contexts of the issuing core have combined, and drop the copies (R161, R227): what precedes an access performed at home. A registration elsewhere in the module is recalled where the home is a peer's (R173). -/
def State.purgeWord (s : State) (core w : Nat) : State :=
  let cl := clusterOf core
  let s := match s.near cl w with
    | some e => (s.nearHome cl w e).endNear cl w
    | none => s
  let s := match s.l1 core w with
    | some e => (if e.dirty || e.reg then s.writeBack core w e (s.keyOf core e.uid) e.uid else s).dropL1 core w
    | none => s
  let s := if foreignWord w && (s.holder w).isSome then s.recallWord w else s
  (upTo 10).foldl (fun (s : State) k => s.drainOne ⟨s.cur.core, k⟩ w) s

/-! ### Lines of ergs (R340, R341, R343) -/

/-- Move one L1 line into the near partition as CL registrations of its owner, and drop it (R92, R340, R343). DESIGN CHOICE (log 8): dirty words that are not registered move in the same way when a bank leaves. -/
def State.spillLine (s : State) (core line : Nat) : State :=
  let cl := clusterOf core
  (upTo 8).foldl (fun s k =>
    let w := 8 * line + k
    match s.l1 core w with
    | some e =>
      let s :=
        if wordClass w = 3 then (if e.dirty then s.releaseL1 core cl w e false false else s)
        else if e.dirty || e.reg then s.registerCl core cl w e
        else s
      s.dropL1 core w
    | none => s) s

/-- Before an access to a line for one side, a line held for the other side is moved out (R340). -/
def State.claimLine (s : State) (core w : Nat) (who : Option Nat) : State :=
  if (upTo 8).any fun k => match s.l1 core (8 * (w / 8) + k) with
    | some e => e.erg != who
    | none => false
  then s.spillLine core (w / 8) else s

/-- Drop the words of an L1 that are neither dirty nor registered. -/
def State.dropClean (s : State) (core : Nat) : State :=
  s.updCore core fun c => { c with l1 := c.l1.filter fun e => e.2.dirty || e.2.reg }

/-- Hand-back of an erg's lines on its other members (R343, step 4). Every older copy on the home core goes, also of lines that have left a member before, so that the thread reads its own stores (R155). -/
def State.handBackLines (s : State) (home : Nat) (members : List Nat) : State :=
  (members.foldl (fun (s : State) core =>
    if core = home then s
    else ((s.coreAt core).l1).foldl (fun (s : State) ent =>
      if ent.2.erg = some home then s.spillLine core (ent.1 / 8) else s) s) s).dropClean home

/-- Every dirty word of a core's L1 becomes a CL registration, the lines staying clean (R341). -/
def State.cleanToNear (s : State) (core : Nat) : State :=
  ((s.coreAt core).l1).foldl (fun s ent =>
    if ent.2.dirty then
      if wordClass ent.1 = 3 then s.releaseL1 core (clusterOf core) ent.1 ent.2 false false
      else s.registerCl core (clusterOf core) ent.1 ent.2
    else s) s

/-- Write home every dirty and registered word of one core over G, and the words registered to it (RGNWB, R236); an erg's member has lines of its own and of the erg, told apart by `who`. -/
def State.regionWriteBack (s : State) (core : Nat) (who : Option Nat) (g : Nat) : State :=
  let s := ((s.coreAt core).l1).foldl (fun s ent =>
    if (ent.2.dirty || ent.2.reg) && ent.2.erg = who && covers g ent.2.region then
      s.writeBack core ent.1 ent.2 s.cur.key s.me.uid
    else s) s
  let cl := clusterOf core
  let s := ((s.clAt cl).near).foldl (fun s ent =>
    if ent.2.cl == some (who.getD core) && covers g ent.2.region then (s.nearHome cl ent.1 ent.2).endNear cl ent.1 else s) s
  if who.isSome then s else (upTo 10).foldl (fun s k => s.drainComb ⟨core, k⟩ g true) s

/-! ### Capacity (R2, R14 to R17) -/

/-- The 64-byte lines that words of a map lie in. -/
def linesOf {α : Type} (m : KMap α) : List Nat :=
  m.foldr (fun e acc => if acc.head? = some (e.1 / 8) then acc else e.1 / 8 :: acc) []

/-- The lines that leave a cache which holds more than `cap`; which ones is a choice of the hardware (R161; log 5). -/
def victims (pick cap : Nat) (l : List Nat) : List Nat :=
  if l.length ≤ cap then []
  else (l.drop (pick % l.length) ++ l.take (pick % l.length)).take (l.length - cap)

/-- Lines of L1D: the banks of the flex store that the VRF does not hold (R14, R15). -/
def Core.l1Cap (c : Core) : Nat := (32 - c.banks) * 256

/-- Lines of the instruction cache (R14). -/
def icacheCap : Nat := 1024

/-- Lines of a near partition: ways 12 to 15 of 2,048 sets (R16, R17). -/
def nearCap : Nat := 8192

/-- Lines of a home partition: ways 0 to 11 (R16, R17). -/
def homeCap : Nat := 24576

/-- A core's L1D and instruction cache give up lines past their capacity (R14, R161). -/
def State.trimCore (s : State) (core : Nat) : State :=
  let k := s.coreAt core
  let pick := Config.pick s.freeN
  let v1 := victims pick k.l1Cap (linesOf k.l1)
  let vi := victims pick icacheCap (k.icache.map (·.1))
  if v1.isEmpty && vi.isEmpty then s
  else
    let s := v1.foldl (fun (s : State) l => s.whole fun s => (s.reach core (64 * l) 64).evictL1 core l) { s with freeN := s.freeN + 1 }
    s.updCore core fun c => { c with icache := c.icache.filter fun e => !vi.contains e.1 }

/-- A near partition gives up lines past its capacity (R16, R161). -/
def State.trimNear (s : State) (cl : Nat) : State :=
  let vn := victims (Config.pick s.freeN) nearCap (linesOf (s.clAt cl).near)
  if vn.isEmpty then s
  else vn.foldl (fun (s : State) l => s.whole fun s => (s.reach ((clusterCores cl).headD 0) (64 * l) 64).evictNear cl l)
    { s with freeN := s.freeN + 1 }

/-- What has grown past its capacity gives lines up (R14, R16, R161). -/
def State.trim (s : State) : State :=
  let s := s.core.foldl (fun (s : State) e => s.trimCore e.1) s
  s.cl.foldl (fun (s : State) e => s.trimNear e.1) s

/-- The lines of a home partition: those that it holds, by slice (R17). -/
def State.homeLinesOf (s : State) (cl : Nat) : List Nat :=
  (s.homeLines.map (·.1)).filter fun l => s.homeSlice (64 * l) == cl

/-- Home partitions that hold more lines than they have ways for evict some (R17, R161). -/
def State.trimHome (s : State) : State :=
  if s.homeLines.length ≤ homeCap then s
  else
    let cls := (s.homeLines.map fun e => s.homeSlice (64 * e.1)).eraseDups
    let pick := Config.pick s.freeN
    cls.foldl (fun s cl => (victims pick homeCap (s.homeLinesOf cl)).foldl (fun (s : State) l => s.whole fun s => (s.reach (4 * cl) (64 * l) 64).evictHome l) s) { s with freeN := s.freeN + 1 }

end Sys2Proof.Machine
end

