-- ==== Sys2Proof/Machine/Xlat.lean ====
section
/-! DEFINITION. Physical addresses, page walks, TLBs and permission (R122 to R137, R142, R143, R145, R387, R389). -/
namespace Sys2Proof.Machine

/-- An address of the module's own package is the class-000 address of the same offset (R124). -/
def State.ownPa (s : State) (pa : Nat) : Nat :=
  if paClass pa = 2 && bitsAt pa 39 10 = s.pkgid then pa % 2 ^ 39 else pa

/-- CAPMIB of a stack: 65,536 unless the fuses list another (R24); 0 where its report failed (R357). -/
def State.stackMib (s : State) (k : Nat) : Nat := if bitAt s.badStacks k then 0 else (KMap.find (16 * 2 ^ 32 + 65536) s.fuse.stkcfg k) % 2 ^ 32

/-- Capacity of a die's local HBM in bytes (R24). -/
def State.dieCap (s : State) (d : Nat) : Nat := (s.stackMib (2 * d) + s.stackMib (2 * d + 1)) * 2 ^ 20

/-- Expansion of a window as presented bytes per stored byte, and the end of its presented image, for a fixed window (R127, R128). -/
def fixedImage : Nat → Nat
  | 0 => 0x40000
  | 1 | 2 | 7 => 0x80000
  | 4 => 0xFE000
  | _ => 0x100000

/-- The length of the presented image of a window (R127). -/
def State.windowImage (s : State) (core n : Nat) : Nat :=
  if n < 8 then fixedImage n
  else match s.window core n with
    | some w => 0x40000 * tyWidth w.dfmt / tyWidth w.sfmt
    | none => 0x40000

/-- Is the home of a physical address declared dead (R400, R405)? -/
def State.homeDead (s : State) (pa : Nat) : Bool :=
  match paClass pa with
  | 0 => (KMap.find AgentSt.reset s.agDie (bitsAt pa 37 2)).dead
  | 1 => s.coreDead (spmAddr pa).core
  | 2 => (KMap.find AgentSt.reset s.agPkg (bitsAt pa 39 10)).dead
  | _ => false

/-- Does the address exist (R123)? -/
def State.exists (s : State) (pa : Nat) : Bool :=
  match paClass pa with
  | 0 => bitsAt pa 39 10 == 0 && decide (bitsAt pa 0 37 < s.dieCap (bitsAt pa 37 2))
  | 1 =>
    let a := spmAddr pa
    if a.svc then a.window == 0 && bitsAt pa 39 6 == 0 && decide (a.off < 0x40000) && !s.coreDead a.core
    else s.corePresent a.core && !s.coreDead a.core && decide (a.off < s.windowImage a.core a.window)
  | 2 => s.reached (bitsAt pa 39 10)
  | 3 => true
  | 7 => true
  | _ => false

/-- Kinds of access, by the code of their page fault (R135, R222). -/
inductive Kind | load | store | fetch | atomic
  deriving DecidableEq, Repr

/-- The page-fault cause of a kind. -/
def Kind.fault : Kind → Nat
  | .load => Cause.pageLoad | .store => Cause.pageStore | .fetch => Cause.pageFetch | .atomic => Cause.pageAtomic

/-- Does the kind write? -/
def Kind.writes : Kind → Bool
  | .store | .atomic => true
  | .load | .fetch => false

/-- What a walk found: a translation and the word of its leaf, the cause of a fault, a bad word of a table, a request to a peer's home that must be answered first, or an entry out of reach: on a page lent to a peer, which must be recalled first, or behind a way that is held. -/
inductive Walk
  | leaf (e : TlbE) (w : Nat) (v : Nat)
  | fault (cause : Nat)
  | bad (cause w : Nat)
  | need (pa : Nat) (op : PeerOp)
  | far (page : Option Nat)
  deriving DecidableEq, Repr

/-- A leaf entry at a level whose page has 2^`size` bytes (R134, R135). -/
def leafEntry (va size v w : Nat) (asid : Nat) (kind : Kind) : Walk :=
  let pa := bitsAt v 22 36 * 65536
  let mode := bitsAt v 18 2
  let region := bitsAt v 8 10
  let usr := bitAt v 4
  if bitsAt v 58 6 ≠ 0 || size = 46 || pa % 2 ^ size ≠ 0 || (mode = 3 && region ≠ 0) ||
      (mode ≠ 3 && (region = 0 || region = 1023)) || (paClass pa = 7 && usr && (bitAt v 2 || bitAt v 3)) then
    .fault kind.fault
  else
    .leaf ⟨va / 2 ^ size * 2 ^ size, size, asid, bitAt v 20, pa, bitAt v 21, mode, region, bitAt v 7, bitAt v 5, usr,
      bitAt v 3, bitAt v 2⟩ w v

/-- A table entry as a walker reads it: at its home and never from an L1 (R142). -/
def State.entryWord (s : State) (w : Nat) : Word × Bool :=
  match s.holder w with
  | some (.l1 _) => (s.memWord w, s.poisoned w)
  | _ => s.homeWord w

/-- The walk of R134 for a core over the remaining levels, from the table at `table`. -/
def State.walkFrom (s : State) (known : List Ask) (core va asid : Nat) (kind : Kind) :
    List Nat → Nat → Walk
  | [], _ => .fault kind.fault
  | size :: rest, table =>
    let pa := s.ownPa (table + 8 * bitsAt va size 10)
    let use (v w : Nat) : Walk :=
      if !bitAt v 0 then .fault kind.fault
      else if bitAt v 1 then leafEntry va size v w asid kind
      else if bitsAt v 52 12 ≠ 0 || bitsAt v 2 11 ≠ 0 then .fault kind.fault
      else s.walkFrom known core va asid kind rest (bitsAt v 13 39 * 8192)
    if !(paClass pa = 0 || paClass pa = 2) || !s.exists pa then .fault kind.fault
    else if paClass pa = 2 then
      match known.find? fun a => a.pkg == bitsAt pa 39 10 && a.op == .read (pa % 2 ^ 39) 8 with
      | some ⟨_, _, some (.value v)⟩ => use v (pa / 8)
      | some ⟨_, _, some (.bad c)⟩ => if c = Cause.regEmpty then .fault kind.fault else .bad c (pa / 8)
      | _ => .need pa (.read (pa % 2 ^ 39) 8)
    else if s.lentPage pa then .far (some (pa / 65536))
    else if s.wayHeld core pa 8 then .far none
    else
      let r := s.entryWord (pa / 8)
      if r.2 then .bad (s.errCause (pa / 8)) (pa / 8) else use r.1.toNat (pa / 8)

/-- The levels of a walk: log2 of the bytes that one entry covers (R133, R134). -/
def walkLevels : List Nat := [46, 36, 26, 16]

/-- A walk of a virtual address under PTBASE and ASID. -/
def State.walk (s : State) (known : List Ask) (core ptbase asid va : Nat) (kind : Kind) : Walk :=
  if va / 2 ^ 56 ≠ 0 then .fault kind.fault
  else s.walkFrom known core va asid kind walkLevels ptbase

/-- The bits that a walk sets in a leaf: A, and D for a permitted store (R137). -/
def adBits (v : Nat) (d : Bool) : Nat := (if bitAt v 6 then 0 else 64) + (if d && !bitAt v 7 then 128 else 0)

/-- The atomic OR at the home module of a peer's entry (R137). -/
def adOp (w bits : Nat) : PeerOp := .amo .or (8 * w % 2 ^ 39) 8 (wd bits) 0

/-- Set A, and D for a permitted store, by an atomic OR at the home of the leaf: of what a holder has of the entry, where one does (R137, R159); a peer's home is asked by the walk. -/
def State.setAD (s : State) (w v : Nat) (d : Bool) : State :=
  if adBits v d = 0 || foreignWord w then s else (s.homeWrite w ((s.homeWord w).1.toNat ||| adBits v d) 255).2

/-- Does a cached translation serve the address in the address space (R142)? -/
def TlbE.hit (e : TlbE) (va asid : Nat) : Bool :=
  va / 2 ^ e.size == e.va / 2 ^ e.size && (e.g || e.asid == asid)

/-- Put a translation into a TLB of `n` entries, the oldest leaving (DESIGN CHOICE, log 4: R143 lets a TLB keep or drop any). -/
def tlbPut (t : List TlbE) (e : TlbE) (n : Nat) : List TlbE :=
  (e :: t.filter fun x => !(x.va == e.va && x.size == e.size && x.asid == e.asid)).take n

/-- A translation kept in both TLBs of a core. -/
def State.keepTlb (s : State) (core : Nat) (e : TlbE) (l1 : Bool) : State :=
  let s := s.updCl (clusterOf core) fun c => { c with tlb := tlbPut c.tlb e 4096 }
  if l1 then s.updCore core fun c => { c with dtlb := tlbPut c.dtlb e 64 } else s

/-- A translated access. -/
structure Xl where
  va : Nat
  pa : Nat
  mode : Nat
  region : Nat
  hostc : Bool
  wb : Bool
  asid : Nat
  deriving DecidableEq, Repr

/-- Who translates: address space, privilege, core, and whether the L1 DTLB takes part (fetch uses the L2 TLB alone, R208). -/
structure Space where
  ptbase : Nat
  asid : Nat
  pl : Nat
  core : Nat
  l1 : Bool
  deriving DecidableEq, Repr

/-- The result of a translation: an access, a trap, a nonexistent address (R123), a request to a peer's home that must be answered first, or a table entry out of reach. -/
inductive XRes
  | ok (x : Xl)
  | bad (cause val : Nat)
  | absent (val pa : Nat)
  | need (pa : Nat) (op : PeerOp)
  | far (page : Option Nat)
  deriving DecidableEq, Repr

/-- Is the access permitted by the leaf (R136)? -/
def TlbE.permits (e : TlbE) (pl : Nat) (kind : Kind) : Bool :=
  (pl != 0 || e.usr) &&
    match kind with
    | .load => true
    | .store | .atomic => e.w
    | .fetch => e.x

/-- The translation that a permitted or refused access uses once its entry is known. -/
def State.xlFinish (s : State) (sp : Space) (va : Nat) (kind : Kind) (e : TlbE) : XRes :=
  if !e.permits sp.pl kind then .bad Cause.protection va
  else
    let pa := s.ownPa (e.pa + va % 2 ^ e.size)
    if s.exists pa then .ok ⟨va, pa, e.mode, e.region, e.hostc, e.wb && kind.writes, sp.asid⟩
    else .absent va pa

/-- What a walk that has ended does: A and D set, the TLBs filled; a bad table word fails the access (R137, R387). -/
def State.xlWalked (s : State) (known : List Ask) (sp : Space) (va : Nat) (kind : Kind) (r : Walk) : XRes × State :=
  match r with
  | .fault c => (.bad c va, s)
  | .bad c w => (.bad c (dataVal 0x80 va), s.met w)
  | .need pa op => (.need pa op, s)
  | .far page => (.far page, s)
  | .leaf e w v =>
    let d := kind.writes && e.permits sp.pl kind
    let bits := adBits v d
    if foreignWord w && bits ≠ 0 && !(known.any fun a => a.op == adOp w bits && a.ans.isSome) then
      (.need (8 * w) (adOp w bits), s)
    else
      let s := s.setAD w v d
      let e := { e with d := e.d || d }
      let s := s.keepTlb sp.core e sp.l1
      (s.xlFinish sp va kind e, s)

/-- Walk, set A and D, fill the TLBs. -/
def State.xlWalk (s : State) (known : List Ask) (sp : Space) (va : Nat) (kind : Kind) : XRes × State :=
  s.xlWalked known sp va kind (s.walk known sp.core sp.ptbase sp.asid va kind)

/-- The cached translation of an address: L1 DTLB, then L2 TLB (R142). -/
def State.tlbFind (s : State) (sp : Space) (va : Nat) : Option TlbE :=
  let hit := if sp.l1 then (s.coreAt sp.core).dtlb.find? fun e => e.hit va sp.asid else none
  match hit with
  | some e => some e
  | none => (s.clAt (clusterOf sp.core)).tlb.find? fun e => e.hit va sp.asid

/-- Does a store walk again at a cached translation (R137, R145)? -/
def TlbE.rewalks (e : TlbE) (pl : Nat) (kind : Kind) : Bool := kind.writes && e.permits pl kind && (e.wb || !e.d)

/-- Does a translation need a walk? -/
def State.walks (s : State) (sp : Space) (va : Nat) (kind : Kind) : Bool :=
  match s.tlbFind sp va with
  | some e => e.rewalks sp.pl kind
  | none => true

/-- Keep a translation of the L2 TLB in the L1 DTLB too. -/
def State.keepL1 (s : State) (sp : Space) (va : Nat) (e : TlbE) : State :=
  if sp.l1 && !((s.coreAt sp.core).dtlb.any fun e => e.hit va sp.asid) then
    s.updCore sp.core fun c => { c with dtlb := tlbPut c.dtlb e 64 }
  else s

/-- Translate one address: L1 DTLB, L2 TLB, walk (R142); a store walks again at a WB = 1 or D = 0 entry (R137, R145). -/
def State.xlate (s : State) (known : List Ask) (sp : Space) (va : Nat) (kind : Kind) :
    XRes × State :=
  if va / 2 ^ 56 ≠ 0 then (.bad kind.fault va, s)
  else
    match s.tlbFind sp va with
    | some e =>
      if e.rewalks sp.pl kind then s.xlWalk known sp va kind
      else (s.xlFinish sp va kind e, s.keepL1 sp va e)
    | none => s.xlWalk known sp va kind

/-- The address space of the acting context; a handler slot uses the captured one (R44, R95). -/
def State.space (s : State) : Space :=
  let x := s.me
  if s.cur.isHandler then
    ⟨(s.coreAt s.cur.core).hptbase, (s.coreAt s.cur.core).hasid, x.pl, s.cur.core, true⟩
  else ⟨x.ptbase, x.asid, x.pl, s.cur.core, true⟩

/-- Ask the home module of an address and wait for its answer (R173, R430). -/
def peerAnswer (pa : Nat) (op : PeerOp) (va : Nat) : M Reply := do
  let x ← me
  let pkg := bitsAt pa 39 10
  match x.asks.find? fun a => a.pkg == pkg && a.op == op with
  | some ⟨_, _, some r⟩ => return r
  | some ⟨_, _, none⟩ => throw (.sleep .peer)
  | none =>
    upd fun s =>
      let p : Pend := ⟨s.nextPend, s.cur.key, x.uid, .ask pkg op, [], VReg.zero, va, none, .peer pkg, (64, false), [], pa, s.fc⟩
      let s := s.updMe fun c => { c with asks := c.asks ++ [⟨pkg, op, none⟩] }
      ({ s with pend := s.pend ++ [p] }).sendPeer pa op
    throw (.sleep .peer)

/-- Ask the home module of an address for what the instruction itself needs; an error traps (R392, R430), a lock word that the home refuses as PROTECTION (R230). -/
def askPeer (pa : Nat) (op : PeerOp) (va : Nat) : M Nat := do
  match ← peerAnswer pa op va with
  | .value v => return v
  | .bad c => if c = Cause.protection then trap c va else trap c (dataVal 0x80 va)

/-- Has the instruction asked this already? What it does before the request is then done. -/
def asked (pa : Nat) (op : PeerOp) : M Bool := do
  return (← me).asks.any fun a => a.pkg == bitsAt pa 39 10 && a.op == op

/-- Forget an answer, so that the next ask reads again. -/
def forgetAnswer (pa : Nat) (op : PeerOp) : M Unit :=
  updMe fun x => { x with asks := x.asks.filter fun a => !(a.pkg == bitsAt pa 39 10 && a.op == op && a.ans.isSome) }

/-- Translate for the acting context in a given space. A walk waits while atomics of the base dies are outstanding, which may concern its entries (R358). -/
def xlateIn (sp : Space) (va : Nat) (kind : Kind) : M Xl := do
  let s ← get
  if !s.baseq.isEmpty && s.walks sp va kind then stall
  let (r, s) := s.xlate s.me.asks sp va kind
  set s
  match r with
  | .ok x => return x
  | .bad c v => trap c v
  | .absent v _ => trap Cause.protection v
  | .need pa op =>
    match ← peerAnswer pa op va with
    | .value _ => stall
    | .bad c => if c = Cause.regEmpty then trap kind.fault va else trap c (dataVal 0x80 va)
  | .far none => stall
  | .far (some page) =>
    upd fun s => s.askRecall page
    throw (.sleep (.recallOf page))

/-- Translate for the acting context. -/
def xlateM (va : Nat) (kind : Kind) : M Xl := do xlateIn (← get).space va kind

end Sys2Proof.Machine
end

