-- ==== Sys2Proof/Machine/Shape.lean ====
section
/-! DEFINITION. Shape records and the walk of their boxes (R270, R271, R296). -/
namespace Sys2Proof.Machine

/-- A shape record: base, TYPE, WIN, LSZ, RANK, extents, strides, start coordinates, boxes, innermost first; dimensions at or above RANK already taken as EXT 1, BOX 1, ST 0 (R270). -/
structure Shape where
  base : Nat
  ty : Nat
  win : Nat
  lsz : Nat
  rank : Nat
  ext : List Nat
  str : List Int
  st : List Int
  box : List Nat
  rest : Nat
  deriving DecidableEq, Repr

/-- Read the fields of a record from its eighteen words. -/
def Shape.of (e : Nat → Nat) : Shape :=
  let rank := e 1 % 256
  let dims := upTo 4
  { base := e 0, ty := bitsAt (e 1) 20 4, win := bitsAt (e 1) 16 4, lsz := bitsAt (e 1) 8 8, rank := rank,
    ext := dims.map fun d => if d < rank then e (2 + d) else 1,
    str := dims.map fun d => if d < rank then toSigned 64 (e (6 + d)) else 0,
    st := dims.map fun d => if d < rank then toSigned 64 (e (10 + d)) else 0,
    box := dims.map fun d => if d < rank then e (14 + d) else 1,
    rest := e 1 / 2 ^ 24 % 2 ^ 40 }

/-- Width in bits of the elements of a record. -/
def Shape.width (h : Shape) : Nat := if h.lsz = 255 then 4 else 8 * 2 ^ h.lsz

/-- BOX0 x BOX1 x BOX2 x BOX3. -/
def Shape.count (h : Shape) : Nat := h.box.foldl (· * ·) 1

/-- The lowest offending element of a record (R270). `load`: TYPE is checked; `engine`: a Ferry side, which may name a window and has no VLMAX. -/
def Shape.bad (h : Shape) (load engine : Bool) (vlmax : Nat) : Option Nat :=
  if h.rank = 0 || 4 < h.rank || (3 < h.lsz && h.lsz ≠ 255) || h.rest ≠ 0 || (!engine && h.win ≠ 0) ||
      (load && tyWidth h.ty ≠ h.width) then some 1
  else if h.st.getD 0 0 < 0 then some 10
  else match (upTo 4).find? fun d => h.box.getD d 1 == 0 with
    | some d => some (14 + d)
    | none => if !engine && vlmax < h.count then some 14 else none

/-- A packed record that splits a byte (R270). -/
def Shape.splits (h : Shape) : Bool :=
  h.lsz == 255 && (h.str.getD 0 0 != 0 || h.st.getD 0 0 % 2 != 0 || h.box.getD 0 0 % 2 != 0 || h.ext.getD 0 0 % 2 != 0)

/-- One element of a walk: in range, byte address, nibble. -/
structure WalkElem where
  inr : Bool
  addr : Nat
  nib : Nat
  deriving DecidableEq, Repr

/-- The element at box coordinates (R271). -/
def Shape.elem (h : Shape) (i : Nat → Nat) : WalkElem :=
  let c (d : Nat) : Int := h.st.getD d 0 + (i d : Int)
  let inr := (upTo 4).all fun d => decide (0 ≤ c d) && decide (c d < (h.ext.getD d 1 : Int))
  let sum (ds : List Nat) : Int := ds.foldl (fun a d => a + c d * h.str.getD d 0) (h.base : Int)
  if h.lsz = 255 then
    ⟨inr, ofSigned 64 (sum [1, 2, 3] + c 0 / 2), (c 0 % 2).toNat⟩
  else ⟨inr, ofSigned 64 (sum [0, 1, 2, 3]), 0⟩

/-- The walk of a box with the given innermost size, dimension 0 fastest (R271). -/
def Shape.walk (h : Shape) (b0 : Nat) : List WalkElem :=
  let b1 := h.box.getD 1 1
  let b2 := h.box.getD 2 1
  (upTo (b0 * b1 * b2 * h.box.getD 3 1)).map fun k =>
    h.elem fun d =>
      match d with
      | 0 => k % b0
      | 1 => k / b0 % b1
      | 2 => k / (b0 * b1) % b2
      | _ => k / (b0 * b1 * b2)

/-- The innermost size that VLDT and VSTT use: an overrun shortens every row (R271). -/
def Shape.inner (h : Shape) : Nat := min (h.box.getD 0 1) ((h.ext.getD 0 1 : Int) - h.st.getD 0 0).toNat

/-- n', the elements of the walk (R271). -/
def Shape.reached (h : Shape) : Nat := h.inner * h.box.getD 1 1 * h.box.getD 2 1 * h.box.getD 3 1

end Sys2Proof.Machine
end

