-- ==== Sys2Proof/Machine/Spm.lean ====
section
/-! DEFINITION. Bytes at home and scratchpad windows: decoding on reads, encoding on writes (R127 to R132, R108 to R115). -/
namespace Sys2Proof.Machine

/-- A write that its home discarded: the address of its first word, and the cause (R396). -/
abbrev Refused := Option (Nat × Nat)

/-- Write `n` bytes at home; answers the first word whose write was discarded (R396). -/
def State.homePut (s : State) (pa n v : Nat) : Refused × State :=
  (wordsOf pa n).foldl (fun acc w =>
    -- byte k of the word is byte 8 w + k - pa of the value
    let mask := (upTo 8).foldl (fun m k => setBit m k (decide (pa ≤ 8 * w + k) && decide (8 * w + k < pa + n))) 0
    let word := if 8 * w < pa then v * 256 ^ (pa - 8 * w) else v / 256 ^ (8 * w - pa)
    let (bad, s) := acc.2.homeWrite w (word % 2 ^ 64) mask
    (acc.1.or (bad.map fun c => (8 * w, c)), s)) (none, s)

/-! ### Windows -/

/-- Does an access through a window other than 0 keep the rule of R127? -/
def Window.aligned (w : Window) (o n : Nat) : Bool :=
  let db := tyWidth w.dfmt / 8
  o % db == 0 && n % db == 0 && n != 0

/-- The rounding mode code of a window under the issuer's FCSR.RM (R112, R131). -/
def rmOfCode (code fcsrRm : Nat) : RMode :=
  match (if code = 6 then fcsrRm else code) with
  | 1 => .rtz | 2 => .rdn | 3 => .rup | 4 => .rna | 5 => .sr | _ => .rne

/-- The mode of a write through a window when FCSR.RM is `dm` (R131). -/
def Window.mode (w : Window) (dm : RMode) : RMode := if w.rm = 6 then dm else rmOfCode w.rm 0

/-- Rounding context of a write: mode, SATN, generator. -/
structure WrCtx where
  mode : RMode
  satn : Bool
  seed : Nat
  deriving DecidableEq, Repr

/-- Store one element's code behind a window. -/
def State.spmPutElem (s : State) (core sfmt i code : Nat) : Refused × State :=
  let w := tyWidth sfmt
  if w = 4 then
    let pa := spmPa core (i / 2)
    let old := s.homeBytes pa 1
    let new := if i % 2 = 0 then old / 16 * 16 + code else code * 16 + old % 16
    s.homePut pa 1 new
  else s.homePut (spmPa core (i * w / 8)) (w / 8) code

/-- Encode a value into SFMT (R131): code, flags, generator. `lsb` is the exponent of its last source bit. Under SR every element of the access draws (R113). -/
def State.windowEncodeVal (s : State) (core : Nat) (w : Window) (i : Nat) (v : Fv) (lsb : Int) (k : WrCtx) :
    Nat × Nat × Nat :=
  let isSr := decide (k.mode = .sr)
  let seed := if isSr then srStep k.seed else k.seed
  let sc := s.windowScale core w (i / 256)
  let v := if w.scaled then (if sc = 255 then .nan false else v.scale (127 - (sc : Int))) else v
  let lsb := lsb + (if w.scaled then 127 - (sc : Int) else 0)
  let r : Rnd := if isSr then ⟨.sr, seed, lsb⟩ else .plain k.mode
  let (c, fl) := putValue w.sfmt v r (.convert k.satn)
  (c, fl, seed)

/-- Encode one presented element into SFMT (R131): code, flags, generator. -/
def State.windowEncode (s : State) (core : Nat) (w : Window) (i bits : Nat) (k : WrCtx) : Nat × Nat × Nat :=
  if !w.scaled && tyIsInt w.sfmt && tyIsInt w.dfmt then
    (convInt w.dfmt w.sfmt bits k.satn, 0,
      if k.mode = .sr then srStep k.seed else k.seed)
  else s.windowEncodeVal core w i (elemValue w.dfmt bits) (elemLsb w.dfmt bits) k

/-- Encode the blocks that an OQ4 window write touches (R109, R111): presented elements `i0` to `i0 + n - 1` take the given values. -/
def State.oq4Write (s : State) (core : Nat) (w : Window) (i0 n : Nat) (val : Nat → OqIn) (k : WrCtx) :
    Refused × State × Nat × Nat :=
  let blocks := (upTo ((i0 + n + 255) / 256 - i0 / 256)).map fun j => i0 / 256 + j
  blocks.foldl (fun acc b =>
    let s := acc.2.1
    let sc := s.windowScale core w b
    let ins : List OqIn := (upTo 256).map fun j =>
      let i := 256 * b + j
      if i0 ≤ i && i < i0 + n then val (i - i0)
      else (withScale (s.windowElem core w i) sc, quadLsb (s.spmElem core w.sfmt i) (i % 4) + (sc : Int) - 127)
    let (bits, scale, fl, seed) := oq4Encode ins k.mode acc.2.2.2
    let (b1, s) := s.homePut (spmPa core (128 * b)) 128 bits
    let (b2, s) := s.homePut (spmPa core (w.scaleOff b)) 1 scale
    (acc.1.or (b1.or b2), s, acc.2.2.1 ||| fl, seed)) (none, s, 0, k.seed)

/-- Write one element given by its value through a window: first discarded word, state, flags, generator (R131, R265). -/
def State.windowPutVal (s : State) (core : Nat) (w : Window) (i : Nat) (v : Fv) (lsb : Int) (k : WrCtx) :
    Refused × State × Nat × Nat :=
  if w.sfmt = 15 then s.oq4Write core w i 1 (fun _ => (v, lsb)) k
  else
    let (c, fl, seed) := s.windowEncodeVal core w i v lsb k
    let (bad, s) := s.spmPutElem core w.sfmt i c
    (bad, s, fl, seed)

/-- Write presented bytes through a window: first discarded word, state, flags, generator after it (R131, R132). -/
def State.windowWrite (s : State) (core : Nat) (w : Window) (o n v : Nat) (k : WrCtx) :
    Refused × State × Nat × Nat :=
  let db := tyWidth w.dfmt / 8
  let code (j : Nat) : Nat := v / 256 ^ (j * db) % 256 ^ db
  if w.sfmt = 15 then s.oq4Write core w (o / db) (n / db) (fun j => (elemValue w.dfmt (code j), elemLsb w.dfmt (code j))) k
  else
    (upTo (n / db)).foldl (fun acc j =>
      let i := o / db + j
      let (c, fl, seed) := acc.2.1.windowEncode core w i (code j) { k with seed := acc.2.2.2 }
      let (bad, s) := acc.2.1.spmPutElem core w.sfmt i c
      (acc.1.or bad, s, acc.2.2.1 ||| fl, seed)) (none, s, 0, k.seed)

/-- What a read of a scratchpad gives: a value with the cause of bad data, or the cause of a trap (R127, R129). -/
def State.readSpm (s : State) (pa n : Nat) : Except Nat (Nat × Option Nat) :=
  let a := spmAddr pa
  if a.window = 0 then .ok (s.homeBytes pa n, s.badIn pa n)
  else match s.window a.core a.window with
    | none => .error Cause.protection
    | some w =>
      if w.aligned a.off n then .ok (s.windowRead a.core w a.off n, s.windowBad a.core w a.off n)
      else .error Cause.misalign

/-- Errors that a read at a home or a scratchpad's port met poison their words (R395). -/
def State.metAt (s : State) (pa n : Nat) : State :=
  if paClass pa = 1 && (spmAddr pa).window != 0 then
    match s.window (spmAddr pa).core (spmAddr pa).window with
    | some w => s.windowMet (spmAddr pa).core w (spmAddr pa).off n
    | none => s
  else s.metBytes pa n

/-- The answer of a peer's home to a unit that is no thread: free, a value or an error (R173, R430; log 5). -/
def State.peerFree (s : State) : Except Nat Word × State :=
  let k := Config.pick s.freeN % 4
  let s' := { s with freeN := s.freeN + 1 }
  (if k = 1 then .error Cause.regEmpty else if k = 2 then .error Cause.poison else if k = 3 then .error Cause.uncorrectable
    else .ok (Config.freeWord s.freeN), s')

/-- `n` bytes of a class-010 address for a unit: each word from the caches in front of it, from its holder in this module, else as its home module answers (R159, R173). -/
def State.peerBytes (s : State) (front : Nat → Option (Word × Bool)) (pa n : Nat) : (Nat × Option Nat) × State :=
  (wordsOf pa n).foldl (fun acc w =>
    let s := acc.2
    let part (v : Nat) : Nat := if 8 * w < pa then v / 256 ^ (pa - 8 * w) else v * 256 ^ (8 * w - pa)
    match (front w).or ((s.heldData w).map fun h => (h.data, h.poison || s.poisoned w)) with
    | some (d, bad) => ((acc.1.1 + part d.toNat, acc.1.2.or (if bad then some (s.errCause w) else none)), s)
    | none =>
      match s.peerFree with
      | (.ok v, s) => ((acc.1.1 + part v.toNat, acc.1.2), s)
      | (.error c, s) => ((acc.1.1, acc.1.2.or (some c)), s)) ((0, none), s)

/-- What a read at home gives a unit that is no thread: a value with the cause of bad data, or the cause of a trap. A page lent to a peer is recalled first (R174), and a way that is held waits (R417, R418). Device registers take no such access (R126); host data is lost while the link is down (R417). -/
def State.unitBytes (s : State) (core pa n : Nat) : Except Nat (Nat × Option Nat) × State :=
  let s := s.reach core pa n
  match paClass pa with
  | 1 => (s.readSpm pa n, s.metAt pa n)
  | 7 => (.error Cause.misalign, s)
  | 2 =>
    let r := s.peerBytes (fun _ => none) pa n
    (.ok (r.1.1 % 256 ^ n, r.1.2), r.2)
  | 3 => if s.cxlDown then (.error Cause.uncorrectable, s) else (.ok (s.homeBytes pa n, s.badIn pa n), s.metBytes pa n)
  | _ => (.ok (s.homeBytes pa n, s.badIn pa n), s.metBytes pa n)

/-- Write `n` bytes for a unit that is no thread: at home, after the recall of a page lent to a peer (R174) and once the way is open (R417), or at a peer's home with what this module holds of the words (R159, R173). -/
def State.unitPut (s : State) (core pa n v : Nat) : Refused × State :=
  let s := s.reach core pa n
  match paClass pa with
  | 3 => if s.cxlDown then (some (pa, Cause.uncorrectable), s) else s.homePut pa n v
  | 2 =>
    (none, (wordsOf pa n).foldl (fun s w =>
      let mask := (upTo 8).foldl (fun m k => setBit m k (decide (pa ≤ 8 * w + k) && decide (8 * w + k < pa + n))) 0
      let word := if 8 * w < pa then v * 256 ^ (pa - 8 * w) else v / 256 ^ (8 * w - pa)
      match s.heldData w with
      | some h => s.peerSend w (mergeBytes h.data.toNat word mask) 255 (h.poison || s.poisoned w)
      | none => s.peerSend w (word % 2 ^ 64) mask false) s)
  | _ => s.homePut pa n v

end Sys2Proof.Machine
end

