-- ==== Sys2Proof/Machine/Virt.lean ====
section
/-! DEFINITION. Memory as units that are no threads read and write it by virtual address, and the hot host pages (R43, R57, R100, R146, R147). -/
namespace Sys2Proof.Machine

/-- A translation for a unit that is no thread. A table entry in a peer module is as its home answers, and an OR there is sent (R137; log 5). -/
def State.xlateFree (s : State) (known : List Ask) (sp : Space) (va : Nat) (kind : Kind) :
    Nat → XRes × State
  | 0 => s.xlate known sp va kind
  | n + 1 =>
    match s.xlate known sp va kind with
    | (.need pa op, s) =>
      let (r, s) := s.peerFree
      let s := s.reach sp.core pa 8
      let s := match op with
        | .read _ _ => s
        | _ => s.sendPeer pa op
      s.xlateFree (known ++ [⟨bitsAt pa 39 10, op, some (match r with
        | .ok v => .value v.toNat
        | .error c => .bad c)⟩]) sp va kind n
    | (.far page, s) => (.far page, s.lack page)
    | r => r

/-- Translate for a unit: at most four table words and one update come from peers. -/
def State.xlateUnit (s : State) (sp : Space) (va : Nat) (kind : Kind) : XRes × State := s.xlateFree [] sp va kind 5

/-- Read `n` bytes within one page at a virtual address for a unit that is no thread: a cause where it fails. -/
def State.readVirt (s : State) (sp : Space) (va n : Nat) : Except Nat Nat × State :=
  match s.xlateUnit sp va .load with
  | (.bad c _, s) => (.error c, s)
  | (.absent _ _, s) => (.error Cause.protection, s)
  | (.need _ _, s) | (.far _, s) => (.error Cause.pageLoad, s)
  | (.ok x, s) =>
    match s.unitBytes sp.core x.pa n with
    | (.error c, s) => (.error c, s)
    | (.ok (v, bad), s) => (match bad with
      | some c => .error c
      | none => .ok v, s)

/-- Write `n` bytes within one page at a virtual address for a unit that is no thread: was it performed? -/
def State.writeVirt (s : State) (sp : Space) (va n v : Nat) : Bool × State :=
  match s.xlateUnit sp va .store with
  | (.ok x, s) =>
    let (bad, s) := s.unitPut sp.core x.pa n v
    (bad.isNone, s)
  | (_, s) => (false, s)

/-! ### Hot host pages (R146, R147) -/

/-- Counters of a service core. -/
def hotCounters : Nat := 1024

/-- The index of the counter with the lowest count, ties by lowest index. -/
def lowestHot (l : List Hot) : Nat :=
  let low := l.foldl (fun m h => min m h.count) (2 ^ 64)
  (l.findIdx? fun h => h.count == low).getD 0

/-- Write one notice into the hot-page queue of service core `svc` (R147). DESIGN CHOICE (log 38): a queue header that cannot be translated or read takes no notice, and nothing reports it. -/
def State.hotNotice (s : State) (svc cl : Nat) (h : Hot) : State :=
  let d := s.dispAt svc
  if d.hotq = 0 then s
  else
    let sp : Space := ⟨d.qptbase, d.qasid, 1, 1024 + svc, true⟩
    let rd (s : State) (o : Nat) := s.readVirt sp (d.hotq + o) 8
    match rd s 0 with
    | (.error _, s) => s
    | (.ok base, s) =>
      match rd s 8 with
      | (.error _, s) => s
      | (.ok lg, s) =>
        match rd s 16 with
        | (.error _, s) => s
        | (.ok prod, s) =>
          match rd s 24 with
          | (.error _, s) => s
          | (.ok cons, s) =>
            let n := 2 ^ (lg % 32)
            if (prod + 2 ^ 64 - cons) % 2 ^ 64 = n then
              match rd s 32 with
              | (.error _, s) => s
              | (.ok drops, s) => (s.writeVirt sp (d.hotq + 32) 8 ((drops + 1) % 2 ^ 64)).2
            else
              let a := base + 16 * (prod % n)
              let s := (s.writeVirt sp a 8 (h.va / 65536 * 65536 + h.asid)).2
              let s := (s.writeVirt sp (a + 8) 8 (h.count + cl * 2 ^ 32 + svc * 2 ^ 40)).2
              (s.writeVirt sp (d.hotq + 16) 8 ((prod + 1) % 2 ^ 64)).2

/-- Count one line request that left for a host page (R146): of a cluster, to the service core of its quadrant. DESIGN CHOICE (log 38): the counter of a page carries the VA and the ASID of the latest access. -/
def State.hotAccess (s : State) (q : HotReq) : State :=
  let svc := svcOfCluster q.cl
  let d := s.dispAt svc
  if d.hotthr = 0 || 256 ≤ q.cl then s
  else
    let page := q.pa / 65536
    let fresh : Hot := ⟨page, q.va / 65536 * 65536, q.asid, 0⟩
    let l := match d.hot.findIdx? fun h => h.page == page with
      | some _ => d.hot
      | none => if d.hot.length < hotCounters then d.hot ++ [fresh] else d.hot.set (lowestHot d.hot) fresh
    let l := l.map fun h => if h.page = page then { h with count := h.count + 1, va := fresh.va, asid := fresh.asid } else h
    match l.find? fun h => h.page == page with
    | none => s
    | some h =>
      if h.count < d.hotthr then s.updDisp svc fun d => { d with hot := l }
      else
        let s := s.updDisp svc fun d =>
          { d with hot := l.map fun h => if h.page = page then { h with count := 0 } else h }
        s.hotNotice svc q.cl h

/-- The service cores count the requests that have reached them (R146); one whose notice cannot reach its queue yet waits. -/
def State.countHot (s : State) : State :=
  s.hotReqs.foldl (fun s q => s.whole fun s => ({ s with hotReqs := s.hotReqs.erase q }).hotAccess q) s

/-- What belongs to every step: caches keep within their capacity, and host accesses are counted (R14 to R17, R146, R161). -/
def State.tidy (s : State) : State := s.trim.trimHome.countHot

end Sys2Proof.Machine
end

