-- ==== Sys2Proof/Machine/Access.lean ====
section
/-! DEFINITION. Loads of bytes through the caches of a core, by class and mode (R124, R132, R139, R159). -/
namespace Sys2Proof.Machine

/-- Lay a thread's own combined bytes over a word (R139, R156). -/
def overlay (comb : KMap Comb) (w : Nat) (d : Word) : Word :=
  match comb.find? fun e => e.1 == w with
  | some (_, e) => wd (mergeBytes d.toNat e.data e.mask)
  | none => d

/-- Lay combined bytes over `n` bytes that a home module answered (R156). -/
def overlayBytes (comb : KMap Comb) (pa n v : Nat) : Nat :=
  (upTo n).foldl (fun acc k =>
    let w := (pa + k) / 8
    let j := (pa + k) % 8
    acc + (match comb.find? fun e => e.1 == w with
      | some (_, e) => if bitAt e.mask j then e.data / 256 ^ j % 256 else v / 256 ^ k % 256
      | none => v / 256 ^ k % 256) * 256 ^ k) 0

/-- What the caches of a core hold of a word: L1, then the near partition of its cluster. -/
def State.frontWord (s : State) (core w : Nat) : Option (Word × Bool) :=
  ((s.l1 core w).map fun e => (e.data, e.poison)).or ((s.near (clusterOf core) w).map fun e => (e.data, e.poison))

/-- What a cache keeps of a translation. -/
def Xl.via (x : Xl) : Via := ⟨x.region, x.va, if x.hostc then some x.asid else none⟩

/-- One cached word for a thread: its line claimed for its side, then L1, near partition, home; the cause where it is bad. -/
def State.cachedWordFor (s : State) (core : Nat) (who : Option Nat) (comb : KMap Comb) (x : Xl) (w : Nat) (alloc : Bool) :
    (Word × Option Nat) × State :=
  let s := s.claimLine core w who
  let r := s.loadWord core (clusterOf core) w x.via who alloc
  ((overlay comb w r.1.1, if r.1.2 then some (s.errCause w) else none), r.2)

/-- `n` bytes of classes 000, 010 and 011 for a thread: from the caches under OWNED and STREAM, at home under UNCACHED and SYNC (R139); host lines come through the near partition, MODE deciding only whether L1 allocates (R139, R175). With the cause where some word is bad. -/
def State.readMem (s : State) (core : Nat) (who : Option Nat) (comb : KMap Comb) (x : Xl) (n : Nat) (alloc : Bool) :
    (Nat × Option Nat) × State :=
  if 2 ≤ x.mode then
    let s' := if paClass x.pa = 3 then (wordsOf x.pa n).foldl (fun s w => s.hostLine (clusterOf core) w x.via) s else s
    ((s.homeBytes x.pa n, s.badIn x.pa n), s'.metBytes x.pa n)
  else
    let r := (wordsOf x.pa n).foldl (fun acc w =>
      let (r, s) := acc.2.cachedWordFor core who comb x w alloc
      ((acc.1.1 + r.1.toNat * 2 ^ (64 * (w - x.pa / 8)), acc.1.2.or r.2), s)) ((0, none), s)
    ((r.1.1 / 256 ^ (x.pa % 8) % 256 ^ n, r.1.2), r.2)

/-- The access that a translated page gives at an address (R280). -/
def PageX.at (p : PageX) (va : Nat) : Xl := ⟨va, p.pa * 65536 + va % 65536, p.mode, p.region, p.hostc, false, p.asid⟩

/-- The access at an address whose page was translated before. -/
def pageXl (pages : Pages) (va : Nat) : Option Xl :=
  (pages.find? fun e => e.1 == va / 65536).map fun e => e.2.at va

/-- What a command keeps of a translation. -/
def Xl.page (x : Xl) : PageX := ⟨x.pa / 65536, x.mode, x.region, x.hostc, x.asid⟩

end Sys2Proof.Machine
end

