-- ==== Sys2Proof/Machine/Opa.lean ====
section
/-! DEFINITION. The outer-product array: operands, accumulation, and what each command of a stream does to slots, tiles and memory (R120, R121, R272, R273, R285 to R291, R416). -/
namespace Sys2Proof.Machine

/-! ### Commands (R275, R277) -/

/-- Is a command leased (R275)? -/
def OpaCmd.leased : OpaCmd → Bool
  | .mzero _ | .mop _ _ _ _ _ _ | .mops _ _ _ _ _ | .mrd _ _ _ _ _ | .mwr _ _ _ _ _ | .mst _ _ _ _ _ _ _ _ _ _ => true
  | .slclaim _ | .slload _ _ _ _ _ _ _ _ _ | .scale _ _ _ | .aclaim _ _ | .mlease _ | .mfree => false

/-- Does a command act on the lease of its berth and not on slots or tiles (R284)? -/
def OpaCmd.ofLease : OpaCmd → Bool
  | .mlease _ | .mfree => true
  | _ => false

/-- The k-group size of an operand format (R272). -/
def opaGroup (fmt : Nat) : Nat := 32 / tyWidth fmt

/-- Lines of a slot in an operand format (R273). -/
def opaLines (fmt : Nat) : Nat := if tyWidth fmt = 16 then 64 else 128

/-- The interval of a command in ac (R277). -/
def OpaCmd.interval : OpaCmd → Nat
  | .mop _ _ _ fa _ k => max 1 ((k + opaGroup fa - 1) / opaGroup fa)
  | .mops _ _ _ fa _ => 256 / opaGroup fa
  | .mzero _ => 2
  | .mrd _ _ _ vl _ => max 1 ((vl + 63) / 64)
  | .mwr _ _ vl _ _ => max 1 ((vl + 63) / 64)
  | .mst _ _ n _ _ _ _ _ _ _ => max 1 (2 * n)
  | _ => 0

/-- May the formats of MOP (or of MOPS) meet, and is the tile type I32 (R272)? -/
def opaPair (scaled : Bool) (fa fb : Nat) : Option Bool :=
  let f8 (f : Nat) : Bool := f == 12 || f == 13
  let f4 (f : Nat) : Bool := f == 14 || f == 15
  if (f8 fa && f8 fb) || (f4 fa && f4 fb) then some false
  else if scaled then none
  else if fa = 0 && fb = 0 then some true
  else if (fa = 10 && fb = 10) || (fa = 11 && fb = 11) then some false
  else none

/-! ### Slots and tiles -/

/-- A slot of a cluster. -/
def Cluster.slot (c : Cluster) (n : Nat) : Slot := KMap.find Slot.reset c.slots n

/-- A tile of a cluster. -/
def Cluster.tile (c : Cluster) (n : Nat) : Tile := KMap.find Tile.reset c.tiles n

/-- Change a slot. -/
def State.updSlot (s : State) (cl n : Nat) (f : Slot → Slot) : State :=
  s.updCl cl fun c => { c with slots := KMap.upd Slot.reset c.slots n f }

/-- Change a tile. -/
def State.updTile (s : State) (cl n : Nat) (f : Tile → Tile) : State :=
  s.updCl cl fun c => { c with tiles := KMap.upd Tile.reset c.tiles n f }

/-- The bits of element [k][i] of an operand that begins in a slot and, in the 8-bit class, goes on in the next (R273). An OQ4 element gives its quad. -/
def slotBits (a b : Slot) (fmt k i : Nat) : Nat :=
  match tyWidth fmt with
  | 16 => bitsAt a.bytes (8 * (256 * k + 2 * i)) 16
  | 4 => if fmt = 15 then bitsAt a.bytes (1024 * i + 16 * (k / 4)) 16 else bitsAt a.bytes (1024 * i + 4 * k) 4
  | _ => if k < 128 then bitsAt a.bytes (8 * (128 * k + i)) 8 else bitsAt b.bytes (8 * (128 * (k - 128) + i)) 8

/-- The value of element [k][i] of an operand. -/
def slotElem (a b : Slot) (fmt k i : Nat) : Fv :=
  let x := slotBits a b fmt k i
  if fmt = 15 then oq4Elem x (k % 4) else elemValue fmt x

/-- An accumulator element. -/
def Tile.acc (t : Tile) (i j : Nat) : Nat := bitsAt (KMap.find 0 t.rows i) (32 * j) 32

/-- A tile with every element given by a function. -/
def Tile.fill (t : Tile) (f : Nat → Nat → Nat) : Tile :=
  { t with rows := (upTo 128).map fun i => (i, (upTo 128).foldl (fun r j => r + f i j % 2 ^ 32 * 2 ^ (32 * j)) 0) }

/-! ### Accumulation (R120, R121) -/

/-- Add products exactly to an F32 accumulator and round once, RNE, with no flag. -/
def accRound (acc : Nat) (prods : List Fv) : Nat :=
  (f32.put (prods.foldl (fun v p => (v.add p false).1) (f32.read acc)) (.plain .rne) .ieee).1

/-- One element of MOP: a rounding for each k-group in ascending k, or sums modulo 2^32 (R120). -/
def mopElem (a a' b b' : Slot) (fa fb k acc i j : Nat) : Nat :=
  if fa = 0 then
    ofSigned 32 ((upTo k).foldl (fun v n =>
      v + toSigned 8 (slotBits a a' fa n i) * toSigned 8 (slotBits b b' fb n j)) (acc : Int))
  else
    let g := opaGroup fa
    (upTo ((k + g - 1) / g)).foldl (fun acc n =>
      let ks := ((upTo g).map fun m => n * g + m).filter fun m => decide (m < k)
      accRound acc (ks.map fun m => ((slotElem a a' fa m i).mul (slotElem b b' fb m j)).1)) acc

/-- One element of MOPS: one rounding of the scaled sum over 256 k (R121). -/
def mopsElem (a a' b b' : Slot) (fa fb acc i j : Nat) : Nat :=
  let sa := KMap.find 127 a.scales i
  let sb := KMap.find 127 b.scales j
  if sa = 255 || sb = 255 then f32.qnan
  else
    accRound acc ((upTo 256).map fun m =>
      (((slotElem a a' fa m i).mul (slotElem b b' fb m j)).1).scale ((sa : Int) + sb - 254))

/-- Does a bad line or scale feed element [i][j] (R416)? -/
def feeds (e : OpaErr) (sa sb fa fb k i j : Nat) (scaled : Bool) : Bool :=
  let side (slot fmt n at' : Nat) (s : Nat) : Bool :=
    match tyWidth fmt with
    | 4 => s == slot && n == at'
    | 16 => s == slot && decide (n < k)
    | _ => (s == slot && decide (n < k)) || (s == slot + 1 && decide (128 + n < k))
  match e with
  | .line s n => side sa fa n i s || side sb fb n j s
  | .scale s n => scaled && ((s == sa && n == i) || (s == sb && n == j))
  | _ => false

/-- MOP or MOPS on a tile; elements fed by bad storage become NaN, or 0 in an I32 tile. Answers whether some were. -/
def State.opaMul (s : State) (cl t sa sb fa fb k : Nat) (scaled : Bool) (e : OpaErr) : Bool × State :=
  let c := s.clAt cl
  let a := c.slot sa
  let a' := c.slot (sa + 1)
  let b := c.slot sb
  let b' := c.slot (sb + 1)
  let bad (i j : Nat) : Bool := feeds e sa sb fa fb k i j scaled
  (k != 0 && (upTo 128).any fun i => (upTo 128).any fun j => bad i j,
    if k = 0 then s
    else s.updTile cl t fun x => x.fill fun i j =>
      if bad i j then (if x.i32 then 0 else f32.qnan)
      else if scaled then mopsElem a a' b b' fa fb (x.acc i j) i j
      else mopElem a a' b b' fa fb k (x.acc i j) i j)

/-! ### Reading and writing memory (R287, R288, R291) -/

/-- One source element: the bits copied (or the presented code with its type), whether it was presented, the cause where its data are bad. -/
structure SrcElem where
  bits : Nat
  shown : Option Nat
  bad : Option Nat
  deriving DecidableEq, Repr

/-- Read one source element of SLLOAD: `nib` chooses the nibble of a 4-bit format. -/
def State.opaSource (s : State) (c : CtxId) (fmt va nib : Nat) (pages : Pages) : SrcElem × State :=
  match pageXl pages va with
  | none => (⟨0, none, none⟩, s)
  | some x =>
    let z := max 1 (tyWidth fmt / 8)
    let s := s.reach c.core x.pa z
    let cut (v : Nat) : Nat := if tyWidth fmt = 4 then v / 16 ^ nib % 16 else v
    match paClass x.pa with
    | 1 =>
      let a := spmAddr x.pa
      match (if a.window = 0 then none else s.window a.core a.window) with
      | some w =>
        let db := tyWidth w.dfmt / 8
        (⟨s.windowRead a.core w a.off db, some w.dfmt, s.windowBad a.core w a.off db⟩, s.windowMet a.core w a.off db)
      | none => (⟨cut (s.homeBytes x.pa z), none, s.badIn x.pa z⟩, s.metBytes x.pa z)
    | 2 =>
      let (r, s) := s.peerBytes (s.frontWord c.core) x.pa z
      (⟨cut (overlayBytes (s.ctxAt c).comb x.pa z (r.1 % 256 ^ z)), none, r.2⟩, s)
    | 3 =>
      if s.cxlDown then (⟨0, none, some Cause.regEmpty⟩, s)
      else
        let (r, s) := s.readMem c.core none (s.ctxAt c).comb x z false
        (⟨cut r.1, none, r.2⟩, s)
    | _ =>
      let (r, s) := s.readMem c.core none (s.ctxAt c).comb x z false
      (⟨cut r.1, none, r.2⟩, s)

/-- Convert a presented element to an 8-bit or 16-bit operand format: RNE, saturated, an infinity too (R9), no flag (R288). -/
def shownTo (fmt dfmt bits : Nat) : Nat :=
  if fmt = dfmt then bits
  else if tyIsInt fmt then convInt dfmt fmt bits true
  else
    match elemValue dfmt bits, fmtOf fmt with
    | .inf neg, some f => f.signed neg f.maxCode
    | v, _ => (putValue fmt v (.plain .rne) (.convert true)).1

/-- A line of 256 nibbles from its elements: copied, or encoded as one block with its scale code (R288). -/
def nibbleLine (fmt : Nat) (l : List SrcElem) : Nat × Option Nat :=
  let copied := ((upTo 256).zip l).foldl (fun acc e => acc + e.2.bits % 16 * 16 ^ e.1) 0
  if l.all fun e => e.shown.isNone then (copied, none)
  else
    let ins : List OqIn := ((upTo 256).zip l).map fun e =>
      match e.2.shown with
      | some d => (elemValue d e.2.bits, elemLsb d e.2.bits)
      | none => (if fmt = 15 then oq4Elem (copied / 16 ^ (e.1 / 4 * 4) % 65536) (e.1 % 4) else elemValue fmt e.2.bits, 0)
    let (bits, sc) :=
      if fmt = 15 then
        let r := oq4Encode ins .rne 1
        (r.1, r.2.1)
      else
        let r := quantBlock fmt ins 256 .rne 1
        (r.1, r.2.1)
    let bits := ((upTo 256).zip l).foldl (fun acc e =>
      acc + (if e.2.shown.isSome then bits / 16 ^ e.1 % 16 else e.2.bits % 16) * 16 ^ e.1) 0
    (bits, some sc)

/-- The address of element `m` of the line for row `r`, and its nibble (R287). -/
def slAddr (col : Bool) (base st y r m : Nat) : Nat × Nat :=
  let b := if col then base + m * st + r * y else if y = 0 then base + r * st + m / 2 else base + r * st + m * y
  (b % 2 ^ 64, if y = 0 then m % 2 else 0)

/-- Put `n` bytes into a slot at a byte offset. -/
def Slot.putBytes (x : Slot) (off n v : Nat) : Slot :=
  { x with bytes := x.bytes - bitsAt x.bytes (8 * off) (8 * n) * 2 ^ (8 * off) + v % 256 ^ n * 2 ^ (8 * off) }

/-- One line of SLLOAD: the elements read, the slot written; answers the lowest bad address so far, with its cause. -/
def State.slLine (s : State) (c : CtxId) (col : Bool) (fmt slot l0 base st y : Nat) (pages : Pages) (r : Nat)
    (bad : Option (Nat × Nat)) : Option (Nat × Nat) × State :=
  let cl := clusterOf c.core
  let e := if tyWidth fmt = 4 then 256 else 128
  let (l, bad, s) := (upTo e).foldl (fun acc m =>
    let (va, nib) := slAddr col base st y r m
    let (x, s) := acc.2.2.opaSource c fmt va nib pages
    let x := if x.bad.isSome then { x with bits := 0 } else x
    let bad := match x.bad, acc.2.1 with
      | some c, some b => if va < b.1 then some (va, c) else some b
      | some c, none => some (va, c)
      | none, b => b
    (acc.1 ++ [x], bad, s)) (([], bad, s) : List SrcElem × Option (Nat × Nat) × State)
  let line := l0 + r
  if e = 256 then
    let (bits, sc) := nibbleLine fmt l
    (bad, s.updSlot cl slot fun x =>
      let x := x.putBytes (128 * line) 128 bits
      match sc with
      | some k => { x with scales := KMap.put 127 x.scales line k }
      | none => x)
  else
    let z := tyWidth fmt / 8
    let bits := ((upTo e).zip l).foldl (fun acc m =>
      acc + (match m.2.shown with
        | some d => shownTo fmt d m.2.bits
        | none => m.2.bits) % 256 ^ z * 256 ^ (z * m.1)) 0
    let hi := z = 1 && 128 ≤ line
    let at' := if hi then line - 128 else line
    (bad, s.updSlot cl (if hi then slot + 1 else slot) fun x => x.putBytes (128 * z * at') (128 * z) bits)

/-- Report an error at the thread's next MSYNC (R392). -/
def State.reportMsync (s : State) (c : CtxId) (cause addr : Nat) : State :=
  s.updCtx c fun x => { x with msyncReports := x.msyncReports ++ [⟨cause, addr⟩] }

/-- SLLOAD performed (R287, R392). -/
def State.opaLoad (s : State) (c : CtxId) (col : Bool) (fmt slot l0 n base st y : Nat) (pages : Pages) : State :=
  let r := (upTo n).foldl (fun acc k => acc.2.slLine c col fmt slot l0 base st y pages k acc.1)
    ((none, s) : Option (Nat × Nat) × State)
  match r.1 with
  | some b => r.2.reportMsync c b.2 b.1
  | none => r.2

/-- The scale form of SLLOAD (R287). -/
def State.opaScale (s : State) (c : CtxId) (slot base : Nat) (pages : Pages) : State :=
  let cl := clusterOf c.core
  let r := (upTo 128).foldl (fun acc i =>
    let va := (base + i) % 2 ^ 64
    let (x, s) := acc.2.opaSource c 0 va 0 pages
    -- a window presents whole elements; the byte is one of them
    let bits := match x.shown with
      | some d => x.bits / 256 ^ (va % (tyWidth d / 8))
      | none => x.bits
    let code := if x.bad.isSome then 0 else bits % 256
    (acc.1.or (x.bad.map fun c => (va, c)),
      s.updSlot cl slot fun k => { k with scales := KMap.put 127 k.scales i code }))
    ((none, s) : Option (Nat × Nat) × State)
  match r.1 with
  | some b => r.2.reportMsync c b.2 b.1
  | none => r.2

/-- Elements `lo` to `lo + n - 1` of a row, all in one page, written by MST through the window of their address: flags, generator after it (R291). A value enters a window's encoder exactly, as F32 or I32. -/
def State.opaStoreSeg (s : State) (c : CtxId) (x : Tile) (i lo n va d : Nat) (k : WrCtx) (pages : Pages)
    (bad : Option Nat) : State × Nat × Nat :=
  let at' (j : Nat) : Nat := (va + d * j) % 2 ^ 64
  match pageXl pages (at' lo) with
  | none => (s, 0, k.seed)
  | some x0 =>
    let a := spmAddr x0.pa
    let js := (upTo n).map fun m => lo + m
    let note (s : State) (r : Refused) (va : Nat) : State :=
      match r with
      | some b => s.report c.core (s.ctxAt c).uid b.2 va
      | none => s
    match (if a.window = 0 then none else s.window a.core a.window) with
    | none =>
      (js.foldl (fun s j =>
        let pa := x0.pa + d * (j - lo)
        let (r, s) := s.homePut pa 4 (x.acc i j)
        let s := note s r (at' j)
        if bad = some j then s.setPoison (pa / 8) true else s) s, 0, k.seed)
    | some w =>
      let exact : Window := { w with dfmt := if x.i32 then 2 else 9 }
      let k := { k with mode := w.mode k.mode }
      let v := js.foldl (fun acc j => acc + x.acc i j * 2 ^ (32 * (j - lo))) 0
      let (r, s, fl, seed) := s.windowWrite a.core exact (a.off / (tyWidth w.dfmt / 8) * 4) (4 * n) v k
      let s := note s r (at' lo)
      let s := match bad with
        | some j => if lo ≤ j && j < lo + n then
            (w.touched (a.off + d * (j - lo)) d).foldl (fun s t =>
              (wordsOf (spmPa a.core t.1) t.2).foldl (fun s w => s.setPoison w true) s) s
          else s
        | none => s
      (s, fl, seed)

/-- One row of MST, in the pages that it touches. -/
def State.opaStoreRow (s : State) (c : CtxId) (x : Tile) (i va d : Nat) (k : WrCtx) (pages : Pages) (e : OpaErr) :
    State × Nat × Nat :=
  let bad : Option Nat := match e with
    | .acc ei ej => if ei = i then some ej else none
    | _ => none
  -- elements before the next page boundary
  let m := min 128 ((65536 - va % 65536 + d - 1) / d)
  let (s, fl, seed) := s.opaStoreSeg c x i 0 m va d k pages bad
  if m = 128 then (s, fl, seed)
  else
    let (s, fl', seed) := s.opaStoreSeg c x i m (128 - m) va d { k with seed := seed } pages bad
    (s, fl ||| fl', seed)

/-- MST performed (R291). The flags go to the issuing thread. -/
def State.opaStore (s : State) (c : CtxId) (t i0 n base st d : Nat) (mode : RMode) (satn : Bool) (seed : Nat)
    (pages : Pages) (e : OpaErr) : State :=
  let x := (s.clAt (clusterOf c.core)).tile t
  let r := (upTo n).foldl (fun acc k =>
    let (s, fl, seed) := acc.1.opaStoreRow c x (i0 + k) ((base + k * st) % 2 ^ 64) d ⟨mode, satn, acc.2.2⟩ pages e
    (s, acc.2.1 ||| fl, seed)) ((s, 0, seed) : State × Nat × Nat)
  let s := r.1.updCtx c fun k => { k with fcsr := k.fcsr ||| r.2.1 }
  match e with
  | .acc i _ => if i0 ≤ i && i < i0 + n then s.reportMsync c Cause.uncorrectable 0 else s
  | _ => s

/-! ### Performing a command -/

/-- The elements that MRD gives: the tile's for active elements (R290). -/
def Tile.readVec (x : Tile) (i0 vl mask old : Nat) : Nat :=
  (upTo vl).foldl (fun acc k =>
    acc + (if bitAt mask k then x.acc (i0 + k / 128) (k % 128) else bitsAt old (32 * k) 32) * 2 ^ (32 * k)) 0

/-- MWR: active elements are written (R290). -/
def Tile.writeVec (x : Tile) (i0 vl mask data : Nat) : Tile :=
  x.fill fun i j =>
    let k := (i - i0) * 128 + j
    if i0 ≤ i && k < vl && bitAt mask k then bitsAt data (32 * k) 32 else x.acc i j

/-- What a command does to slots, tiles and memory when it is performed (R279); MRD changes none of them. -/
def State.opaPerform (s : State) (c : CtxId) (cmd : OpaCmd) (e : OpaErr) : State :=
  let cl := clusterOf c.core
  let mul (r : Bool × State) : State := if r.1 then r.2.reportMsync c Cause.uncorrectable 0 else r.2
  match cmd with
  | .slclaim l => l.foldl (fun s n => s.updSlot cl n fun x => { x with bytes := 0, scales := [] }) s
  | .slload col fmt slot l0 n base st y pages => s.opaLoad c col fmt slot l0 n base st y pages
  | .scale slot base pages => s.opaScale c slot base pages
  | .aclaim t i32 => s.updTile cl t fun x => { x with rows := [], i32 := i32 }
  | .mzero t => s.updTile cl t fun x => { x with rows := [] }
  | .mop t sa sb fa fb k => mul (s.opaMul cl t sa sb fa fb k false e)
  | .mops t sa sb fa fb => mul (s.opaMul cl t sa sb fa fb 256 true e)
  | .mrd _ _ _ _ _ | .mlease _ | .mfree => s
  | .mwr t i0 vl mask data => s.updTile cl t fun x => x.writeVec i0 vl mask data
  | .mst t i0 n base st d mode satn seed pages => s.opaStore c t i0 n base st d mode satn seed pages e

/-- Does a command of a thread that has ended still run: what the array has accepted, and what it does not lease (R30, R284)? -/
def StreamEnt.runsOn (e : StreamEnt) : Bool := (e.accepted || !e.cmd.leased) && !e.cmd.ofLease

/-- The slots and tiles of a thread are freed (R30, R274). -/
def State.freeOpa (s : State) (cl uid : Nat) : State :=
  s.updCl cl fun k =>
    { k with slots := k.slots.map fun e => (e.1, if e.2.owner = some uid then { e.2 with owner := none } else e.2),
             tiles := k.tiles.map fun e => (e.1, if e.2.owner = some uid then { e.2 with owner := none } else e.2) }

/-! ### Leases (R275 to R278) -/

/-- Time as the array sees it: it stands still in a freeze (R278). -/
def State.opaNow (s : State) (cl : Nat) : Nat := (s.clAt cl).frozen.getD s.fc

/-- What comes next in a stream for the arbiter: the first leased command that is not accepted, or an MLEASE or MFREE before it (R277, R279). -/
def nextForLease : List StreamEnt → Option StreamEnt
  | [] => none
  | e :: r => if (e.cmd.leased && !e.accepted) || e.cmd.ofLease then some e else nextForLease r

/-- Take an MLEASE or MFREE that is done out of a stream. -/
def dropLeaseCmd : List StreamEnt → List StreamEnt
  | [] => []
  | e :: r => if e.cmd.ofLease then r else e :: dropLeaseCmd r

/-- Mark the first leased command that is not accepted; its interval. -/
def acceptFirst : List StreamEnt → Option (Nat × List StreamEnt)
  | [] => none
  | e :: r =>
    if e.cmd.leased && !e.accepted then some (e.cmd.interval, { e with accepted := true } :: r)
    else (acceptFirst r).map fun p => (p.1, e :: p.2)

/-- MLEASE reaches the arbiter: the berth waits for a grant with its count (R275, R284). -/
def Ctx.askLease (x : Ctx) (k t : Nat) : Ctx :=
  { x with lease := .waiting, leaseK := k, leaseUsed := 0, leaseSince := t, stream := dropLeaseCmd x.stream }

/-- A berth whose lease is not HELD: its next command that concerns the arbiter takes effect (R275). -/
def Ctx.leaseIdle (x : Ctx) : Ctx :=
  match nextForLease x.stream with
  | none => x
  | some e =>
    let t := max e.since x.leaseSince
    match e.cmd with
    | .mlease k => x.askLease k t
    | .mfree => { x with lease := .none, stream := dropLeaseCmd x.stream }
    | _ => if x.lease = .lapsed then { x with lease := .waiting, leaseUsed := 0, leaseSince := t } else x

/-- The array has no holder from a time on (R275, R276). -/
def State.noHolder (s : State) (cl t : Nat) : State := s.updCl cl fun k => { k with opaHeld := none, opaBoundary := t }

/-- The lease of a HELD berth lapses at a boundary (R275). -/
def State.lapseLease (s : State) (cl : Nat) (c : CtxId) (t : Nat) : State :=
  (s.updCtx c fun x => { x with lease := .lapsed, leaseSince := t }).noHolder cl t

/-- One happening of a cluster's array under its HELD lease, if one is due: a command accepted at max(T + I, its arrival), the end of the lease by count or clock, MLEASE or MFREE in their turn (R275, R277, R284). -/
def State.leaseNext (s : State) (cl : Nat) (c : CtxId) : Option State :=
  let k := s.clAt cl
  let x := s.ctxAt c
  let now := s.opaNow cl
  let limit := k.leaseStart + 2 * Config.leaseAc
  -- the lease of a berth that gave it up ends at its boundary
  if x.lease ≠ .held then if k.opaBoundary ≤ now then some (s.noHolder cl k.opaBoundary) else none
  else if x.leaseK ≤ x.leaseUsed then if k.opaBoundary ≤ now then some (s.lapseLease cl c k.opaBoundary) else none
  else
    let clock (_ : Unit) : Option State :=
      if max k.opaBoundary limit ≤ now then some (s.lapseLease cl c (max k.opaBoundary limit)) else none
    match nextForLease x.stream with
    | none => clock ()
    | some e =>
      let t := max k.opaBoundary (max e.since k.opaThaw)
      if limit ≤ t then clock ()
      else if now < t then none
      else match e.cmd with
        | .mlease n => some ((s.updCtx c fun x => x.askLease n t).noHolder cl t)
        | .mfree => some ((s.updCtx c fun x => { x with lease := .none, stream := dropLeaseCmd x.stream }).noHolder cl t)
        | _ =>
          match acceptFirst x.stream with
          | some (n, l) =>
            some ((s.updCtx c fun x => { x with stream := l, leaseUsed := x.leaseUsed + 1 }).updCl cl fun k =>
              { k with opaBoundary := t + 2 * n })
          | none => none

/-- What is due under the HELD lease, as far as the fuel goes. -/
def State.leaseRun (s : State) (cl : Nat) : Nat → State
  | 0 => s
  | n + 1 =>
    match (s.clAt cl).opaHeld with
    | none => s
    | some key => match s.leaseNext cl (CtxId.ofKey key) with
      | some s => s.leaseRun cl n
      | none => s

/-- The berths of a core, as the arbiter sees them. -/
def State.leaseBerths (s : State) (cl : Nat) : List CtxId :=
  ((s.ctx.map fun e => CtxId.ofKey e.1).filter fun c => decide (clusterOf c.core = cl))

/-- Bring the lease states of a cluster up to date: everything that is due by now happens at its own time (R275, R277). A stream holds 16 commands, and a lease ends once. -/
def State.opaTick (s : State) (cl : Nat) : State :=
  let s := s.leaseRun cl 18
  if (s.clAt cl).frozen.isSome then s
  else (s.leaseBerths cl).foldl (fun s c =>
    let x := s.ctxAt c
    if x.stream.isEmpty || x.lease = .held then s else s.updCtx c fun x => (x.leaseIdle).leaseIdle) s

end Sys2Proof.Machine
end

