-- ==== Sys2Proof/Machine/Ops.lean ====
section
/-! DEFINITION. Named operations over contexts: registers, STATUS, the program counter, fault logs, the end of a thread, taking a trap and returning from one (R76 to R80, R96, R180, R200, R203, R366 to R379). -/
namespace Sys2Proof.Machine

/-! ### Scalar registers (R76 to R80) -/

/-- The content of a scalar register; x0 reads zero (R76). -/
def Ctx.getX (c : Ctx) (r : Nat) : Word := if r = 0 then 0 else KMap.find 0 c.x r

/-- The full/empty bit of a scalar register; x0 is always full (R76). -/
def Ctx.stX (c : Ctx) (r : Nat) : RegSt := if r = 0 then .full else KMap.find .full c.xs r

/-- Write a scalar register and mark it full; a write to x0 is discarded (R76), and a write clears a failure (R367). -/
def Ctx.setX (c : Ctx) (r : Nat) (v : Word) : Ctx :=
  if r = 0 then c else { c with x := KMap.ins c.x r v, xs := KMap.put .full c.xs r .full }

/-- Mark a scalar register without writing it. -/
def Ctx.markX (c : Ctx) (r : Nat) (st : RegSt) : Ctx := if r = 0 then c else { c with xs := KMap.put .full c.xs r st }

/-- The marker of a vector register (R78). -/
def VState.stV (v : VState) (n : Nat) : RegSt := KMap.find .full v.st n

/-- A vector register (R88). -/
def VState.getV (v : VState) (n : Nat) : VReg := KMap.find VReg.zero v.v n

/-- Write a vector register and mark it full; data held for a failed load is discarded (R394). -/
def VState.setV (v : VState) (n : Nat) (r : VReg) : VState :=
  { v with v := KMap.ins v.v n r, st := KMap.put .full v.st n .full, held := KMap.del v.held n }

/-- A load queue (R86). -/
def VState.queue (v : VState) (n : Nat) : List QEnt := KMap.find [] v.q n

/-- A last result by its number (R87). -/
def VState.lAt (v : VState) (n : Nat) : QEnt := if n = 0 then v.l0 else v.l1

/-- A register source or destination: x register, v register, the head of a queue, or a last result, with the F bit of a source (R79, R86, R265). -/
inductive Opd
  | x (r : Nat) (f : Bool)
  | v (n : Nat) (f : Bool)
  | q (n : Nat)
  | l (n : Nat)
  deriving DecidableEq, Repr

/-- A scalar source. -/
def srcX (a : Src) : Opd := .x a.r.toNat a.f

/-- The register code of R368. -/
def Opd.code : Opd → Nat
  | .x r _ => r
  | .v n _ => 0x20 + n
  | .q n => 0x40 + n
  | .l n => 0x44 + n

/-- The full/empty state of an operand; a queue without an entry, and a vector register without vector state, wait for nothing here. -/
def Ctx.opdSt (c : Ctx) : Opd → RegSt
  | .x r _ => c.stX r
  | .v n _ => match c.vs with
    | some v => v.stV n
    | none => .full
  | .q n => match c.vs with
    | some v => match (v.queue n).head? with
      | some e => e.st
      | none => .full
    | none => .full
  | .l n => match c.vs with
    | some v => (v.lAt n).st
    | none => .full

/-- Does the operand wait (F = 1, a queue, or a last result)? -/
def Opd.waits : Opd → Bool
  | .x _ f => f
  | .v _ f => f
  | .q _ => true
  | .l _ => true

/-- The first failed source that is read with F = 1 decides the trap (R367, R368, R372). -/
def Ctx.failedSrc (c : Ctx) : List Opd → Option (Nat × Nat × Nat)
  | [] => none
  | o :: r =>
    match o.waits, c.opdSt o with
    | true, .failed cause addr mask => some (cause, dataVal o.code addr, mask)
    | _, _ => c.failedSrc r

/-- Does some source wait for a result (R79)? -/
def Ctx.waitsSrc (c : Ctx) (l : List Opd) : Bool := l.any fun o => o.waits && c.opdSt o == .empty

/-- Does some destination wait for an older producer (R80)? -/
def Ctx.waitsDst (c : Ctx) (l : List Opd) : Bool := l.any fun o => c.opdSt o == .empty

/-- Is the operand a last result? -/
def Opd.isLast : Opd → Bool
  | .l _ => true
  | _ => false

/-- Is a result on its way that will be written to l0 (R265)? -/
def State.lastDue (s : State) (uid : Nat) : Bool :=
  s.pend.any fun p => p.uid == uid && match p.dst with
    | .v _ | .last => true
    | _ => false

/-- Sources and destinations of an instruction: failed sources trap (R372, step 5), empty ones and empty destinations wait (R79, R80); l0 and l1 are read once every earlier result is there (R265). -/
def operands (srcs dsts : List Opd) : M Unit := do
  let s ← get
  let c := s.me
  match c.failedSrc srcs with
  | some (cause, val, mask) => throw (.trap cause val mask)
  | none => if c.waitsSrc srcs || c.waitsDst dsts || ((srcs.any Opd.isLast) && s.lastDue c.uid) then stall else pure ()

/-- The content of a scalar source. -/
def readX (a : Src) : M Word := do return (← me).getX a.r.toNat

/-- Write a scalar destination (R76, R78). -/
def writeX (d : Reg) (v : Word) : M Unit := updMe fun c => c.setX d.toNat v

/-! ### STATUS and the program counter -/

/-- log2 of a grant size. -/
def log2G (g : Nat) : Nat := Nat.log2 g

/-- STATUS as it reads (R96). -/
def statusOf (c : CtxId) (x : Ctx) : Nat :=
  let g := match x.vs with
    | some v => log2G v.g
    | none => 0
  x.pl + 4 * (if x.ergBit then 1 else 0) + 8 * (if x.trapBit then 1 else 0) + 16 * (if c.isHandler then 1 else 0) +
    32 * (if x.vs.isSome then 1 else 0) + 64 * g + 512 * (c.idx % 8) + 4096 * (if x.nopre then 1 else 0)

/-- The next head after the one at PC, in a line of `n` heads (R180). -/
def nextPc (pc n : Nat) : Nat := if pc % 64 / 2 < n then pc + 2 else pc / 64 * 64 + 66

/-- Heads of the line that the context runs. -/
def Ctx.heads (c : Ctx) : Nat :=
  match c.line with
  | some l => l.n
  | none => 31

/-- next(PC) of a context. -/
def Ctx.next (c : Ctx) : Nat := nextPc c.pc c.heads

/-- Move past the instruction at PC; leaving the line is an entry to the following one (R180, R182). -/
def Ctx.advance (c : Ctx) : Ctx :=
  if c.pc % 64 / 2 < c.heads then { c with pc := c.next } else { c with pc := c.next, line := none }

/-- Move past the instruction. -/
def advance : M Unit := updMe Ctx.advance

/-- Go on at a head; every transfer is an entry to its line (R182). -/
def Ctx.goto (c : Ctx) (pc : Nat) : Ctx := { c with pc := pc, line := none }

/-! ### The end of a thread (R30) -/

/-- The L1s that a context's releases and acquires act on (R158, R340). -/
def Ctx.l1s (c : Ctx) (core : Nat) : List (Nat × Option Nat) :=
  if c.composed then
    (ergMembers core c.ergSize).map fun k => (k, if k = core then none else some core)
  else [(core, none)]

/-- Free the lent berths of an erg (R344). -/
def State.freeLent (s : State) (home n : Nat) : State :=
  (ergMembers home n).foldl (fun s core =>
    if core = home then s
    else s.updCtx ⟨core, 7⟩ fun x => if x.occ = .lent then { x with occ := .free } else x) s

/-- Hand an erg back: its lines move to the near partition (R343). The lent berths are the caller's (R344). -/
def State.handBack (s : State) (c : CtxId) : State :=
  let x := s.ctxAt c
  if x.composed then s.handBackLines c.core (ergMembers c.core x.ergSize) else s

/-- What a thread's OPA commands and ownership come to when it ends (R30, R275): what the array has accepted, and what it leases to nobody, is performed; slots and tiles are freed. In a freeze both wait for its end (R278). The lease ends at the current command boundary, as the arbiter finds the berth without one. -/
def State.endOpa (s : State) (c : CtxId) : State :=
  let cl := clusterOf c.core
  let s := s.opaTick cl
  let l := (s.ctxAt c).stream.filter StreamEnt.runsOn
  if (s.clAt cl).frozen.isSome then s.updCtx c fun x => { x with stream := l }
  else
    let s := l.foldl (fun (s : State) e => s.opaPerform c e.cmd .ok) s
    (s.updCtx c fun x => { x with stream := [] }).freeOpa cl (s.ctxAt c).uid

/-- End a berth thread as EXIT does; its berth drains (R30). -/
def State.endThread (s : State) (c : CtxId) : State :=
  let x := s.ctxAt c
  let s := s.handBack c
  let s := if x.ergSize ≠ 0 then s.freeLent c.core x.ergSize else s
  let s := s.drainComb c 1023 true
  let s := s.endOpa c
  let x := s.ctxAt c
  let s := s.logReports c.core (x.reports ++ x.msyncReports)
  s.updCtx c fun x =>
    { x with occ := .draining, vs := none, short := false, lease := .none, ergSize := 0, ergHeld := false,
             ergBit := false, saving := false, reports := [], msyncReports := [], wait := none, token := none, asks := [], pas := [], line := none,
             moving := none }

/-! ### Traps -/

/-- Abort a handler: its channel is masked, the event logged, its reports too (R392), the slot freed (R374, R50). -/
def State.abortHandler (s : State) (c : CtxId) (cause val pc : Nat) : State :=
  let x := s.ctxAt c
  let s := s.drainComb c 1023 true
  let s := s.logReports c.core (s.ctxAt c).reports
  let s := s.updCore c.core fun k => { k with chmask := setBit k.chmask x.hchan true }
  let val := if cause = Cause.handlerBudget then (s.coreAt c.core).hbudget else val
  let s := s.logFault c.core ⟨1, cause, c.idx - 8, x.hmsg, x.hchan, pc, val⟩
  s.updCtx c fun _ => Ctx.reset

/-- The registers of trap entry (R200, R370): STATUS saved, cause, value and address written, SUP or above, TRAP set, PC at head 1 of TVEC's line. -/
def Ctx.enterTrap (x : Ctx) (c : CtxId) (tvec cause val mask pc : Nat) : Ctx :=
  { x with
    tstatus := wd (statusOf c x), trapcause := wd cause, trapval := wd val, trappc := wd pc, trapmask := wd mask,
    pl := if x.pl = 0 then 1 else x.pl, trapBit := true, pc := tvec * 64 + 2, line := none, entry := true,
    wait := none, token := none, asks := [], pas := [], saving := false }

/-- Is the trap an entry failure: the first instruction at the trap entry traps, and not by TRAP or BRK (R371)? -/
def Ctx.entryFails (x : Ctx) (cause : Nat) : Bool := x.entry && cause != Cause.software

/-- Take a trap in a context: the abort of a handler (R374), the end of the thread at an entry failure (R371), or entry (R200, R376). -/
def State.takeTrap (s : State) (c : CtxId) (cause val mask pc : Nat) : State :=
  let x := s.ctxAt c
  if c.isHandler then s.abortHandler c cause val pc
  else if x.entryFails cause then
    (s.endThread c).logFault c.core ⟨3, cause, 0, none, 0, pc, val⟩
  else
    let s := s.handBack c
    s.updCtx c fun x =>
      ({ x with ergHeld := x.ergHeld || (x.ergBit && x.ergSize ≠ 0) }).enterTrap c (s.coreAt c.core).tvec cause val mask pc

/-- The level that TRET goes to: PL of TSTATUS, the reserved code as USR (R203). DESIGN CHOICE (log 39): a service core runs only at SUP or MON (R13), so there it is SUP. -/
def Ctx.returnLevel (x : Ctx) (c : CtxId) : Nat :=
  let p := x.tstatus.toNat % 4
  let p := if p = 2 then 0 else p
  if isSvc c.core then max 1 p else p

/-- The registers of TRET (R203): privilege and ERG from TSTATUS, TRAP cleared, PC at TRAPPC. ERG stays only where members are held (R345). -/
def Ctx.leaveTrap (x : Ctx) (c : CtxId) : Ctx :=
  let e := bitAt x.tstatus.toNat 2
  { x with pl := x.returnLevel c, ergBit := e && x.ergHeld, trapBit := false, pc := x.trappc.toNat, line := none,
           ergHeld := x.ergHeld && !e, ergSize := if x.ergHeld then x.ergSize else 0 }

/-! ### Issuing -/

/-- An instruction that completed: trap entry has issued something, the answers that it waited for are used up. -/
def Ctx.done (c : Ctx) : Ctx := { c with entry := false, asks := [], pas := [], token := none, wait := none }

/-- Change the vector state of a context, where it holds one. -/
def Ctx.updV (x : Ctx) (f : VState → VState) : Ctx := { x with vs := x.vs.map f }

/-- Mark a vector register. -/
def VState.markV (v : VState) (n : Nat) (st : RegSt) : VState := { v with st := KMap.put .full v.st n st }

/-- Mark the destinations of a producer empty (R78, R188). -/
def Ctx.markDst (x : Ctx) (st : RegSt) : Dst → Ctx
  | .x r => x.markX r st
  | .quad r => (upTo 4).foldl (fun x k => x.markX (r + k) st) x
  | .v n => x.updV fun v => v.markV n st
  | _ => x

/-- Go to sleep: a take marks its destination empty, as a producer does when it issues (R78, R328). -/
def Ctx.sleeps (x : Ctx) (w : Wait) : Ctx :=
  match w with
  | .take dst _ => { x.markDst .empty dst with wait := some w }
  | _ => { x with wait := some w }

/-- Must an erg wait before it hands back, until its outstanding results have returned and its accesses are performed (R343, step 2)? -/
def State.ergWaits (s : State) (c : CtxId) : Bool :=
  (s.ctxAt c).composed && (s.resultsDue (s.ctxAt c).uid || s.unperformed (s.ctxAt c).uid)

/-- What the end of a thread or a handler finds out of its reach: homes of its combined bytes, sources of its array commands (R30, R358, R417). -/
def State.endLacks (s : State) (c : CtxId) : List (Option Nat) :=
  (if c.isHandler then ({ s with lacks := [] } : State).drainComb c 1023 true else ({ s with lacks := [] } : State).endThread c).lacks

/-- Must a trap wait: that of an erg for what hand-back waits for (R343, R376), one that ends its thread or handler (R371, R374) for what the end needs? -/
def State.trapWaits (s : State) (c : CtxId) (cause : Nat) : Bool :=
  s.ergWaits c || ((c.isHandler || (s.ctxAt c).entryFails cause) && !(s.endLacks c).isEmpty)

/-- The acting context only waits to trap; pages that the end of its thread needs are recalled. -/
def State.trapLater (s : State) (c : CtxId) (cause : Nat) : State :=
  let s := if c.isHandler || (s.ctxAt c).entryFails cause then s.askRecalls (s.endLacks c) else s
  { s with waited := true }

/-- Run a meaning for the acting context: it completes, traps with effects that stand (R366), waits with nothing done, or goes to sleep. -/
def issue (m : M Unit) (s : State) : Host.Outcome State Fault Refusal :=
  match m.go s with
  | (.ok _, s') => .next (s'.updMe Ctx.done)
  | (.error (.trap cause val mask), s') =>
    .next (if s.trapWaits s.cur cause then s.trapLater s.cur cause else s'.takeTrap s.cur cause val mask s.me.pc)
  | (.error .stall, _) => .next { s with waited := true }
  | (.error (.sleep w), s') => .next (s'.updMe fun c => c.sleeps w)

/-- A service core lacks what the instruction needs (R13, R372 step 6). -/
def notService : M Unit := do trapIf (isSvc (← curId).core) Cause.badTarget 0

/-- An operation that always waits for another agent stops a handler (R49, R372 step 7). -/
def notHandler : M Unit := do trapIf (← curId).isHandler Cause.handlerBlock 0

/-- What an erg cannot execute (R342). -/
def notErg (op : Nat) : M Unit := do
  let c ← me
  trapIf (c.ergBit && !c.trapBit) Cause.ergState (5 + op * 256)

/-- What must cross a failed edge to another die waits (R417). -/
def edgeGate (die : Nat) : M Unit := do
  let s ← get
  if s.edgeHeld (dieOf s.cur.core) die then stall

/-- Wait until every earlier access of the thread is performed (R156). -/
def performed : M Unit := do
  let s ← get
  if s.unperformed s.me.uid then throw (.sleep .ack)

/-- The words over a region set that a release at DI or wider writes or registers at home: those registered at CL, the combined ones of its core, the dirty ones of its L1s. -/
def State.releaseHomes (s : State) (cores : List (Nat × Option Nat)) (g : Nat) : List (Nat × Nat × Nat) :=
  if g = 0 then []
  else
    let home (core w : Nat) (out : Bool) (region : Nat) : Option (Nat × Nat × Nat) :=
      if out && covers g region then some (core, 8 * w, 8) else none
    ((s.clAt (clusterOf s.cur.core)).near.filterMap fun e => home s.cur.core e.1 e.2.cl.isSome e.2.region) ++
      cores.flatMap fun k =>
        ((s.coreAt k.1).l1.filterMap fun e => home k.1 e.1 e.2.dirty e.2.region) ++
          (if k.2.isSome then [] else (upTo 10).flatMap fun i =>
            (s.ctxAt ⟨k.1, i⟩).comb.filterMap fun e => home k.1 e.1 true e.2.region)

/-- A release by the acting context at a scope over regions, after every earlier access, once its homes can take it (R156, R158). -/
def releaseM (sc g : Nat) : M Unit := do
  performed
  let s ← get
  if 1 ≤ sc then wayGate (s.releaseHomes (s.me.l1s s.cur.core) g)
  upd fun s => s.release (s.me.l1s s.cur.core) sc g

/-- An acquire by the acting context (R160). -/
def acquireM (sc g : Nat) : M Unit := upd fun s => s.acquire (s.me.l1s s.cur.core) sc g

/-- The report that a wait point takes first: the lowest address, then POISON, UNCORRECTABLE, REG_EMPTY (R393). -/
def firstReport (l : List Report) : Option Report :=
  let rank (c : Nat) : Nat := if c = Cause.poison then 0 else if c = Cause.uncorrectable then 1 else 2
  l.foldl (fun acc r =>
    match acc with
    | none => some r
    | some a => if r.addr < a.addr || (r.addr == a.addr && decide (rank r.cause < rank a.cause)) then some r else some a) none

/-- Accesses that an instruction in a restartable wait finds once: while it waits it does not translate again (R372). -/
def xlOnce (vas : List Nat) (find : M (List Xl)) : M (List Xl) := do
  let c ← me
  if c.pas.length = vas.length && !vas.isEmpty then return (vas.zip c.pas).map fun e => ⟨e.1, e.2, 3, 0, false, false, 0⟩
  else
    let l ← find
    updMe fun c => { c with pas := l.map fun x => x.pa }
    return l

/-- A wait point: every earlier write acknowledged, then its error if one is due (R393). What the instruction has released stays released while it waits. -/
def waitPoint : M Unit := do
  performed
  let c ← me
  match firstReport c.reports with
  | none => pure ()
  | some r =>
    updMe fun c => { c with reports := [] }
    trap r.cause (dataVal 0x80 r.addr)

end Sys2Proof.Machine
end

