-- ==== Sys2Proof/Machine/Cbu.lean ====
section
/-! DEFINITION. The conflict batching unit of a cluster (R313 to R331, R415). -/
namespace Sys2Proof.Machine

/-- A session of a CBU. -/
def State.session (s : State) (cl slot : Nat) : Option Session := KMap.find none (s.clAt cl).sessions slot

/-- Put or free a session. -/
def State.setSession (s : State) (cl slot : Nat) (v : Option Session) : State :=
  s.updCl cl fun c => { c with sessions := KMap.put none c.sessions slot v }

/-- Do two items share a body? -/
def shares (a b : Item) : Bool := a.bodies.any fun x => b.bodies.contains x

/-- The ISSUABLE items of a session in posting order (R317, R319): not taken, and no earlier item shares a body. -/
def issuable : List Item → List Item → List Item
  | _, [] => []
  | earlier, i :: r =>
    if !i.taken && !(earlier.any fun e => shares e i) then i :: issuable (earlier ++ [i]) r
    else issuable (earlier ++ [i]) r

/-- The ISSUABLE items of a session. -/
def Session.ready (v : Session) : List Item := issuable [] v.items

/-- The eight session slots with their sessions. -/
def State.openSessions (s : State) (cl : Nat) : List (Nat × Session) :=
  (upTo 8).filterMap fun k => (s.session cl k).map fun v => (k, v)

/-- Window entries in use (R316). -/
def State.usedEntries (s : State) (cl : Nat) : List Nat :=
  (s.openSessions cl).flatMap fun e => e.2.items.map fun i => i.entry

/-- The distinct body IDs that a session's items hold. -/
def Session.bodyIds (v : Session) : List Nat := (v.items.flatMap fun i => i.bodies).eraseDups

/-- Body-table entries in use (R321). -/
def State.usedBodies (s : State) (cl : Nat) : Nat :=
  (s.openSessions cl).foldl (fun n e => n + e.2.bodyIds.length) 0

/-- Does an item fit the window and the body table (R321)? -/
def State.cbuFits (s : State) (cl slot : Nat) (bodies : List Nat) : Bool :=
  let held := match s.session cl slot with
    | some v => v.bodyIds
    | none => []
  decide ((s.usedEntries cl).length < 2048) &&
    decide ((bodies.filter fun b => !held.contains b).length + s.usedBodies cl ≤ 8192)

/-- The `k`-th number from `n` up that the list does not hold, among `fuel` candidates. -/
def nthFree (used : List Nat) : Nat → Nat → Nat → Nat
  | 0, n, _ => n
  | fuel + 1, n, k =>
    if used.contains n then nthFree used fuel (n + 1) k
    else if k = 0 then n else nthFree used fuel (n + 1) (k - 1)

/-- Enter an item (R327). The hardware chooses ENTRY freely among the free ones (R316; log 5). -/
def State.cbuEnter (s : State) (cl slot : Nat) (bodies : List Nat) (payload : Nat) : State :=
  match s.session cl slot with
  | none => s
  | some v =>
    let used := s.usedEntries cl
    let k := Config.pick s.freeN % (2048 - used.length)
    let s := { s with freeN := s.freeN + 1 }
    let it : Item := ⟨false, v.accepted % 2 ^ 17, nthFree used 2048 0 k, bodies, payload, false⟩
    s.setSession cl slot (some { v with items := v.items ++ [it], accepted := v.accepted + 1 })

/-- The result word of a taken item (R316, R328). -/
def Item.result (slot : Nat) (i : Item) : Word := wd ((i.tseq * 2 ^ 14 + slot * 2 ^ 11 + i.entry) * 2 ^ 32 + i.payload)

/-- What a take gets of an item: the result word, and whether its payload was lost on the way (R422). -/
def Item.given (slot : Nat) (i : Item) : Word × Bool := (i.result slot, i.bad)

/-- Mark items taken, by window entry. -/
def Session.take (v : Session) (es : List Nat) : Session :=
  { v with items := v.items.map fun i => if es.contains i.entry then { i with taken := true } else i }

/-- Is a session drained (R328)? -/
def State.drained (s : State) (cl slot : Nat) (v : Session) : Bool :=
  v.closed && v.items.all (fun i => i.taken) && !((s.clAt cl).cbuPosts.any fun p => p.slot == slot && p.seq == v.seq)

/-- End a thread's wait with an answer, or let it try again. -/
def State.wake (s : State) (key uid : Nat) (tok : Option (List Word)) : State :=
  let c := CtxId.ofKey key
  if (s.ctxAt c).uid = uid then s.updCtx c fun x => { x with wait := none, token := tok } else s

/-- What ends a waiting take: the scope of its session, then its items; none is the drained result (R328). The handle is not read again. -/
def takeToken (scope : Nat) (l : List (Word × Bool)) : Option (List Word) :=
  some (wd scope :: l.flatMap fun e => [e.1, if e.2 then 1 else 0])

/-- The items that a token holds. -/
def takenOf : List Word → List (Word × Bool)
  | w :: b :: r => (w, b != 0) :: takenOf r
  | _ => []

/-- Waiting takes of one session receive items in arrival order, or the drained result (R319, R328). -/
def State.serveTakes (s : State) (cl slot : Nat) : Nat → State
  | 0 => s
  | fuel + 1 =>
    match s.session cl slot with
    | none => s
    | some v =>
      match v.takes with
      | [] => s
      | t :: r =>
        let es := v.ready.take t.most
        if es.isEmpty then
          if s.drained cl slot v then
            ((s.setSession cl slot (some { v with takes := r })).wake t.ctxKey t.uid (takeToken v.scope [])).serveTakes cl slot fuel
          else s
        else
          let v' := { v.take (es.map fun i => i.entry) with takes := r }
          let s := s.setSession cl slot (some v')
          (s.wake t.ctxKey t.uid (takeToken v.scope (es.map fun i => i.given slot))).serveTakes cl slot fuel

/-- A closed session without items is freed, and takes still waiting there return (R331). -/
def State.freeSession (s : State) (cl slot : Nat) : State :=
  match s.session cl slot with
  | none => s
  | some v =>
    if v.closed && v.items.isEmpty && !((s.clAt cl).cbuPosts.any fun p => p.slot == slot) then
      let s := s.setSession cl slot none
      v.takes.foldl (fun s t => s.wake t.ctxKey t.uid (takeToken v.scope [])) s
    else s

/-- Waiting takes of every session of a CBU are served, and sessions that are over freed. -/
def State.serveSessions (s : State) (cl : Nat) : State :=
  (upTo 8).foldl (fun s k =>
    let n := match s.session cl k with
      | some v => v.takes.length
      | none => 0
    (s.serveTakes cl k n).freeSession cl k) s

/-- Posts that now fit enter in arrival order (R321), each followed by the takes that it serves: one operation at a time (R319). -/
def State.servePosts (s : State) (cl : Nat) : Nat → State
  | 0 => s
  | fuel + 1 =>
    match (s.clAt cl).cbuPosts with
    | [] => s
    | p :: r =>
      if s.cbuFits cl p.slot p.bodies then
        let s := s.cbuEnter cl p.slot p.bodies p.payload
        let s := s.updCl cl fun c => { c with cbuPosts := r }
        ((s.wake p.ctxKey p.uid (some [])).serveSessions cl).servePosts cl fuel
      else s

/-- What follows from an operation of a CBU: waiting takes are served first (R319, R330), then posts enter. -/
def State.serveCbu (s : State) (cl : Nat) : State :=
  let s := s.serveSessions cl
  s.servePosts cl (s.clAt cl).cbuPosts.length

/-- Withdraw a thread's waiting take or post (R329): what waited behind it goes on (R321, R328, R331). -/
def State.withdrawCbu (s : State) (key uid : Nat) : State :=
  let gone (w : CbuWait) : Bool := w.ctxKey == key && w.uid == uid
  s.cl.foldl (fun s e =>
    if (e.2.cbuPosts.any gone) || e.2.sessions.any fun k => match k.2 with
      | some v => v.takes.any gone
      | none => false
    then
      let s := s.updCl e.1 fun c => { c with cbuPosts := c.cbuPosts.filter fun w => !gone w }
      ((upTo 8).foldl (fun s k =>
        match s.session e.1 k with
        | some v => s.setSession e.1 k (some { v with takes := v.takes.filter fun w => !gone w })
        | none => s) s).serveCbu e.1
    else s) s

/-- Fields of a handle (R314). -/
structure Handle where
  seq : Nat
  scope : Nat
  cl : Nat
  slot : Nat
  deriving DecidableEq, Repr

/-- A handle's fields, absent where a zero field is not zero (R325, reason 1). -/
def handleOf (h : Nat) : Option Handle :=
  if h / 2 ^ 32 ≠ 0 || bitsAt h 13 3 ≠ 0 then none
  else some ⟨bitsAt h 16 16, bitsAt h 11 2, bitsAt h 3 8, bitsAt h 0 3⟩

/-- The value of a handle. -/
def Handle.word (h : Handle) : Word := wd (h.seq * 2 ^ 16 + h.scope * 2 ^ 11 + h.cl * 8 + h.slot)

/-- CBUKILL with GO = 1: the session ends, its items are dropped, waiting takes get the drained result, waiting posts the trap of a stale handle (R415). -/
def State.cbuKill (s : State) (cl slot : Nat) : State :=
  match s.session cl slot with
  | none => s
  | some v =>
    let posts := (s.clAt cl).cbuPosts
    let s := s.setSession cl slot none
    let s := s.updCl cl fun c => { c with cbuPosts := c.cbuPosts.filter fun p => p.slot != slot }
    let s := v.takes.foldl (fun s t => s.wake t.ctxKey t.uid (takeToken v.scope [])) s
    let s := (posts.filter fun p => p.slot == slot).foldl (fun s p =>
      s.wake p.ctxKey p.uid (some [Handle.word ⟨v.seq, v.scope, cl, slot⟩])) s
    s.serveCbu cl

/-- The session a handle names; none where it is stale (R314). -/
def State.handleSession (s : State) (h : Handle) : Option Session :=
  match s.session h.cl h.slot with
  | some v => if v.seq = h.seq then some v else none
  | none => none

/-- TRAPVAL of CBU_STATE (R325). -/
def cbuVal (reason word : Nat) : Nat := reason + word % 2 ^ 32 * 2 ^ 32

/-- Read a handle: an absent cluster (R324; R372 step 11), then the zero fields (R325; step 14). A failed edge on the way holds the operation (R417). -/
def readHandle (h : Word) : M Handle := do
  trapIf (!(← get).clusterPresent (bitsAt h.toNat 3 8)) Cause.badTarget h.toNat
  match handleOf h.toNat with
  | none => trap Cause.cbuState (cbuVal 1 h.toNat)
  | some k =>
    edgeGate (k.cl / 64)
    return k

/-- CBOPEN (R326). -/
def cbOpen (x : Word) : M Word := do
  let v := x.toNat
  let own := bitAt v 8
  let clus := bitsAt v 0 8
  let s ← get
  let cl := if own then clusterOf s.cur.core else clus
  trapIf (v / 2 ^ 11 ≠ 0 || (own && clus ≠ 0) || !s.clusterPresent cl) Cause.badTarget v
  edgeGate (cl / 64)
  match (upTo 8).find? fun k => (s.session cl k).isNone with
  | none => return BitVec.allOnes 64
  | some k =>
    let q := (s.clAt cl).cbuSeq
    upd fun s =>
      (s.setSession cl k (some ⟨q, bitsAt v 9 2, 0, false, [], []⟩)).updCl cl fun c => { c with cbuSeq := (q + 1) % 65536 }
    return Handle.word ⟨q, bitsAt v 9 2, cl, k⟩

/-- The body IDs of a post (R315): 0xFFFF_FFFF is none, a repeated ID counts once. -/
def postBodies (b10 b32 : Nat) : List Nat :=
  ([bitsAt b10 0 32, bitsAt b10 32 32, bitsAt b32 0 32, bitsAt b32 32 32].filter fun b => b != 0xFFFFFFFF).eraseDups

/-- CBPOST with the four registers of its quad (R327). A post that waited has entered, or its session was ended (R415): then the token is its handle. -/
def cbPost (q : List Word) : M Unit := do
  let c ← me
  match c.token with
  | some [] => pure ()
  | some (h :: _) => trap Cause.cbuState (cbuVal 1 h.toNat)
  | none =>
    let h ← readHandle (q.getD 3 0)
    releaseM h.scope 1023
    waitPoint
    let s ← get
    match s.handleSession h with
    | none => trap Cause.cbuState (cbuVal 1 (q.getD 3 0).toNat)
    | some v =>
      trapIf v.closed Cause.cbuState (cbuVal 2 (q.getD 3 0).toNat)
      let bodies := postBodies (q.getD 1 0).toNat (q.getD 2 0).toNat
      let payload := (q.getD 0 0).toNat % 2 ^ 32
      if (s.clAt h.cl).cbuPosts.isEmpty && s.cbuFits h.cl h.slot bodies then
        upd fun s => (s.cbuEnter h.cl h.slot bodies payload).serveCbu h.cl
      else
        upd fun s => s.updCl h.cl fun k =>
          { k with cbuPosts := k.cbuPosts ++ [⟨s.cur.key, c.uid, h.slot, h.seq, 0, bodies, payload⟩] }
        throw (.sleep .post)

/-- A take of at most `most` items for a destination: none is the drained result (R328). One that must wait marks its destination empty and sleeps. -/
def cbTakeItems (dst : Dst) (before : RegSt) (hw : Word) (most : Nat) : M (List (Word × Bool)) := do
  let h ← readHandle hw
  let s ← get
  match s.handleSession h with
  | none => return []
  | some v =>
    let es := v.ready.take most
    if v.takes.isEmpty && !es.isEmpty then
      upd fun s => s.setSession h.cl h.slot (some (v.take (es.map fun i => i.entry)))
      upd fun s => s.serveCbu h.cl
      acquireM h.scope 1023
      return es.map fun i => i.given h.slot
    else if s.drained h.cl h.slot v then return []
    else
      upd fun s => s.setSession h.cl h.slot
        (some { v with takes := v.takes ++ [⟨s.cur.key, s.me.uid, h.slot, h.seq, most, [], 0⟩] })
      throw (.sleep (.take dst before))

/-- The items of a take that waited: its acquire comes with them (R170, R328). -/
def takeAnswer (tok : List Word) : M (List (Word × Bool)) := do
  match tok with
  | [] => return []
  | sc :: l =>
    if !l.isEmpty then acquireM sc.toNat 1023
    return takenOf l

/-- Is the token of a taken item of the session, by entry and TSEQ? -/
def Session.tokenOk (v : Session) (tok : Nat) : Bool :=
  v.items.any fun i => i.taken && i.entry == bitsAt tok 0 11 && i.tseq == bitsAt tok 14 17

/-- The first token that fails, and why (R325, reasons 4 then 3; R330). -/
def badToken (v : Session) (slot : Nat) (toks : List Nat) : Option (Nat × Nat) :=
  match toks.find? fun t => bitsAt t 11 3 != slot with
  | some t => some (4, t)
  | none =>
    match toks.find? fun t => bitAt t 31 || !v.tokenOk t || decide (1 < (toks.filter fun u => u == t).length) with
    | some t => some (3, t)
    | none => none

/-- CBDONE of a list of tokens (R330): with none it ends at once and sends nothing. -/
def cbDone (toks : List Nat) (hw : Word) : M Unit := do
  if toks.isEmpty then pure ()
  else
    let h ← readHandle hw
    releaseM h.scope 1023
    waitPoint
    let s ← get
    match s.handleSession h with
    | none => trap Cause.cbuState (cbuVal 1 hw.toNat)
    | some v =>
      match badToken v h.slot toks with
      | some (why, t) => trap Cause.cbuState (cbuVal why t)
      | none =>
        let es := toks.map fun t => bitsAt t 0 11
        upd fun s =>
          (s.setSession h.cl h.slot (some { v with items := v.items.filter fun i => !es.contains i.entry })).serveCbu h.cl

/-- CBCLOSE (R331). -/
def cbClose (hw : Word) : M Unit := do
  let h ← readHandle hw
  let s ← get
  match s.handleSession h with
  | none => trap Cause.cbuState (cbuVal 1 hw.toNat)
  | some v => upd fun s => (s.setSession h.cl h.slot (some { v with closed := true })).serveCbu h.cl

end Sys2Proof.Machine
end

