-- ==== Sys2Proof/Machine/Erg.lean ====
section
/-! DEFINITION. Ergs: COMPOSE, DECOMP, ERGINFO and the cluster's erg arbiter (R332 to R347). -/
namespace Sys2Proof.Machine

/-- The thread holds its erg's members in trap context, or is an erg's home (R203, R344). -/
def Ctx.heldErg (x : Ctx) : Bool := x.ergSize != 0

/-- Does a core take part in an erg, as home or as member (R332)? -/
def State.inErg (s : State) (core : Nat) : Bool :=
  (upTo 4).any fun i => (upTo 8).any fun b =>
    let home := core / 4 * 4 + i
    let x := s.ctxAt ⟨home, b⟩
    x.ergSize != 0 && x.occ != .free && (ergMembers home x.ergSize).contains core

/-- Is a core a member, other than the home, of an erg: is its berth 7 lent to one (R332)? -/
def State.ergMember (s : State) (core : Nat) : Bool :=
  (upTo 4).any fun i => (upTo 8).any fun b =>
    let home := core / 4 * 4 + i
    let x := s.ctxAt ⟨home, b⟩
    home != core && x.ergSize != 0 && x.occ != .free && (ergMembers home x.ergSize).contains core

/-- The members other than the home core. -/
def ergOthers (home n : Nat) : List Nat := (ergMembers home n).filter (· != home)

/-- Are the members free of ergs, and each berth 7 of the others FREE (R334)? Reservations of other requests are the caller's to exclude. -/
def State.membersFree (s : State) (home n : Nat) : Bool :=
  (ergMembers home n).all (fun c => !s.inErg c) && (ergOthers home n).all fun c => (s.ctxAt ⟨c, 7⟩).occ == .free && !s.coreDead c

/-- A waiting COMPOSE as the arbiter keeps it: its context and its size (R335). -/
def composeEntry (c : CtxId) (n : Nat) : Nat := c.key * 8 + n

/-- Member cores that the oldest waiting COMPOSE of a cluster reserves (R334, R335). -/
def State.reservedCores (s : State) (cl : Nat) : List Nat :=
  match (s.clAt cl).ergQueue with
  | [] => []
  | e :: _ => ergMembers (CtxId.ofKey (e / 8)).core (e % 8)

/-- The oldest waiting COMPOSE reserves the berths that are there, also of a core that is in another erg: a reserved berth is not FREE (R334). -/
def State.reserveBerths (s : State) (home n : Nat) : State :=
  (ergOthers home n).foldl (fun (s : State) k =>
    if (s.ctxAt ⟨k, 7⟩).occ = .free then s.updCtx ⟨k, 7⟩ fun x => { x with occ := .lent } else s) s

/-- Has the oldest waiting COMPOSE everything: no member in an erg, every other berth 7 reserved? -/
def State.composeReady (s : State) (home n : Nat) : Bool :=
  (ergMembers home n).all (fun c => !s.inErg c) && (ergOthers home n).all fun c => (s.ctxAt ⟨c, 7⟩).occ == .lent

/-- The arbiter comes to its next waiting request: one that wants a core that lends no berth ends with 2, another begins to reserve (R334, R335). -/
def State.serveErg (s : State) (cl : Nat) : List Nat → State
  | [] => s.updCl cl fun k => { k with ergQueue := [] }
  | e :: r =>
    let c := CtxId.ofKey (e / 8)
    if (ergOthers c.core (e % 8)).any fun k => !(s.coreAt k).lend then
      (s.updCtx c fun x => { x with wait := none, token := some [2] }).serveErg cl r
    else (s.updCl cl fun k => { k with ergQueue := e :: r }).reserveBerths c.core (e % 8)

/-- A waiting COMPOSE whose thread is gone leaves the arbiter, and its reservations end. -/
def State.dropCompose (s : State) (c : CtxId) : State :=
  let cl := clusterOf c.core
  match (s.clAt cl).ergQueue with
  | [] => s
  | e :: r =>
    if e / 8 = c.key then
      let s := (ergOthers c.core (e % 8)).foldl (fun (s : State) k =>
        if s.ergMember k then s else s.updCtx ⟨k, 7⟩ fun x => if x.occ = .lent then { x with occ := .free } else x) s
      s.serveErg cl r
    else s.updCl cl fun k => { k with ergQueue := e :: r.filter fun v => v / 8 != c.key }

/-- Form the erg of a context: the home core's L1 cleaned, berths lent, STATUS.ERG set (R334, R341). -/
def State.formErg (s : State) (c : CtxId) (n : Nat) : State :=
  let s := s.cleanToNear c.core
  let s := (ergOthers c.core n).foldl (fun (s : State) k => s.updCtx ⟨k, 7⟩ fun x => { x with occ := .lent }) s
  s.updCtx c fun x => { x with ergBit := true, ergSize := n, ergHeld := false }

/-- The erg size that a COMPOSE asks for. -/
def ergSizeOf (four : Bool) : Nat := if four then 4 else 2

/-- Has a Ferry command of the thread not finished (R299)? -/
def State.ferryOpen (s : State) (core uid : Nat) : Bool :=
  ((s.coreAt core).fifo.any fun c => c.uid == uid) || (s.clAt (clusterOf core)).jobs.any fun j => j.cmd.uid == uid

/-- COMPOSE (R334, R335): a waiting one sleeps in the arbiter's queue until its turn comes and COMPOSE_FORM grants it; only then is it asked whether every member lends its berth. -/
def execCompose (nowait four : Bool) (d : Reg) (s : State) : Host.Outcome State Fault Refusal :=
  issue (do
    operands [] [.x d.toNat false]
    let c ← curId
    if let some l := (← me).token then
      writeX d (l.headD 0)
      advance
      return
    trapIf (isSvc c.core) Cause.badTarget 0
    notHandler
    let s ← get
    let x := s.me
    trapIf (x.pl == 0 && !(s.coreAt c.core).usrc) Cause.priv 0
    trapIf x.ergBit Cause.ergState 4
    trapIf x.vs.isSome Cause.ergState 1
    trapIf (x.lease != .none) Cause.ergState 2
    trapIf (s.ferryOpen c.core x.uid) Cause.ergState 3
    let n := ergSizeOf four
    let q := (s.clAt (clusterOf c.core)).ergQueue
    if (q.isEmpty || nowait) && (ergOthers c.core n).any fun k => !(s.coreAt k).lend then writeX d 2
    else if q.isEmpty && s.membersFree c.core n then
      upd fun s => s.formErg c n
      writeX d 0
    else if nowait then writeX d 1
    else
      upd fun s =>
        let s := s.updCl (clusterOf c.core) fun k => { k with ergQueue := k.ergQueue ++ [composeEntry c n] }
        if q.isEmpty then s.reserveBerths c.core n else s
      throw (.sleep .compose)
    advance) s

/-- DECOMP (R346): an erg hands back once its results have returned and its accesses are performed (R343). -/
def execDecomp (d : Reg) (s : State) : Host.Outcome State Fault Refusal :=
  issue (do
    operands [] [.x d.toNat false]
    let c ← curId
    let x ← me
    if x.composed then
      if (← get).ergWaits c then stall
      upd fun s => (s.handBack c).freeLent c.core x.ergSize
      updMe fun x => { x with ergBit := false, ergSize := 0, ergHeld := false }
      writeX d 0
    else if x.trapBit && x.ergBit then
      if x.heldErg then upd fun s => s.freeLent c.core x.ergSize
      updMe fun x => { x with ergBit := false, ergSize := 0, ergHeld := false,
                              tstatus := wd (setBit x.tstatus.toNat 2 false) }
      writeX d 0
    else writeX d 1
    advance) s

/-- The value of ERGINFO (R347). -/
def ergInfo (c : CtxId) (x : Ctx) : Nat :=
  let home := c.core % 4
  let berth := if c.isHandler then c.idx - 8 else c.idx
  let mask := if x.composed then (ergMembers c.core x.ergSize).foldl (fun m k => setBit m (k % 4) true) 0 else 2 ^ home
  berth * 2 ^ 10 + home * 2 ^ 8 + mask * 16 + (if x.composed then x.ergSize else 1)

/-- ERGINFO (R347). -/
def execErginfo (d : Reg) (s : State) : Host.Outcome State Fault Refusal :=
  issue (do
    operands [] [.x d.toNat false]
    let c ← curId
    writeX d (wd (ergInfo c (← me)))
    advance) s

end Sys2Proof.Machine
end

