-- ==== Sys2Proof/Machine/Results.lean ====
section
/-! DEFINITION. Long-latency results: a destination marked empty, a result on its way, its delivery and the ways in which it fails (R78, R80, R86, R367, R368, R392, R394, R430). -/
namespace Sys2Proof.Machine

/-- A new l0; the old one moves to l1 (R87). -/
def VState.pushEnt (v : VState) (e : QEnt) : VState := { v with l1 := v.l0, l0 := e, used := min 2 (v.used + 1) }

/-- A result that is there at once becomes l0. -/
def VState.pushL (v : VState) (r : VReg) : VState := v.pushEnt ⟨0, r, .full⟩

/-- Set the tag of a register, its bits unchanged (R82). Where S becomes 1, every scale reads 127 (R84). -/
def VState.tagV (v : VState) (n ty : Nat) (sc : Bool) : VState :=
  let r := v.getV n
  { v with v := KMap.ins v.v n { r with ty := ty, s := sc, sc := if sc && !r.s then [] else r.sc } }

/-- What a load or MRD leaves at issue: the tag of its register (R82), a queue entry (R86). `l0` and `l1` shift when the data has arrived (R265). -/
def VState.await (v : VState) (id : Nat) (dst : Dst) (r : VReg) : VState :=
  match dst with
  | .v n => v.tagV n r.ty r.s
  | .q n => { v with q := KMap.ins v.q n (v.queue n ++ [⟨id, r, .empty⟩]) }
  | _ => v

/-- Start a long-latency producer: its destination is empty, its result in flight (R78). -/
def produce (dst : Dst) (xs : List Word) (vr : VReg) (va pa : Nat) (fail : Option (Nat × Nat × Nat)) (origin : Origin)
    (ext : Nat × Bool) : M Nat := do
  let s ← get
  let x := s.me
  let p : Pend := ⟨s.nextPend, s.cur.key, x.uid, dst, xs, vr, va, fail, origin, ext, [], pa, s.fc⟩
  set { (s.updMe fun x => (x.markDst .empty dst).updV fun v => v.await s.nextPend dst vr) with pend := s.pend ++ [p], nextPend := s.nextPend + 1 }
  return p.id

/-- A scalar result: extended from `w` bits, with or without its sign (R223). -/
def extend (w : Nat) (signed : Bool) (v : Nat) : Word :=
  if signed then wd (ofSigned 64 (toSigned w v)) else wd (v % 2 ^ w)

/-- Values of a peer's answer: one word, or the four of a quad. -/
def Pend.answered (p : Pend) (v : Nat) : Pend :=
  match p.dst with
  | .quad _ => { p with xs := (upTo 4).map fun k => wd (v / 2 ^ (64 * k)) }
  | _ => { p with xs := [extend p.ext.1 p.ext.2 v] }

/-- Write a result that arrived to its destination. -/
def Ctx.writeResult (x : Ctx) (p : Pend) : Ctx :=
  match p.dst with
  | .none | .ask _ _ | .ferry _ _ => x
  | .x r => x.setX r (p.xs.headD 0)
  | .quad r => (upTo 4).foldl (fun x k => x.setX (r + k) (p.xs.getD k 0)) x
  | .v n => x.updV fun v => (v.setV n p.vr).pushL p.vr
  | .q n => x.updV fun v =>
    { v with q := KMap.ins v.q n ((v.queue n).map fun e => if e.id = p.id then { e with r := p.vr, st := .full } else e) }
  | .last => x.updV fun v => v.pushL p.vr

/-- The l0 that a failed result leaves: its contents are open (R4; log 5). -/
def Pend.freed (p : Pend) : VReg := { p.vr with bits := Config.freeBits p.id }

/-- Leave the destination failed with a cause, address and TRAPMASK; what did arrive of a vector is held apart (R367, R394). -/
def Ctx.failResult (x : Ctx) (p : Pend) (cause addr mask : Nat) : Ctx :=
  match p.dst with
  | .none | .ask _ _ | .ferry _ _ => x
  | .last => ({ x with reports := x.reports ++ [(⟨cause, addr⟩ : Report)] } : Ctx).updV fun v => v.pushL p.freed
  | .x r => x.markX r (.failed cause addr mask)
  | .quad r => (upTo 4).foldl (fun x k => x.markX (r + k) (.failed cause addr mask)) x
  | .v n => x.updV fun v =>
    { (v.markV n (.failed cause addr mask)).pushL p.freed with held := KMap.ins v.held n p.vr }
  | .q n => x.updV fun v =>
    { v with q := KMap.ins v.q n ((v.queue n).map fun e => if e.id = p.id then { e with st := .failed cause addr mask } else e) }

/-- The answer that a waiting instruction receives (R392, R430). -/
def Ctx.answerAsk (x : Ctx) (pkg : Nat) (op : PeerOp) (v : Reply) : Ctx :=
  { x with wait := none, asks := x.asks.map fun a => if a.pkg == pkg && a.op == op && a.ans.isNone then { a with ans := some v } else a }

/-- End a result in its thread, wherever that stands now, if it does. -/
def State.settle (s : State) (p : Pend) (f : Ctx → Ctx) : State :=
  let c := (s.ctxOf p.uid).getD (CtxId.ofKey p.ctxKey)
  let s := { s with pend := s.pend.filter fun q => q.id != p.id }
  let acked := !s.unperformed p.uid
  let f (x : Ctx) : Ctx := if acked && x.wait = some .ack then { f x with wait := none } else f x
  if (s.ctxAt c).uid = p.uid && (s.ctxAt c).occ ≠ .free then s.updCtx c f else s

/-- The result with number `id`. -/
def State.pendAt (s : State) (id : Nat) : Option Pend := s.pend.find? fun p => p.id == id

/-- The lowest lane of a lane mask. -/
def lowLane (lanes : Nat) : Nat := ((upTo 32).find? fun k => bitAt lanes k).getD 0

/-- A vector result with the given 8-byte lanes of one row zero, in rows of `per` lanes (R89, R394). -/
def VReg.dropLanes (r : VReg) (per row lanes : Nat) : VReg :=
  { r with bits := (upTo per).foldl (fun b k =>
      if bitAt lanes k then b - b / 2 ^ (64 * (per * row + k)) % 2 ^ 64 * 2 ^ (64 * (per * row + k)) else b) r.bits }

/-- The address of the lowest element in a failing lane (R368, R394). -/
def Pend.laneAddr (p : Pend) (per row lanes : Nat) : Nat :=
  ((p.elems.find? fun e => e.k * tyWidth p.vr.ty / 64 == per * row + lowLane lanes).map (·.va)).getD p.va

/-- TRAPMASK of a failing row and its lanes (R97). -/
def trapMask (row lanes : Nat) : Nat := row * 2 ^ 32 + lanes % 2 ^ 32

/-- TRAPMASK of failing elements of a type: the lowest row, and the lanes of the elements there (R368); of a result that has none, every lane of row 0. -/
def elemMask (ty per : Nat) (l : List Elem) : Nat :=
  let lane (e : Elem) : Nat := e.k * tyWidth ty / 64
  match l with
  | [] => trapMask 0 (2 ^ per - 1)
  | e :: _ =>
    let row := lane e / per
    trapMask row (l.foldl (fun m e => if lane e / per = row then setBit m (lane e % per) true else m) 0)

/-- A vector result with zero in every lane of some elements (R394). -/
def VReg.without (r : VReg) (l : List Elem) : VReg :=
  { r with bits := ((l.map fun e => e.k * tyWidth r.ty / 64).eraseDups).foldl (fun b k =>
      b - b / 2 ^ (64 * k) % 2 ^ 64 * 2 ^ (64 * k)) r.bits }

/-- Two failures of one vector result: the lowest row decides, its lanes join, and the lowest of them gives the cause (R368). -/
def joinFail (a : Option (Nat × Nat × Nat)) (b : Nat × Nat × Nat) : Nat × Nat × Nat :=
  match a with
  | none => b
  | some a =>
    let row (f : Nat × Nat × Nat) : Nat := f.2.2 / 2 ^ 32
    if row a < row b then a
    else if row b < row a then b
    else
      let first := if lowLane (a.2.2 % 2 ^ 32) ≤ lowLane (b.2.2 % 2 ^ 32) then a else b
      (first.1, first.2.1, trapMask (row a) (a.2.2 % 2 ^ 32 ||| b.2.2 % 2 ^ 32))

/-- Elements of a result fail: zero in their lanes, and the result with them fails when the rest is there (R394). -/
def Pend.loseElems (p : Pend) (per cause : Nat) (l : List Elem) : Pend :=
  let rest := p.elems.filter fun e => !l.contains e
  { p with vr := p.vr.without l, elems := rest, origin := ((rest.head?).map (·.src)).getD p.origin,
           fail := some (joinFail p.fail (cause, ((l.head?).map (·.va)).getD p.va, elemMask p.vr.ty per l)) }

/-! ### Ferry commands that wait for a peer's home (R173, R405 to R407) -/

/-- STATUS of a fault code (R405). -/
def ferryStatus (code : Nat) : Nat := if code = 0 then 1 else if 9 ≤ code && code ≤ 12 then 3 else 2

/-- The lowest faulting address decides, at equal addresses the lowest code (R405). -/
def worstOf (l : List (Nat × Nat)) : Option (Nat × Nat) :=
  l.foldl (fun acc e =>
    match acc with
    | none => some e
    | some a => if e.1 < a.1 || (e.1 == a.1 && decide (e.2 < a.2)) then some e else some a) none

/-- Record how a command ends. -/
def FerryJob.ends (j : FerryJob) (code addr : Nat) : FerryJob :=
  { j with fcode := code, faddr := if code = 0 then 0 else addr, status := ferryStatus code }

/-- A command has met errors, as address and code: the one that decides is how it ends (R405). -/
def FerryJob.err (j : FerryJob) (l : List (Nat × Nat)) : FerryJob :=
  let j := { j with errs := j.errs ++ l }
  match worstOf j.errs with
  | some (addr, code) => j.ends code addr
  | none => j

/-- Chunks of at most 64 bytes. -/
def chunks (n : Nat) : List Nat :=
  (upTo (n / 64)).map (fun _ => 64) ++ (if n % 64 = 0 then [] else [n % 64])

/-- Destination bytes of a command are performed: they count in BYTES and, in chunks, into its landing word (R166, R406). -/
def FerryJob.performed (j : FerryJob) (n : Nat) : FerryJob :=
  { j with bytes := j.bytes + n, pieces := j.pieces ++ (if j.land.isSome then chunks n else []) }

/-- A peer's home answers a write of a command: performed, or discarded there, or refused (R405, R430). -/
def State.ferryAnswered (s : State) (p : Pend) (id len : Nat) (bad : Option Nat) : State :=
  let f (j : FerryJob) : FerryJob :=
    let j := { j with waits := j.waits - 1 }
    match bad with
    | none => j.performed len
    | some c => if s.homeDead p.pa then j.err [(0, 12)] else if c = Cause.regEmpty then j.err [(p.va, 5)] else (j.performed len).err [(p.va, 10)]
  { s with pend := s.pend.filter (fun q => q.id != p.id),
           cl := s.cl.map fun e => (e.1, { e.2 with jobs := e.2.jobs.map fun j => if j.cmd.id = id then f j else j }) }

/-- A result fails as a whole: a waiting instruction learns it, a write is reported (R430), a register fails. -/
def State.failPend (s : State) (p : Pend) (cause : Nat) : State :=
  let core := (CtxId.ofKey p.ctxKey).core
  match p.dst with
  | .ask pkg op => s.settle p fun x => x.answerAsk pkg op (.bad cause)
  | .ferry id len => s.ferryAnswered p id len (some cause)
  | .none => (s.settle p fun x => x).report core p.uid cause p.va
  | .x _ | .quad _ => s.settle p fun x => x.failResult p cause p.va 0
  | _ =>
    let q := p.loseElems (s.coreAt core).vlanes cause p.elems
    match q.fail with
    | some f => s.settle p fun x => x.failResult q f.1 f.2.1 f.2.2
    | none => s

/-- What a lost agent was to return fails: the elements of a vector load that it had (R394, R400), any other result as a whole. -/
def State.failFrom (s : State) (gone : Origin → Bool) (cause : Nat) : State :=
  s.pend.foldl (fun (s : State) p =>
    let l := p.elems.filter fun e => gone e.src
    if p.elems.isEmpty then (if gone p.origin then s.failPend p cause else s)
    else if l.isEmpty then s
    else if l.length = p.elems.length then s.failPend p cause
    else
      let q := p.loseElems (s.coreAt (CtxId.ofKey p.ctxKey).core).vlanes cause l
      { s with pend := s.pend.map fun e => if e.id = p.id then q else e }) s

/-- A result is lost (R367, R400). -/
def State.loseResult (s : State) (p : Pend) : State := s.failPend p Cause.regEmpty

/-- The result comes from a peer module. -/
def Origin.isPeer : Origin → Bool
  | .peer _ => true
  | _ => false

/-- The result comes from a base die. -/
def Origin.isBase : Origin → Bool
  | .base _ => true
  | _ => false

/-- The result is that of an atomic whose home recalls the word first. -/
def Origin.isRecall : Origin → Bool
  | .recall _ => true
  | _ => false

/-- The die from which a result comes, where it is known to a core of the module. -/
def Origin.die : Origin → Option Nat
  | .fwd h => some h.die
  | .spm c => some (dieOf c)
  | .home d | .base d => some d
  | .here | .peer _ | .recall _ => none

/-- Is a result held behind a failed edge (R417): on its way from who returns it, or on the way of a recall to the holder? -/
def State.resultHeld (s : State) (p : Pend) : Bool :=
  let core := (CtxId.ofKey p.ctxKey).core
  let held (o : Origin) : Bool := o.die.any fun d => s.edgeHeld d (dieOf core)
  held p.origin || (p.elems.any fun e => held e.src) ||
    match p.origin with
    | .recall h => s.recallHeld p.pa 8 || s.edgeHeld (s.homeSlice p.pa / 64) h.die || s.edgeHeld (s.homeSlice p.pa / 64) (dieOf core)
    | _ => false

/-- A result returns (R78): it arrives and is written, its payload is lost on the way in some lanes of a row (R392, R422), it is lost with its agent (R367), or a peer module answers. An error in the storage of a home is a flaw of its word instead, met at issue (R395; log 37). -/
def State.deliver (s : State) (p : Pend) (r : ResultIn) : State :=
  match r with
  | .arrives =>
    if p.origin.isPeer || p.origin.isBase || p.origin.isRecall || s.resultHeld p then s
    else match p.fail with
      | some (cause, addr, mask) => s.settle p fun x => x.failResult p cause addr mask
      | none => s.settle p fun x => x.writeResult p
  | .uncorrectable row lanes =>
    if p.origin.isBase || p.origin.isRecall then s
    else if p.origin.isPeer then s.failPend p Cause.uncorrectable
    else match p.dst with
      | .v _ | .q _ =>
        let per := (s.coreAt (CtxId.ofKey p.ctxKey).core).vlanes
        let f := joinFail p.fail (Cause.uncorrectable, p.laneAddr per row lanes, trapMask row lanes)
        s.settle p fun x => x.failResult { p with vr := p.vr.dropLanes per row lanes } f.1 f.2.1 f.2.2
      | _ => s.settle p fun x => x.failResult p Cause.uncorrectable p.va 0
  | .lost => if p.origin = .here then s else s.loseResult p
  | .poisoned => if p.origin.isPeer then s.failPend p Cause.poison else s
  | .refused =>
    match p.dst with
    | .ask _ (.qacq _ _ _) | .ask _ (.qtry _ _) => s.failPend p Cause.protection
    | _ => s
  | .answer v =>
    if p.origin.isPeer then
      match p.dst with
      | .ask pkg op => s.settle p fun x => x.answerAsk pkg op (.value v)
      | .ferry id len => s.ferryAnswered p id len none
      | _ => s.settle p fun x => x.writeResult (p.answered v)
    else s

/-- Does a thread still await results (R30)? -/
def State.awaits (s : State) (c : CtxId) : Bool := s.pend.any fun p => p.uid == (s.ctxAt c).uid

end Sys2Proof.Machine
end

