-- ==== Sys2Proof/Machine/Ferry.lean ====
section
/-! DEFINITION. Ferry engines, landing words and record rings (R163 to R167, R295 to R304, R390, R391, R403 to R408). -/
namespace Sys2Proof.Machine

/-! ### Commands -/

/-- OP of a command (R295). -/
def FerryCmd.op (c : FerryCmd) : Nat := c.w0 % 256
/-- SCOPE. -/
def FerryCmd.scope (c : FerryCmd) : Nat := bitsAt c.w0 8 2
/-- COMPL. -/
def FerryCmd.compl (c : FerryCmd) : Nat := bitsAt c.w0 10 2
/-- TAG. -/
def FerryCmd.tag (c : FerryCmd) : Nat := bitsAt c.w0 16 16
/-- COUNT. -/
def FerryCmd.count (c : FerryCmd) : Nat := bitsAt c.w0 32 32
/-- The issuing context. -/
def FerryCmd.ctx (c : FerryCmd) : CtxId := CtxId.ofKey c.ctxKey
/-- The address space captured at issue (R296, R298); engines translate through the cluster's TLB. -/
def FerryCmd.space (c : FerryCmd) : Space := ⟨c.ptbase, c.asid, c.pl, c.ctx.core, false⟩
/-- Does the command count into a landing word? -/
def FerryCmd.lands (c : FerryCmd) : Bool := c.compl == 0 || c.compl == 2
/-- Does the command write a record? -/
def FerryCmd.rings (c : FerryCmd) : Bool := c.compl == 1 || c.compl == 2

/-- Word 0 of a command's record (R300). -/
def FerryJob.word0 (j : FerryJob) : Nat :=
  j.status + j.fcode * 2 ^ 8 + j.cmd.tag * 2 ^ 16 + j.cmd.tid % 2 ^ 13 * 2 ^ 32 + j.cmd.ctx.kind * 2 ^ 45

/-! ### Pages of a side -/

/-- A piece of a side within one page, translated; `none` is not accessed: zero, or `bad` where the index of its row could not be read. -/
structure Seg where
  x : Option Xl
  va : Nat
  len : Nat
  bad : Bool
  deriving DecidableEq, Repr

/-- How far the walk of a side has come: the segments before the first fault, their bytes, the fault as address and code, whether a write-blocked page, a page lent to a peer or a held way stops the side for now, and the pieces still to come. -/
structure Side where
  segs : List Seg
  good : Nat
  stop : Option (Nat × Nat)
  blocked : Bool
  rest : List Extent
  deriving DecidableEq, Repr

/-- Nothing more of the side can be reached now. -/
def Side.ended (r : Side) : Bool := r.rest.isEmpty || r.stop.isSome || r.blocked

/-- Cut a run of bytes at page boundaries. -/
def splitPages : Nat → Nat → Nat → List (Nat × Nat)
  | 0, _, _ => []
  | fuel + 1, va, len =>
    if len = 0 then []
    else
      let n := min len (65536 - va % 65536)
      (va, n) :: splitPages fuel ((va + n) % 2 ^ 64) (len - n)

/-- May an engine access the target; the code of a refusal (R129, R405)? `base` is 0 for a source, 1 for a destination. -/
def State.ferryTarget (s : State) (x : Xl) (len win base : Nat) : Option Nat :=
  let a := spmAddr x.pa
  if win ≠ 0 && !(paClass x.pa == 1 && a.window == win) then some (3 + base)
  else match paClass x.pa with
    | 7 => some (3 + base)
    | 1 =>
      if a.window = 0 then none
      else match s.window a.core a.window with
        | none => some (3 + base)
        | some w => if w.aligned a.off len then none else some 8
    | _ => none

/-- The bytes of a piece that exist: a window's image may end within a page (R127, R389). -/
def State.imageLen (s : State) (x : Xl) (len : Nat) : Nat :=
  if paClass x.pa = 1 then min len (s.windowImage (spmAddr x.pa).core (spmAddr x.pa).window - (spmAddr x.pa).off) else len

/-- A side from byte `n` of its stream on. -/
def dropBytes : List Extent → Nat → List Extent
  | [], _ => []
  | e :: r, n =>
    if n = 0 then e :: r
    else if e.len ≤ n then dropBytes r (n - e.len)
    else { e with va := e.va.map fun va => (va + n) % 2 ^ 64, len := e.len - n } :: r

/-- A side in pieces that each lie in one page. -/
def inPages (l : List Extent) : List Extent :=
  l.flatMap fun e => match e.va with
    | none => [e]
    | some va => (splitPages (e.len / 65536 + 2) va e.len).map fun p => ⟨some p.1, p.2, none⟩

/-- The engine reaches an accessed piece of a side and translates its page (R391, R405, R406). -/
def State.ferryPiece (s : State) (sp : Space) (store : Bool) (win : Nat) (r : Side) (va len : Nat) : Side × State :=
  let base := if store then 1 else 0
  let x := s.xlateUnit sp va (if store then .store else .load)
  -- a table entry out of reach: nothing of this walk has happened
  if x.2.lacks ≠ s.lacks then ({ r with blocked := true }, s.askRecalls x.2.lacks)
  else match x with
    | (.ok x, s) =>
      let n := s.imageLen x len
      if s.homeDead x.pa then ({ r with stop := some (0, 12) }, s)
      else if x.wb || s.heldBack sp.core x.pa n then
        ({ r with blocked := true }, if s.lentPage x.pa && paClass x.pa = 0 then s.askRecall (x.pa / 65536) else s)
      else match s.ferryTarget x n win base with
        | some code => ({ r with stop := some (va, code) }, s)
        | none =>
          ({ r with segs := r.segs ++ [⟨some x, va, n, false⟩], good := r.good + n,
                    stop := if n < len then some ((va + n) % 2 ^ 64, 5) else none }, s)
    | (.bad c _, s) =>
      ({ r with stop := some (va, if c = Cause.protection then 3 + base else 1 + base) }, s)
    | (.absent _ pa, s) => ({ r with stop := some (if s.homeDead pa then (0, 12) else (va, 5)) }, s)
    | (.need _ _, s) | (.far _, s) => ({ r with stop := some (va, 1 + base) }, s)

/-- The engine goes on by one piece of a side; bytes that are not accessed need no page, an unusable index ends the rows, and one with bad data leaves its row bad. -/
def State.ferryStep (s : State) (sp : Space) (store : Bool) (win : Nat) (r : Side) : Side × State :=
  match r.rest with
  | [] => (r, s)
  | e :: rest =>
    let r := { r with rest := rest }
    let skip (g : Seg) : Side := { r with segs := r.segs ++ [g], good := r.good + g.len }
    match e.why, e.va with
    | some (code, addr), none => (if code = 9 then skip ⟨none, addr, e.len, true⟩ else { r with stop := some (addr, code) }, s)
    | _, none => (skip ⟨none, 0, e.len, false⟩, s)
    | _, some va => s.ferryPiece sp store win r va e.len

/-- The engine reaches the pages of both sides as it comes to their bytes, the source first; a fault or a wait of either ends the walk (R296, R391, R406). -/
def State.ferryWalk (s : State) (sp : Space) (sw dw : Nat) : Nat → Side → Side → (Side × Side) × State
  | 0, a, b => ((a, b), s)
  | n + 1, a, b =>
    if a.good ≤ b.good && !a.ended then
      let (a, s) := s.ferryStep sp false sw a
      s.ferryWalk sp sw dw n a b
    else if b.good < a.good && !b.ended then
      let (b, s) := s.ferryStep sp true dw b
      s.ferryWalk sp sw dw n a b
    else ((a, b), s)

/-- The greatest count up to `n` that splits no presented element of a side's windows. -/
def State.wholeOf (s : State) : List Seg → Nat → Nat
  | [], n => n
  | g :: r, n =>
    if g.len ≤ n then g.len + s.wholeOf r (n - g.len)
    else match g.x with
      | some x =>
        let a := spmAddr x.pa
        match (if paClass x.pa ≠ 1 || a.window = 0 then none else s.window a.core a.window) with
        | some w => n / (tyWidth w.dfmt / 8) * (tyWidth w.dfmt / 8)
        | none => n
      | none => n

/-- The greatest count up to `n` that splits no presented element of either side (R296, R406). -/
def State.wholeBoth (s : State) (a b : List Seg) : Nat → Nat → Nat
  | 0, n => n
  | fuel + 1, n =>
    let m := s.wholeOf b (s.wholeOf a n)
    if m = n then n else s.wholeBoth a b fuel m

/-- The segments of the first `n` bytes. -/
def takeSegs : List Seg → Nat → List Seg
  | [], _ => []
  | g :: r, n => if n = 0 then [] else { g with len := min g.len n } :: takeSegs r (n - min g.len n)

/-! ### Data -/

/-- Bytes with bad data: offset in the stream, length, virtual address. -/
abbrev BadBytes := List (Nat × Nat × Nat)

/-- What is read of one source segment: bytes, those that are bad, other errors as address and code. -/
structure Got where
  v : Nat
  bad : BadBytes
  errs : List (Nat × Nat)
  s : State

/-- The part of a word that `n` bytes from `pa` cover: its first address and its length. -/
def wordPart (pa n w : Nat) : Nat × Nat := (max (8 * w) pa, min (8 * w + 8) (pa + n) - max (8 * w) pa)

/-- A line request of a unit to a host page is counted where the page asks for it (R146). -/
def State.hotUnit (s : State) (core : Nat) (x : Xl) (n : Nat) : State :=
  if x.hostc then
    { s with hotReqs := s.hotReqs ++ (upTo ((x.pa % 64 + n + 63) / 64)).map fun k =>
        ⟨clusterOf core, x.pa / 64 * 64 + 64 * k, x.va, x.asid⟩ }
  else s

/-- Words of one source segment as a unit reads them: a bad word leaves its bytes bad, an access that the home refuses ends with code 5 (R392, R405, R430). -/
def State.ferryWords (s : State) (core : Nat) (x : Xl) (va n off : Nat) : Got :=
  (wordsOf x.pa n).foldl (fun (g : Got) w =>
    let p := wordPart x.pa n w
    let o := p.1 - x.pa
    match g.s.unitBytes core p.1 p.2 with
    | (.error c, s) =>
      if c = Cause.uncorrectable then { g with bad := g.bad ++ [(off + o, p.2, va + o)], s := s }
      else { g with errs := g.errs ++ [(va + o, 3)], s := s }
    | (.ok (v, none), s) => { g with v := g.v + v * 256 ^ o, s := s }
    | (.ok (v, some c), s) =>
      if c = Cause.regEmpty then { g with errs := g.errs ++ [(va + o, 5)], s := s }
      else { g with v := g.v + v * 256 ^ o, bad := g.bad ++ [(off + o, p.2, va + o)], s := s }) ⟨0, [], [], s⟩

/-- Bytes of one source segment (R130, R163, R392, R430). -/
def State.ferryReadSeg (s : State) (core : Nat) (g : Seg) (off : Nat) : Got :=
  match g.x with
  | none => ⟨0, if g.bad then [(off, g.len, g.va)] else [], [], s⟩
  | some x =>
    let a := spmAddr x.pa
    match (if paClass x.pa ≠ 1 || a.window = 0 then none else s.window a.core a.window) with
    | some w =>
      let db := tyWidth w.dfmt / 8
      let n := g.len / db * db
      let bad := (upTo (n / db)).filterMap fun k =>
        if (s.windowBad a.core w (a.off + k * db) db).isSome then some (off + k * db, db, g.va + k * db) else none
      ⟨s.windowRead a.core w a.off n, bad, [], s.windowMet a.core w a.off n⟩
    | none => (if paClass x.pa = 3 then s.hotUnit core x g.len else s).ferryWords core x g.va g.len off

/-- All source bytes of a command. -/
def State.ferryRead (s : State) (core : Nat) (l : List Seg) : Got :=
  (l.foldl (fun acc g =>
    let r := acc.2.s.ferryReadSeg core g acc.1
    (acc.1 + g.len, ({ v := acc.2.v + r.v * 256 ^ acc.1, bad := acc.2.bad ++ r.bad, errs := acc.2.errs ++ r.errs, s := r.s } : Got)))
    ((0, ⟨0, [], [], s⟩) : Nat × Got)).2

/-- Mark the words poisoned that `n` bytes at a physical address touch (R395). -/
def State.poisonBytes (s : State) (pa n : Nat) : State := (wordsOf pa n).foldl (fun s w => s.setPoison w true) s

/-- Drop the unregistered copies that a cluster's near partition holds of written bytes: a join at CL drops L1 copies only, and R154 has it see the engine's writes (log 21). -/
def State.renewNear (s : State) (cl pa n : Nat) : State :=
  (wordsOf pa n).foldl (fun s w =>
    match s.near cl w with
    | some e => if e.cl.isNone && s.holder w != some (.near cl) then s.dropNear cl w else s
    | none => s) s

/-- Is the word that a byte of a source lands in bad: do bad bytes of the source fall into part `o` to `o + n - 1` of the stream? -/
def BadBytes.hits (bad : BadBytes) (o n : Nat) : Bool := bad.any fun b => decide (b.1 < o + n) && decide (o < b.1 + b.2.1)

/-- What writing a segment gives: errors as address and code, bytes performed, and writes on their way to a peer's home. -/
structure Put where
  errs : List (Nat × Nat)
  bytes : Nat
  sent : Nat
  s : State

/-- Write a part of a word at a peer's home for a command, with what this module holds of the word (R159, R173); a bad one goes as poison (R395). The home's answer counts its bytes. -/
def State.ferrySend (s : State) (c : FerryCmd) (w pa len va v : Nat) (hurt : Bool) : State :=
  let word := v % 256 ^ len * 256 ^ (pa - 8 * w)
  let mask := (upTo 8).foldl (fun m k => setBit m k (decide (pa ≤ 8 * w + k) && decide (8 * w + k < pa + len))) 0
  let (word, mask, bad) := match s.heldData w with
    | some h => (mergeBytes h.data.toNat word mask, 255, hurt || h.poison || s.poisoned w)
    | none => (word, mask, hurt)
  let p : Pend := ⟨s.nextPend, c.ctxKey, 0, .ferry c.id len, [], VReg.zero, va, none, .peer (8 * w / 2 ^ 39 % 1024), (64, false), [], pa, s.fc⟩
  ({ s with pend := s.pend ++ [p] } : State).peerSend w word mask bad

/-- Words of one destination segment as an engine writes them: what received bad data is poisoned, at a peer's home too (R395, R406). -/
def State.ferryPutWords (s : State) (c : FerryCmd) (g : Seg) (x : Xl) (off v : Nat) (bad : BadBytes) : Put :=
  (wordsOf x.pa g.len).foldl (fun (acc : Put) w =>
    let p := wordPart x.pa g.len w
    let o := p.1 - x.pa
    let hurt := BadBytes.hits bad (off + o) p.2
    if paClass x.pa = 2 then
      { acc with sent := acc.sent + 1, s := acc.s.ferrySend c w p.1 p.2 (g.va + o) (v / 256 ^ o) hurt }
    else
      let (r, s) := acc.s.unitPut c.ctx.core p.1 p.2 (v / 256 ^ o)
      { acc with errs := acc.errs ++ (r.map fun _ => (g.va + o, 10)).toList, bytes := acc.bytes + p.2,
                 s := if hurt then s.setPoison w true else s }) ⟨[], 0, 0, s⟩

/-- The first element of a window access whose stored bytes lie in a word (R396, R405). -/
def Window.elemAt (w : Window) (core off n word : Nat) : Nat :=
  let db := tyWidth w.dfmt / 8
  ((upTo (n / db)).find? fun k => (w.touched (off + k * db) db).any fun t => (wordsOf (spmPa core t.1) t.2).contains word).getD 0

/-- Write one destination segment. -/
def State.ferryPut (s : State) (c : FerryCmd) (g : Seg) (off v : Nat) (bad : BadBytes) : Put :=
  match g.x with
  | none => ⟨[], 0, 0, s⟩
  | some x =>
    let a := spmAddr x.pa
    match (if paClass x.pa ≠ 1 || a.window = 0 then none else s.window a.core a.window) with
    | some w =>
      let db := tyWidth w.dfmt / 8
      let mode := match rmOfCode w.rm 0 with
        | .sr => RMode.rne
        | m => m
      let (r, s, _, _) := s.windowWrite a.core w a.off g.len v ⟨mode, true, 1⟩
      let s := (upTo (g.len / db)).foldl (fun s k =>
        if BadBytes.hits bad (off + k * db) db then
          (w.touched (a.off + k * db) db).foldl (fun s t => s.poisonBytes (spmPa a.core t.1) t.2) s
        else s) s
      ⟨(r.map fun f => (g.va + db * w.elemAt a.core a.off g.len (f.1 / 8), 10)).toList, g.len, 0, s⟩
    | none =>
      if paClass x.pa = 3 && s.cxlDown then ⟨[(g.va, 10)], g.len, 0, s⟩
      else (if paClass x.pa = 3 then s.hotUnit c.ctx.core x g.len else s).ferryPutWords c g x off v bad

/-- Write one destination segment; the engine's cluster keeps no old copy of it. -/
def State.ferryWriteSeg (s : State) (c : FerryCmd) (g : Seg) (off v : Nat) (bad : BadBytes) : Put :=
  let r := s.ferryPut c g off v bad
  match g.x with
  | none => r
  | some x => { r with s := r.s.renewNear (clusterOf c.ctx.core) x.pa g.len }

/-- Write destination bytes of a command. -/
def State.ferryWrite (s : State) (c : FerryCmd) (l : List Seg) (v : Nat) (bad : BadBytes) : Put :=
  (l.foldl (fun acc g =>
    let r := acc.2.s.ferryWriteSeg c g acc.1 (v / 256 ^ acc.1 % 256 ^ g.len) bad
    (acc.1 + g.len, ({ errs := acc.2.errs ++ r.errs, bytes := acc.2.bytes + r.bytes, sent := acc.2.sent + r.sent, s := r.s } : Put)))
    ((0, ⟨[], 0, 0, s⟩) : Nat × Put)).2

/-- The bytes of a fill: byte (a mod 8) of the pattern at each address (R296). -/
def fillBytes (pat va n : Nat) : Nat :=
  (upTo n).foldl (fun acc k => acc + pat / 256 ^ ((va + k) % 8) % 256 * 256 ^ k) 0

/-! ### Running a command -/

/-- Words read at a virtual address, each within one page. -/
def State.readWords (s : State) (sp : Space) (va : Nat) (n : Nat) : Except Nat (List Nat) × State :=
  (upTo n).foldl (fun acc k =>
    match acc.1 with
    | .error c => (.error c, acc.2)
    | .ok l =>
      match acc.2.readVirt sp ((va + 8 * k) % 2 ^ 64) 8 with
      | (.ok v, s) => (.ok (l ++ [v]), s)
      | (.error c, s) => (.error c, s)) (.ok [], s)

/-- Is the home of a virtual address declared dead (R405, code 0x0C)? -/
def State.deadAt (s : State) (sp : Space) (va : Nat) : Bool :=
  match (s.xlateUnit sp va .load).1 with
  | .ok x => s.homeDead x.pa
  | .absent _ pa => s.homeDead pa
  | _ => false

/-- How a command ends whose record at an address cannot be used: with a code, or 0x0C where its home is dead (R405). -/
def State.recordFault (s : State) (sp : Space) (va code : Nat) : Nat × Nat := if s.deadAt sp va then (12, 0) else (code, va)

/-- Does an address translate, for a load, to window 0 of a scratchpad? -/
def State.inSpm0 (s : State) (sp : Space) (va : Nat) : Bool :=
  match (s.xlateUnit sp va .load).1 with
  | .ok x => paClass x.pa == 1 && (spmAddr x.pa).window == 0
  | _ => false

/-- A side of a shaped command as byte runs (R296); 4-bit elements go in whole bytes, since a record that splits a byte is refused. -/
def Shape.extents (h : Shape) : List Extent :=
  let l := h.walk (h.box.getD 0 1)
  if h.lsz = 255 then
    (upTo (l.length / 2)).map fun k =>
      match l[2 * k]? with
      | some e => ⟨if e.inr then some e.addr else none, 1, none⟩
      | none => ⟨none, 1, none⟩
  else l.map fun e => ⟨if e.inr then some e.addr else none, 2 ^ h.lsz, none⟩

/-- A shape record of a command (R270, R296): in scratchpad memory, well formed, splitting no byte. -/
def State.ferryShape (s : State) (sp : Space) (va : Nat) : Option Shape × State :=
  if !s.inSpm0 sp va then (none, s)
  else match s.readWords sp va 18 with
    | (.error _, s) => (none, s)
    | (.ok l, s) =>
      let h := Shape.of fun k => l.getD k 0
      if (h.bad false true 0).isSome || h.splits then (none, s) else (some h, s)

/-- The row of a gather whose index cannot be read: the code of the fault at the index (R405). DESIGN CHOICE (log 42): an index with bad data leaves the data of its row bad, and the rows after it go on. -/
def indexCode (c : Nat) : Nat :=
  if c = Cause.poison || c = Cause.uncorrectable then 9 else if c = Cause.protection then 3 else 1

/-- The source rows of a gather in row order; an index that faults ends them (R296, R406). -/
def State.gatherRows (s : State) (sp : Space) (src : Nat) (stride : Int) (idxa rowb : Nat) : Nat → Nat → List Extent × State
  | 0, _ => ([], s)
  | n + 1, r =>
    let at' := (idxa + 4 * r) % 2 ^ 64
    if s.deadAt sp at' then ([⟨none, rowb, some (12, 0)⟩], s)
    else match s.readVirt sp at' 4 with
    | (.ok i, s) =>
      let (l, s) := s.gatherRows sp src stride idxa rowb n (r + 1)
      (⟨some (ofSigned 64 (src + i * stride)), rowb, none⟩ :: l, s)
    | (.error e, s) =>
      if indexCode e = 9 then
        let (l, s) := s.gatherRows sp src stride idxa rowb n (r + 1)
        (⟨none, rowb, some (9, at')⟩ :: l, s)
      else ([⟨none, rowb, some (indexCode e, at')⟩], s)

/-- The two sides of a command, read when it is taken (R296): a fault as code and address where a record is bad. A command that moves nothing reads no page of a side. -/
def State.ferrySides (s : State) (c : FerryCmd) : Except (Nat × Nat) (List Extent × List Extent × Nat × Nat) × State :=
  if c.op ≠ 2 && c.count = 0 then (.ok ([], [], 0, 0), s)
  else match c.op with
  | 1 => (.ok ([⟨some c.w1, c.count, none⟩], [⟨some c.w2, c.count, none⟩], 0, 0), s)
  | 3 => (.ok ([⟨none, c.count, none⟩], [⟨some c.w2, c.count, none⟩], 0, 0), s)
  | 4 =>
    match s.readWords c.space c.w1 4 with
    | (.error _, s') => (.error (s.recordFault c.space c.w1 6), s')
    | (.ok l, s) =>
      let idxa := l.getD 2 0
      let nrow := bitsAt (l.getD 3 0) 32 32
      let rowb := bitsAt (l.getD 3 0) 0 32
      if idxa % 4 ≠ 0 || nrow * rowb ≠ c.count then (.error (6, c.w1), s)
      else
        let (rows, s) := s.gatherRows c.space (l.getD 0 0) (toSigned 64 (l.getD 1 0)) idxa rowb nrow 0
        (.ok (rows, [⟨some c.w2, c.count, none⟩], 0, 0), s)
  | _ =>
    match s.ferryShape c.space c.w1 with
    | (none, s') => (.error (s.recordFault c.space c.w1 6), s')
    | (some a, s) =>
      match s.ferryShape c.space c.w2 with
      | (none, s') => (.error (s.recordFault c.space c.w2 6), s')
      | (some b, s) =>
        if a.lsz ≠ b.lsz || a.count ≠ b.count then (.error (6, c.w1), s)
        else if b.extents.all fun e => e.va.isNone then (.ok ([], [], 0, 0), s)
        else (.ok (a.extents, b.extents, a.win, b.win), s)

/-- The landing word of a command, with its virtual address: found at issue, or named by the ring header (R297): code 7 where it is none, 0x0C where a home that it needs is dead. -/
def State.ferryLand (s : State) (c : FerryCmd) : Except (Nat × Nat) (Option Nat × Nat) × State :=
  if c.compl = 0 then (.ok (c.land, c.w3), s)
  else if c.compl ≠ 2 then (.ok (none, 0), s)
  else match s.readVirt c.space (c.w3 + 32) 8 with
    | (.error _, s') => (.error (s.recordFault c.space (c.w3 + 32) 7), s')
    | (.ok land, s) =>
      match s.xlateUnit c.space land .store with
      | (.ok x, s) =>
        if land % 16 = 0 && paClass x.pa = 1 && (spmAddr x.pa).window = 0 then (.ok (some x.pa, land), s)
        else (.error (7, land), s)
      | (_, s') => (.error (s.recordFault c.space land 7), s')

/-- Perform what a command can reach now, from where it stands (R296, R391, R406): the bytes that come before a fault or a wait on either side, in whole presented elements of its windows. DESIGN CHOICE (log 42): all of them in one step, in the order in which engines take commands; R164 orders them with nothing. -/
def State.ferryMove (s : State) (j : FerryJob) : FerryJob × State :=
  let c := j.cmd
  let src := inPages (dropBytes j.src j.pos)
  let dst := inPages (dropBytes j.dst j.pos)
  let ((a, b), s) := s.ferryWalk c.space j.swin j.dwin (src.length + dst.length + 1) ⟨[], 0, none, false, src⟩ ⟨[], 0, none, false, dst⟩
  let n := s.wholeBoth a.segs b.segs (min a.good b.good) (min a.good b.good)
  let got := s.ferryRead c.ctx.core (takeSegs a.segs n)
  let v := if c.op = 3 then fillBytes c.w1 (c.w2 + j.pos) n else got.v
  let r := got.s.ferryWrite c (takeSegs b.segs n) v got.bad
  let stops := (if a.good ≤ b.good then a.stop.toList else []) ++ (if b.good ≤ a.good then b.stop.toList else [])
  let wait := stops.isEmpty && ((a.blocked && decide (a.good ≤ b.good)) || (b.blocked && decide (b.good ≤ a.good)))
  let j := { j with pos := j.pos + n, moved := !wait, blocked := wait, waits := j.waits + r.sent }
  ((j.performed r.bytes).err (stops ++ got.errs ++ got.bad.map (fun b => (b.2.2, 9)) ++ r.errs), r.s)

/-- The command as an engine holds it right after taking it. -/
def FerryCmd.job (c : FerryCmd) : FerryJob := ⟨c, [], [], 0, 0, 0, [], 0, false, false, [], 0, 1, 0, 0, none, 0, false⟩

/-- Read the records of a taken command and run it. -/
def State.ferryStart (s : State) (c : FerryCmd) : FerryJob × State :=
  match s.ferryLand c with
  | (.error (code, addr), s) => (({ c.job with moved := true }).err [(addr, code)], s)
  | (.ok (land, va), s) =>
    match s.ferrySides c with
    | (.error (code, addr), s) => (({ c.job with moved := true, land := land, landVa := va }).err [(addr, code)], s)
    | (.ok (src, dst, sw, dw), s) =>
      s.ferryMove { c.job with src := src, dst := dst, swin := sw, dwin := dw, land := land, landVa := va }

/-- Commands of a core that are taken and not finished (R299). -/
def Cluster.taken (c : Cluster) (core : Nat) : Nat := (c.jobs.filter fun j => j.cmd.ctx.core == core).length

/-- The core whose FIFO head an engine takes next, in rotation (R299). -/
def State.ferryNext (s : State) (cl : Nat) : Option Nat :=
  let k := s.clAt cl
  ((upTo 4).map fun i => 4 * cl + (k.ferryRot + 1 + i) % 4).find? fun core =>
    !(s.coreAt core).fifo.isEmpty && decide (k.taken core < 32)

/-- The FIFO of a core has room again: a FERRY that waits for it goes on (R298). -/
def State.wakeFifo (s : State) (core : Nat) : State :=
  match (upTo 10).findSome? fun k => match (s.ctxAt ⟨core, k⟩).wait with
    | some (.fifo land) => some (k, land)
    | _ => none with
  | some (k, land) => s.updCtx ⟨core, k⟩ fun x => { x with wait := none, token := some (land.toList.map wd) }
  | none => s

/-- An engine takes a command and runs it (R299). A service core's commands go to the engines of its own key. -/
def State.ferryTakeAt (s : State) (cl : Nat) : State :=
  let next := if cl < 256 then s.ferryNext cl
    else if !(s.coreAt (768 + cl)).fifo.isEmpty && decide ((s.clAt cl).taken (768 + cl) < 32) then some (768 + cl) else none
  match next with
  | none => s
  | some core =>
    match (s.coreAt core).fifo with
    | [] => s
    | c :: rest =>
      let s := (s.updCore core fun k => { k with fifo := rest }).wakeFifo core
      let s := s.updCl cl fun k => { k with ferryRot := core % 4 }
      let (j, s) := s.ferryStart c
      s.updCl cl fun k => { k with jobs := k.jobs ++ [j] }

/-- The `n`-th command that a cluster's engines hold. -/
def State.jobAt (s : State) (cl n : Nat) : Option FerryJob := (s.clAt cl).jobs[n]?

/-- Replace it. -/
def State.setJob (s : State) (cl n : Nat) (j : FerryJob) : State :=
  s.updCl cl fun k => { k with jobs := k.jobs.set n j }

/-- A command waiting at a write-blocked page, or for the way to a home, walks again (R391). -/
def State.ferryRewalk (s : State) (cl n : Nat) : State :=
  match s.jobAt cl n with
  | none => s
  | some j =>
    if j.blocked then
      let (j, s) := s.ferryMove j
      s.setJob cl n j
    else s

/-! ### Landing words (R166, R303, R304, R403, R404) -/

/-- A landing word: TARGET, COUNT, GEN, WAITERS. -/
structure Landing where
  target : Nat
  count : Nat
  gen : Nat
  waiters : Nat
  deriving DecidableEq, Repr

/-- Read a landing word at its port. -/
def State.landing (s : State) (pa : Nat) : Landing :=
  ⟨s.homeBytes pa 4, s.homeBytes (pa + 4) 4, s.homeBytes (pa + 8) 2, s.homeBytes (pa + 10) 2⟩

/-- Write a landing word, leaving bits [127:96] alone. -/
def State.setLanding (s : State) (pa : Nat) (l : Landing) : State :=
  let s := (s.homePut pa 8 (l.target % 2 ^ 32 + l.count % 2 ^ 32 * 2 ^ 32)).2
  (s.homePut (pa + 8) 4 (l.gen % 2 ^ 16 + l.waiters % 2 ^ 16 * 2 ^ 16)).2

/-- What the port knows of a landing word (R404). -/
def State.landBits (s : State) (pa : Nat) : Nat := KMap.find 0 s.landLost (pa / 16)

/-- Is the landing word poisoned, as a whole: one of its words is bad, or was bad and SCRUB and LWINIT have not restored it (R404)? -/
def State.landPoison (s : State) (pa : Nat) : Bool := bitAt (s.landBits pa) 2 || (s.poisonIn pa 16).isSome

/-- May LWINIT initialise the landing word: no word of it is bad, none still needs SCRUB (R404)? -/
def State.landReady (s : State) (pa : Nat) : Bool := s.landBits pa % 4 = 0 && (s.poisonIn pa 16).isNone

/-- The cause with which an access to a bad landing word fails (R392). -/
def State.landCause (s : State) (pa : Nat) : Nat := s.badCause pa 16

/-- Contexts that sleep in an LWWAIT on a word, for a generation that fits. -/
def State.landSleepers (s : State) (pa : Nat) (p : Nat → Bool) : List Nat :=
  s.ctx.filterMap fun e =>
    match e.2.wait with
    | some (.landing a g) => if a = pa && p g then some e.1 else none
    | _ => none

/-- An access met a bad landing word: it is lost as a whole, until SCRUB of both words and LWINIT; LWWAITs that sleep on it try again, and trap (R404). -/
def State.landMet (s : State) (pa : Nat) : State :=
  if s.landPoison pa then
    let s := (s.landSleepers pa fun _ => true).foldl (fun (s : State) k => s.updCtx (CtxId.ofKey k) fun x => { x with wait := none })
      (s.metBytes pa 16)
    if bitAt (s.landBits pa) 2 then s else { s with landLost := KMap.put 0 s.landLost (pa / 16) 15 }
  else s

/-- LWINIT initialises a landing word, and restores one that was lost (R404). -/
def State.landRestore (s : State) (pa : Nat) : State := { s with landLost := KMap.put 0 s.landLost (pa / 16) 8 }

/-- Has GEN reached g (R304, R403)? -/
def landed (gen g : Nat) : Bool := decide ((gen + 2 ^ 16 - g % 2 ^ 16) % 2 ^ 16 < 2 ^ 15)

/-- Does the loop of R166 have a step to run? -/
def Landing.due (l : Landing) : Bool := l.target != 0 && decide (l.target ≤ l.count)

/-- Contexts that sleep in an LWWAIT on a word and whose generation has come. -/
def State.landWaiters (s : State) (pa gen : Nat) : List Nat := s.landSleepers pa (landed gen)

/-- One step of the loop: the generation advances, and waiters that it satisfies wake (R166, R304). -/
def State.landAdvance (s : State) (pa : Nat) : State :=
  let l := s.landing pa
  let gen := (l.gen + 1) % 2 ^ 16
  let woken := s.landWaiters pa gen
  let s := s.setLanding pa { l with count := l.count - l.target, gen := gen, waiters := l.waiters - woken.length }
  woken.foldl (fun s k => s.updCtx (CtxId.ofKey k) fun x => { x with wait := none, token := some [] }) s

/-- One access of a command's counting at the port: a step of the loop where one is due, else the next chunk (R166). Counts into a poisoned word are dropped (R404). -/
def State.landCount (s : State) (cl n : Nat) : State :=
  match s.jobAt cl n with
  | none => s
  | some j =>
    match j.land with
    | none => s
    | some pa =>
      if s.homeDead pa then (if j.pieces.isEmpty then s else s.setJob cl n ({ j with pieces := [] }.err [(0, 12)]))
      else if s.landPoison pa then
        (if j.pieces.isEmpty then s else (s.landMet pa).setJob cl n ({ j with pieces := [] }.err [(j.landVa, 11)]))
      else if (s.landing pa).due then s.landAdvance pa
      else match j.pieces with
        | [] => s
        | p :: r =>
          let l := s.landing pa
          let s := s.setLanding pa { l with count := l.count + p }
          s.setJob cl n { j with pieces := r }

/-- Has every byte of the command been performed and counted? -/
def State.jobCounted (s : State) (j : FerryJob) : Bool :=
  j.moved && j.waits == 0 && j.pieces.isEmpty &&
    match j.land with
    | some pa => s.homeDead pa || s.landPoison pa || !(s.landing pa).due
    | none => true

/-! ### Rings (R297, R300) -/

/-- May a ring header or record lie there: an UNCACHED or SYNC page, or SPM window 0? -/
def ringPlace (x : Xl) : Bool :=
  if paClass x.pa = 1 then (spmAddr x.pa).window == 0
  else paClass x.pa != 7 && (x.mode == 2 || x.mode == 3)

/-- Translate a ring address for a store: a write-blocked page, or a held way, holds the step back (R145); where the address is refused, none. -/
def State.ringXl (s : State) (sp : Space) (va align : Nat) : Except Bool Xl × State :=
  match s.xlateUnit sp va .store with
  | (.ok x, s) =>
    (if !ringPlace x || va % align ≠ 0 then .error false
      else if x.wb || s.wayHeld sp.core x.pa align then .error true else .ok x, s)
  | (_, s) => (.error false, s)

/-- Words of a ring header at its home; none where one cannot be read. -/
def State.ringWords (s : State) (core pa : Nat) : List Nat → Option (List Nat) × State
  | [] => (some [], s)
  | o :: r =>
    match s.unitBytes core (pa + o) 8 with
    | (.ok (v, none), s) =>
      match s.ringWords core pa r with
      | (some l, s) => (some (v :: l), s)
      | (none, s) => (none, s)
    | (_, s) => (none, s)

/-- Write a command's record when its ring has room (R300); a ring that no longer translates ends it with code 0x0D, one whose home is dead with 0x0C, which nothing replaces (R405, R408). DESIGN CHOICE (log 42): a header that cannot be read ends it with 0x0D. -/
def State.ringRecord (s : State) (cl n : Nat) : State :=
  match s.jobAt cl n with
  | none => s
  | some j =>
    if !s.jobCounted j || j.recorded || !j.cmd.rings then s
    else
      let sp := j.cmd.space
      let fail (s : State) (addr : Nat) : State :=
        let k := if s.deadAt sp addr then j.err [(0, 12)] else if j.fcode = 12 then j else j.ends 13 addr
        s.setJob cl n { k with recorded := true }
      match s.ringXl sp j.cmd.w3 64 with
      | (.error wait, s) => if wait then s else fail s j.cmd.w3
      | (.ok h, s) =>
        match s.ringWords sp.core h.pa [0, 8, 16, 24] with
        | (some [base, lg, prod, cons], s) =>
          let size := 2 ^ (lg % 32)
          let slot := (base + 32 * (prod % size)) % 2 ^ 64
          match s.ringXl sp slot 32 with
          | (.error wait, s) => if wait then s else fail s slot
          | (.ok x, s) =>
            if s.homeDead h.pa || s.homeDead x.pa then fail s (if s.homeDead h.pa then j.cmd.w3 else slot)
            else if size ≤ (prod + 2 ^ 64 - cons) % 2 ^ 64 then s
            else
              let put (s : State) (pa v : Nat) : State := (s.unitPut sp.core pa 8 v).2
              let s := put (put (put (put s x.pa j.word0) (x.pa + 8) j.bytes) (x.pa + 16) j.faddr) (x.pa + 24) prod
              let s := put s (h.pa + 16) ((prod + 1) % 2 ^ 64)
              s.setJob cl n { j with recorded := true }
        | (_, s) => fail s j.cmd.w3

/-! ### Finishing (R299, R302, R407) -/

/-- Set FBAD of a thread, wherever it stands: in a context, or saved, then in the save slot at home too (R302). -/
def State.setFbad (s : State) (core uid : Nat) : State :=
  let s := (upTo 10).foldl (fun s k =>
    let c : CtxId := ⟨core, k⟩
    if (s.ctxAt c).uid = uid && (s.ctxAt c).occ ≠ .free then s.updCtx c fun x => { x with fbad := true } else s) s
  match (s.coreAt core).saved.find? fun v => v.ctx.uid == uid with
  | none => s
  | some v =>
    let pa := (s.coreAt core).saveBase + v.slot * 0x60000
    let s := match s.unitBytes core (s.ownPa pa) 8 with
      | (.ok (w, none), s) => (s.unitPut core (s.ownPa pa) 8 (setBit w 20 true)).2
      | (_, s) => s
    s.updCore core fun k => { k with saved := k.saved.map fun v =>
      if v.ctx.uid = uid then { v with ctx := { v.ctx with fbad := true } } else v }

/-- One command less to wait for before the instance completes (R71). -/
def State.ferryDone (s : State) (inst : Option Nat) : State :=
  match inst with
  | none => s
  | some i =>
    { s with insts := s.insts.map fun e => if e.1 = i then (e.1, { e.2 with ferries := e.2.ferries - 1 }) else e }

/-- Are commands of a thread with a tag unfinished (R302)? -/
def State.unjoined (s : State) (core uid tag : Nat) : Bool :=
  ((s.coreAt core).fifo.any fun c => c.uid == uid && c.tag == tag) ||
    (s.clAt (clusterOf core)).jobs.any fun j => j.cmd.uid == uid && j.cmd.tag == tag

/-- An FJOIN of a thread goes on once every command of its tag has finished (R302). -/
def State.wakeJoin (s : State) (core uid tag : Nat) : State :=
  if s.unjoined core uid tag then s
  else match s.ctxOf uid with
    | some c => s.updCtx c fun x => if x.wait = some (.join tag) then { x with wait := none } else x
    | none => s

/-- A command finishes (R299, R407). -/
def State.ferryFinishAt (s : State) (cl n : Nat) : State :=
  match s.jobAt cl n with
  | none => s
  | some j =>
    if !s.jobCounted j || (j.cmd.rings && !j.recorded) then s
    else
      let core := j.cmd.ctx.core
      let s := s.updCl cl fun k => { k with jobs := k.jobs.eraseIdx n }
      let s := s.wakeJoin core j.cmd.uid j.cmd.tag
      let s := if j.status = 1 then s else s.setFbad core j.cmd.uid
      let s := if (j.status ≠ 1 && !j.cmd.rings) || j.fcode = 13 then
          s.logFault core ⟨4, j.fcode, 0, none, 0, j.faddr, j.word0⟩
        else s
      s.ferryDone j.cmd.inst

end Sys2Proof.Machine
end

