-- ==== Sys2Proof/Machine/Locks.lean ====
section
/-! DEFINITION. Queue locks, versioned locks and group records at their home (R32, R33, R228 to R231, R414). -/
namespace Sys2Proof.Machine

/-- The identity of a context (R20): kind, package, thread ID. -/
def identOf (kind pkg tid : Nat) : Nat := kind * 2 ^ 23 + pkg * 2 ^ 13 + tid

/-- Fields of a queue lock word (R228). -/
structure LockWord where
  held : Bool
  tail : Nat
  owner : Nat
  deriving DecidableEq, Repr

/-- Read a lock word: the identities join their kind and their package and thread IDs. -/
def lockOf (w : Nat) : LockWord :=
  ⟨bitAt w 63, bitsAt w 48 2 * 2 ^ 23 + bitsAt w 23 23, bitsAt w 46 2 * 2 ^ 23 + bitsAt w 0 23⟩

/-- The word of a held lock. -/
def lockWord (tail owner : Nat) : Nat :=
  2 ^ 63 + tail / 2 ^ 23 * 2 ^ 48 + owner / 2 ^ 23 * 2 ^ 46 + tail % 2 ^ 23 * 2 ^ 23 + owner % 2 ^ 23

/-- The waiters of a lock. -/
def State.lockQueue (s : State) (pa : Nat) : List Waiter := KMap.find [] s.locks pa

/-- Replace the waiters of a lock. -/
def State.setLockQueue (s : State) (pa : Nat) (l : List Waiter) : State := { s with locks := KMap.put [] s.locks pa l }

/-- End a waiter's wait with its answer. -/
def State.answer (s : State) (w : Waiter) (v : Nat) : State :=
  if w.peer then { s with out := { s.out with answers := s.out.answers ++ [(w.uid, .value v)] } }
  else
    let c := CtxId.ofKey w.ctxKey
    if (s.ctxAt c).uid = w.uid then s.updCtx c fun x => { x with wait := none, token := some [wd v] } else s

/-- VERSION of a versioned lock goes up by one (R231). -/
def State.bumpVersion (s : State) (pa : Nat) : Nat × State :=
  let v := (s.homeBytes (pa + 8) 8 + 1) % 2 ^ 64
  (v, (s.homePut (pa + 8) 8 v).2)

/-- Take a free lock: the word becomes held with the taker as owner and tail (R229); a VLOCK counts (R231). The answer is all ones, or VERSION. -/
def State.lockTake (s : State) (pa ident : Nat) (versioned : Bool) : Nat × State :=
  let s := (s.homePut pa 8 (lockWord ident ident)).2
  let s := { s with heldLocks := KMap.put none s.heldLocks pa (some versioned) }
  if versioned then s.bumpVersion pa else (2 ^ 64 - 1, s)

/-- QACQ or VLOCK at home: take the lock, or join the queue with the tail updated (R229). DESIGN CHOICE (log 19): after software has stored into a held or awaited lock (R230: unpredictable), every operation goes on from the word that it finds, and the queue stays. -/
def State.lockAcquire (s : State) (pa : Nat) (w : Waiter) : Option Nat × State :=
  let l := lockOf (s.homeBytes pa 8)
  if l.held then
    let s := (s.homePut pa 8 (lockWord w.ident l.owner)).2
    (none, s.setLockQueue pa (s.lockQueue pa ++ [w]))
  else
    let r := s.lockTake pa w.ident w.second
    (some r.1, r.2)

/-- QTRY at home (R229). -/
def State.lockTry (s : State) (pa ident : Nat) : Nat × State :=
  if (lockOf (s.homeBytes pa 8)).held then (1, s) else (0, (s.lockTake pa ident false).2)

/-- Pass a held lock on: to the head of the queue, or to nobody (R229). The grantee of a QACQ gets `prev`, of a VLOCK the version. -/
def State.lockPass (s : State) (pa prev : Nat) : State :=
  let l := lockOf (s.homeBytes pa 8)
  match s.lockQueue pa with
  | [] =>
    let s := (s.homePut pa 8 0).2
    { s with heldLocks := KMap.put none s.heldLocks pa none }
  | w :: r =>
    let s := (s.homePut pa 8 (lockWord l.tail w.ident)).2
    let s := s.setLockQueue pa r
    let s := { s with heldLocks := KMap.put none s.heldLocks pa (some w.second) }
    if w.second then
      let (v, s) := s.bumpVersion pa
      s.answer w v
    else s.answer w prev

/-- QREL or VUNLOCK at home: 1 where the caller does not own the lock (R229, R231). -/
def State.lockRelease (s : State) (pa ident : Nat) (versioned : Bool) : Nat × State :=
  let l := lockOf (s.homeBytes pa 8)
  if !l.held || l.owner != ident then (1, s)
  else
    let s := if versioned then (s.bumpVersion pa).2 else s
    (0, s.lockPass pa ident)

/-- Waits of lost threads leave the queue of a lock; where one of them was the tail, TAIL names the last that remains, or the owner (R228, R414). -/
def State.lockForget (s : State) (pa : Nat) (lost : Nat → Bool) : State :=
  let q := s.lockQueue pa
  let rest := q.filter fun w => !lost w.ident
  let l := lockOf (s.homeBytes pa 8)
  if rest.length = q.length then s
  else
    let s := s.setLockQueue pa rest
    if l.held && lost l.tail then (s.homePut pa 8 (lockWord (((rest.getLast?).map (·.ident)).getD l.owner) l.owner)).2 else s

/-- Repair one lock after threads are lost: their waits leave the queue, and a lock that one of them holds passes on (R414). -/
def State.lockRepair (s : State) (pa : Nat) (lost : Nat → Bool) : State :=
  let s := s.lockForget pa lost
  let l := lockOf (s.homeBytes pa 8)
  if l.held && lost l.owner then
    let s := if KMap.find none s.heldLocks pa = some true then (s.bumpVersion pa).2 else s
    s.lockPass pa (2 ^ 62 + l.owner)
  else s

/-! ### Groups (R32, R33) -/

/-- A group record: members, arrived, phase (R32). -/
structure Group where
  members : Nat
  arrived : Nat
  phase : Nat
  deriving DecidableEq, Repr

/-- Read the record at an address. -/
def State.group (s : State) (pa : Nat) : Group :=
  ⟨s.homeBytes pa 4, s.homeBytes (pa + 4) 4, s.homeBytes (pa + 8) 2⟩

/-- Write the record, leaving bits [127:80] alone. -/
def State.setGroup (s : State) (pa : Nat) (g : Group) : State :=
  let s := (s.homePut pa 8 (g.members % 2 ^ 32 + g.arrived % 2 ^ 32 * 2 ^ 32)).2
  (s.homePut (pa + 8) 2 (g.phase % 2 ^ 16)).2

/-- The threads waiting at a record. -/
def State.groupQueue (s : State) (pa : Nat) : List Waiter := KMap.find [] s.groups pa

/-- complete_phase: arrivals return to zero, the phase advances, sleeping GBARs wake, held JOINs are applied in arrival order (R33). -/
def State.completePhase (s : State) (pa : Nat) (g : Group) : State :=
  let ph := (g.phase + 1) % 2 ^ 16
  let q := s.groupQueue pa
  let joins := (q.filter fun w => w.second).length
  let s := s.setGroup pa ⟨g.members + joins, 0, ph⟩
  let s := { s with groups := KMap.put [] s.groups pa [] }
  q.foldl (fun s w => s.answer w ph) s

/-- LEAVE at home: the phase after it (R33). -/
def State.groupLeave (s : State) (pa : Nat) : Nat × State :=
  let g := s.group pa
  if g.members = 0 then (g.phase, s)
  else
    let g := { g with members := g.members - 1 }
    if 0 < g.arrived && g.arrived == g.members then ((g.phase + 1) % 2 ^ 16, s.completePhase pa g)
    else (g.phase, s.setGroup pa g)

/-- JOIN at home: done at once when no phase is in progress, else held (R33). -/
def State.groupJoin (s : State) (pa : Nat) (w : Waiter) : Option Nat × State :=
  let g := s.group pa
  if g.arrived = 0 then (some g.phase, s.setGroup pa { g with members := g.members + 1 })
  else (none, { s with groups := KMap.put [] s.groups pa (s.groupQueue pa ++ [w]) })

/-- GBAR at home: the arrival that completes the phase returns at once, any other sleeps (R33). -/
def State.groupBar (s : State) (pa : Nat) (w : Waiter) : Option Nat × State :=
  let g := s.group pa
  let g := { g with arrived := g.arrived + 1 }
  if g.members ≤ g.arrived then (some ((g.phase + 1) % 2 ^ 16), s.completePhase pa g)
  else
    let s := s.setGroup pa g
    (none, { s with groups := KMap.put [] s.groups pa (s.groupQueue pa ++ [w]) })

end Sys2Proof.Machine
end

