-- ==== Sys2Proof/Machine/Msgs.lean ====
section
/-! DEFINITION. Messages, mailboxes and handlers (R35 to R50, R308, R378, R379, R410, R430). -/
namespace Sys2Proof.Machine

/-- An entry of the handler table (R43). -/
structure HEntry where
  entry : Nat
  prio : Nat
  en : Bool
  sup : Bool
  deriving DecidableEq, Repr

/-- The handler address space of a core (R44). DESIGN CHOICE (log 49): the core reads the entries of its handler table at SUP; R43 and R44 name the space and no level. -/
def State.handlerSpace (s : State) (core : Nat) : Space :=
  let c := s.coreAt core
  ⟨c.hptbase, c.hasid, 1, core, true⟩

/-- The code with which a read of an entry fails, as an entry of kind 13 holds it: a read that is refused in any other way is refused for a load (R43, R420). -/
def entryCause (c : Nat) : Nat :=
  if c = Cause.pageLoad || c = Cause.poison || c = Cause.uncorrectable then c else Cause.protection

/-- The core reads the entry of a channel (R43). -/
def State.handlerEntry (s : State) (core ch : Nat) : Except Nat HEntry × State :=
  let va := (s.coreAt core).htab + 16 * ch
  match s.readVirt (s.handlerSpace core) va 8 with
  | (.error c, s) => (.error (entryCause c), s)
  | (.ok lo, s) =>
    match s.readVirt (s.handlerSpace core) (va + 8) 8 with
    | (.error c, s) => (.error (entryCause c), s)
    | (.ok hi, s) => (.ok ⟨lo / 64, bitsAt hi 16 2, bitAt hi 18, bitAt hi 19 && (s.coreAt core).hsup⟩, s)

/-- A message leaves the module from a core for a package (R352, R354); while its way is held, what sends it waits (R417, R418). -/
def State.depart (s : State) (m : Msg) (core pkg : Nat) : State :=
  let h := Nat.xor m.srcCore m.dstCore
  if s.outHeld (dieOf core) pkg h then s.lack none
  else { s with out := { s.out with msgs := s.out.msgs ++ [(s.portFor pkg h, m)] } }

/-- Put a message on its way: to a core of the module, or out to a peer (R352). -/
def State.post (s : State) (m : Msg) : State :=
  if m.dstPkg = s.pkgid then { s with msgs := s.msgs ++ [m] } else s.depart m m.srcCore m.dstPkg

/-- x2 of a REFUSED message (R47). -/
def refusedInfo (m : Msg) : Nat :=
  m.dstPkg * 2 ^ 32 + m.chan +
    (if isSvc m.dstCore then 2 ^ 26 + (m.dstCore - 1024) * 2 ^ 16 else m.dstCore * 2 ^ 16)

/-- Refuse a REQ message: a REFUSED message returns to channel 63 of its sender (R39, R47). -/
def State.refuse (s : State) (m : Msg) : State :=
  let src := coreSender m.dstCore
  s.post ⟨true, m.srcCore, m.srcPkg, 63, s.pkgid, src.1, src.2, m.dstCore, [m.payload.getD 0 0, 0, 0, 0], true,
    wd (refusedInfo m), false, m.bad⟩

/-- The log entry of a discarded REP message (R41, R378). -/
def kind2 (m : Msg) : LogEntry := ⟨2, 0, 0, some m, m.chan, 0, 0⟩

/-- The sender's REP queue entry frees (R36); reports and REFUSED messages hold none. -/
def State.repAccepted (s : State) (m : Msg) : State :=
  if m.report || m.refused || m.srcPkg != s.pkgid then s
  else s.updCore m.srcCore fun c => { c with repOut := c.repOut - 1 }

/-- Discard a REP message whose channel is not enabled (R41); a report is only counted (R379). -/
def State.discardRep (s : State) (m : Msg) : State :=
  if m.report then
    s.updCore m.dstCore fun c => { c with log := { c.log with lost := (c.log.lost + 1) % 65536 } }
  else s.logFault m.dstCore (kind2 m)

/-- Is the channel of a core enabled at an arrival (R41, R43)? An unreadable entry counts as enabled. -/
def State.chanEnabled (s : State) (core ch : Nat) : Bool × State :=
  if (s.coreAt core).htab = 0 then (false, s)
  else match s.handlerEntry core ch with
    | (.ok e, s) => (e.en, s)
    | (.error _, s) => (true, s)

/-- Messages of one network in a mailbox. -/
def boxCount (l : List Msg) (rep : Bool) : Nat := (l.filter fun m => m.rep == rep).length

/-- Is the mailbox of a network full (R39, R40)? -/
def Core.boxFull (c : Core) (rep : Bool) : Bool :=
  if rep then decide (32 ≤ boxCount c.box true) else decide (c.mboxdepth ≤ boxCount c.box false)

/-- The same sender core. -/
def sameSender (a b : Msg) : Bool := a.srcCore == b.srcCore && a.srcPkg == b.srcPkg

/-- A REP message that found no core is discarded, with a kind-2 entry at the core that sent it (R430). -/
def State.returned (s : State) (m : Msg) : State := (s.repAccepted m).logFault m.srcCore (kind2 m)

/-- A peer's REP message that found no core here goes back to its sender, which logs it (R430). -/
def State.sendBack (s : State) (m : Msg) : State := s.depart m m.dstCore m.srcPkg

/-- Under the refuse policy a request that finds room comes after the held ones of its sender, which try to enter first and are refused (R38, R42). -/
def State.refuseBefore (s : State) (core : Nat) (m : Msg) : State :=
  let c := s.coreAt core
  if c.mboxpol && !c.boxFull false then
    let out := c.held.filter fun h => !h.rep && sameSender h m
    out.foldl (fun (s : State) h => s.refuse h)
      (if out.isEmpty then s else s.updCore core fun c => { c with held := c.held.filter fun h => h.rep || !sameSender h m })
  else s

/-- A message meets its core: refused or discarded under R41, put into the mailbox, held, or refused under MBOXPOL (R39, R40). `fromHeld`: it was already held; under the refuse policy it is refused as it tries to enter (R42). -/
def State.arrive (s : State) (m : Msg) (fromHeld : Bool) : State :=
  let core := m.dstCore
  if !s.corePresent core || s.coreDead core then
    if m.rep then
      (if m.report then s else if m.srcPkg = s.pkgid then s.returned m else s.sendBack m)
    else s.refuse m
  else
    let (en, s) := s.chanEnabled core m.chan
    if !en then (if m.rep then (s.repAccepted m).discardRep m else s.refuse m)
    else
      let s := if fromHeld || m.rep then s else s.refuseBefore core m
      let c := s.coreAt core
      let behind := !fromHeld && c.held.any fun h => h.rep == m.rep && sameSender h m
      if c.boxFull m.rep || behind || (fromHeld && !m.rep && c.mboxpol) then
        if !m.rep && c.mboxpol then s.refuse m
        else s.updCore core fun c => { c with held := if fromHeld then m :: c.held else c.held ++ [m] }
      else
        let s := s.updCore core fun c => { c with box := c.box ++ [m] }
        if m.rep then s.repAccepted m else s

/-- The n-th message in flight, when none sent before it by the same core to the same core on the same network is still in flight (R38); a failed edge holds it (R417). -/
def State.flight (s : State) (n : Nat) : Option Msg :=
  match s.msgs[n]? with
  | none => none
  | some m =>
    if s.edgeHeld (dieOf m.srcCore) (dieOf m.dstCore) ||
        (s.msgs.take n).any fun e => sameSender e m && e.dstCore == m.dstCore && e.rep == m.rep then none else some m

/-- Take the n-th message out of flight. -/
def State.dropFlight (s : State) (n : Nat) : State := { s with msgs := s.msgs.eraseIdx n }

/-- The message of an arrival event. -/
def State.arrivalOf (s : State) : MsgIn → Option (Msg × State)
  | .inflight n => (s.flight n).map fun m => (m, s.dropFlight n)
  | .peer m => some ({ m with dstPkg := s.pkgid }, s)

/-- A free handler slot of a core. DESIGN CHOICE (log 40): a handler that starts while both are free takes H0; R45 does not say. -/
def State.freeSlot (s : State) (core : Nat) : Option Nat :=
  [8, 9].find? fun k => (s.ctxAt ⟨core, k⟩).occ == .free

/-- The registers that a handler finds failed: the payload of a message that was lost on its way (R422; log 37). -/
def lostPayload (m : Msg) : List (Nat × RegSt) :=
  let f : RegSt := .failed Cause.uncorrectable 0 0
  if !m.bad then [] else if m.refused then [(1, f)] else [(1, f), (2, f), (3, f), (4, f)]

/-- The context of a handler at its start (R46, R47). -/
def handlerCtx (uid tid pl entry : Nat) (m : Msg) : Ctx :=
  let x2 : Word := if m.refused then m.info else m.payload.getD 1 0
  let regs : List (Nat × Word) :=
    [(1, m.payload.getD 0 0), (2, x2), (3, m.payload.getD 2 0), (4, m.payload.getD 3 0), (5, wd (senderWord m)),
     (6, if m.rep then 1 else 0)]
  { Ctx.reset with occ := .occupied, uid := uid, tid := tid, x := regs, xs := lostPayload m, pc := entry * 64 + 2, pl := pl, seed := 1,
                   hmsg := some m, hchan := m.chan }

/-- The level at which a handler starts (R46). DESIGN CHOICE (log 39): a service core runs only at SUP or MON (R13), so there every handler starts at SUP. -/
def handlerLevel (core : Nat) (e : HEntry) : Nat := if e.sup || isSvc core then 1 else 0

/-- Start a handler for a message in a slot: the acquire of R169, the notice to a REQ sender (R36). -/
def State.startHandler (s : State) (core slot : Nat) (m : Msg) (e : HEntry) : State :=
  let c : CtxId := ⟨core, slot⟩
  let s := { s with nextUid := s.nextUid + 1, cur := c }
  let s := s.updCtx c fun _ => handlerCtx s.nextUid c.tid (handlerLevel core e) e.entry m
  let s := s.acquire [(core, none)] (if m.refused || m.report then 0 else m.info.toNat % 4) 1023
  if m.rep then s
  else if m.srcPkg = s.pkgid then { s with notices := s.notices ++ [m.srcCore] }
  else { s with out := { s.out with notices := s.out.notices ++ [(m.srcPkg, m.srcCore)] } }

/-- The distinct channels of a mailbox in ascending order. -/
def boxChans (l : List Msg) : List Nat := (upTo 64).filter fun c => l.any fun m => m.chan == c

/-- Read the entries of the runnable channels that are not masked (R43, R45): unreadable ones are masked and logged, disabled ones lose their messages, the rest are candidates. -/
def State.candidates (s : State) (core : Nat) : List Nat → List (Nat × HEntry) × State
  | [] => ([], s)
  | ch :: r =>
    let c := s.coreAt core
    if bitAt c.chmask ch then s.candidates core r
    else
      match s.handlerEntry core ch with
      | (.error cause, s) =>
        let m := (s.coreAt core).box.find? fun m => m.chan == ch
        let s := s.updCore core fun c => { c with chmask := setBit c.chmask ch true }
        let s := s.logFault core ⟨13, cause, 0, m, ch, 0, (s.coreAt core).htab + 16 * ch⟩
        s.candidates core r
      | (.ok e, s) =>
        if e.en then
          let (l, s) := s.candidates core r
          ((ch, e) :: l, s)
        else
          let out := (s.coreAt core).box.filter fun m => m.chan == ch
          let s := s.updCore core fun c => { c with box := c.box.filter fun m => m.chan != ch }
          let s := out.foldl (fun s m => if m.rep then s.discardRep m else s.refuse m) s
          s.candidates core r

/-- The candidate of highest priority, ties in rotation after the channel last started at that priority (R45). -/
def pickChan (c : Core) (l : List (Nat × HEntry)) : Option (Nat × HEntry) :=
  let top := l.foldl (fun p e => max p e.2.prio) 0
  let best := l.filter fun e => e.2.prio == top
  let last := KMap.find 63 c.lastCh top
  match best.find? fun e => decide (last < e.1) with
  | some e => some e
  | none => best.head?

/-- Start the next handler of a core, when a slot is free (R45, R46). -/
def State.handlerSelect (s : State) (core : Nat) : State :=
  match s.freeSlot core with
  | none => s
  | some slot =>
    if (s.coreAt core).htab = 0 then
      -- with no table every waiting message fares under R41
      let out := (s.coreAt core).box.filter fun m => !bitAt (s.coreAt core).chmask m.chan
      let s := s.updCore core fun c => { c with box := c.box.filter fun m => bitAt c.chmask m.chan }
      out.foldl (fun s m => if m.rep then s.discardRep m else s.refuse m) s
    else
      let (l, s) := s.candidates core (boxChans (s.coreAt core).box)
      match pickChan (s.coreAt core) l with
      | none => s
      | some (ch, e) =>
        match (s.coreAt core).box.findIdx? fun m => m.chan == ch with
        | none => s
        | some i =>
          match (s.coreAt core).box[i]? with
          | none => s
          | some m =>
            let s := s.updCore core fun c =>
              { c with box := c.box.eraseIdx i, lastCh := KMap.ins c.lastCh e.prio ch }
            s.startHandler core slot m e

/-- Would a handler start, or a waiting message leave its mailbox? -/
def State.handlerDue (s : State) (core : Nat) : Bool :=
  (s.freeSlot core).isSome && (s.coreAt core).box.any fun m => !bitAt (s.coreAt core).chmask m.chan

end Sys2Proof.Machine
end

