-- ==== Sys2Proof/Machine/Agents.lean ====
section
/-! DEFINITION. Agents that are suspected, declared dead and readmitted, and what becomes of their words, threads, messages, locks and commands (R398 to R401, R408, R411, R413, R414). -/
namespace Sys2Proof.Machine

/-- The state register of an agent (R398). -/
def State.agent (s : State) : Agent → AgentSt
  | .core n => KMap.find AgentSt.reset s.agCore n
  | .die n => KMap.find AgentSt.reset s.agDie n
  | .pkg n => KMap.find AgentSt.reset s.agPkg n

/-- Change the state register of an agent. -/
def State.updAgent (s : State) (a : Agent) (f : AgentSt → AgentSt) : State :=
  match a with
  | .core n => { s with agCore := KMap.upd AgentSt.reset s.agCore n f }
  | .die n => { s with agDie := KMap.upd AgentSt.reset s.agDie n f }
  | .pkg n => { s with agPkg := KMap.upd AgentSt.reset s.agPkg n f }

/-- Does the register exist: a present core, a die, a package other than the module's own (R398)? -/
def State.agentValid (s : State) : Agent → Bool
  | .core n => decide (n < 1024) && s.corePresent n
  | .die n => decide (n < 4)
  | .pkg n => decide (n < 1024) && n != s.pkgid

/-- The number of an agent in a log entry. -/
def agentNum : Agent → Nat
  | .core n | .die n | .pkg n => n

/-- The cause of a kind-8 entry (R420). -/
def agentCause : Agent → Nat
  | .core _ => 1
  | .die _ => 2
  | .pkg _ => 3

/-! ### Words (R400, steps 2 to 4) -/

/-- Poison every word registered to holders that are lost, and end their registrations. -/
def State.poisonHeld (s : State) (lost : Holder → Bool) : State :=
  s.reg.foldl (fun (s : State) e =>
    match e.2 with
    | some h =>
      if lost h then ({ s with reg := KMap.put none s.reg e.1 none }).setPoison e.1 true else s
    | none => s) s

/-- Drop every cached copy and registration of the words of a 64 KiB page. -/
def State.dropPage (s : State) (page : Nat) : State :=
  let out (w : Nat) : Bool := w / 8192 == page
  { s with reg := s.reg.filter fun e => !out e.1,
           core := s.core.map fun e => (e.1, { e.2 with l1 := e.2.l1.filter fun w => !out w.1 }),
           cl := s.cl.map fun e => (e.1, { e.2 with near := e.2.near.filter fun w => !out w.1 }) }

/-- Poison every word of a 64 KiB page of this module. -/
def State.poisonPage (s : State) (page : Nat) : State :=
  (upTo 8192).foldl (fun (s : State) k => s.setPoison (8192 * page + k) true) s

/-! ### Threads, locks, messages -/

/-- The die of a near partition, a service core's too. -/
def nearDie (cl : Nat) : Nat := if cl < 256 then cl / 64 else (cl - 256) / 4

/-- Is the physical address at the agent's homes: its scratchpads, or the HBM of its die? -/
def homeLost (cores : List Nat) (die : Option Nat) (pa : Nat) : Bool :=
  match paClass pa with
  | 0 => die == some (bitsAt pa 37 2)
  | 1 => cores.contains (spmAddr pa).core
  | _ => false

/-- Threads that wait at a lost home try again and meet its loss there (R400). -/
def State.wakeLost (s : State) (gone : Nat → Bool) : State :=
  let wakeAll (s : State) (q : List Waiter) : State :=
    q.foldl (fun (s : State) w => if w.peer then s else s.wake w.ctxKey w.uid none) s
  let s : State := s.locks.foldl (fun (s : State) e => if gone e.1 then wakeAll s e.2 else s) s
  let s : State := s.groups.foldl (fun (s : State) e => if gone e.1 then wakeAll s e.2 else s) s
  let s : State := { s with ctx := s.ctx.map fun e => (e.1, match e.2.wait with
    | some (.words _ l) => if l.any fun p => gone p.1 then { e.2 with wait := none } else e.2
    | some (.mark pa _) => if gone pa then { e.2 with wait := none } else e.2
    | _ => e.2) }
  { s with locks := s.locks.filter (fun e => !gone e.1), groups := s.groups.filter (fun e => !gone e.1),
           heldLocks := s.heldLocks.filter fun e => !gone e.1 }

/-- Repair every lock that a lost identity holds or waits on (R414). -/
def State.repairLocks (s : State) (lost : Nat → Bool) : State :=
  let keys := ((s.locks.map fun e => e.1) ++ s.heldLocks.map fun e => e.1).eraseDups
  keys.foldl (fun (s : State) pa => s.lockRepair pa lost) s

/-- A thread is lost: it counts as exited (R413), and what EXIT frees is freed. -/
def State.loseThread (s : State) (c : CtxId) : State :=
  let x := s.ctxAt c
  if x.occ = .free then s
  else
    let s : State := if x.ergSize ≠ 0 then s.freeLent c.core x.ergSize else s
    let s : State := s.dropCompose c
    let s : State := s.freeOpa (clusterOf c.core) x.uid
    let s : State := match x.inst with
      | some i =>
        { s with insts := s.insts.map fun e =>
            if e.1 = i then (e.1, { e.2 with threads := e.2.threads - 1, lost := e.2.lost + 1 }) else e }
      | none => s
    s.updCtx c Ctx.vacate

/-- Identities of the threads and handlers that stand on a core. -/
def State.coreIdents (s : State) (core : Nat) : List Nat :=
  (((upTo 10).map fun k => (⟨core, k⟩ : CtxId)).filter fun c => (s.ctxAt c).occ != .free).map
    (fun c => identOf c.kind s.pkgid (s.ctxAt c).tid) ++
    (s.coreAt core).saved.map fun v => identOf (if isSvc core then 2 else 0) s.pkgid v.ctx.tid

/-- What a core's loss does to its messages (R411): requests return, replies are discarded with an entry at their sender. -/
def State.loseMessages (s : State) (core : Nat) : State :=
  let k := s.coreAt core
  let s : State := { s.updCore core (fun k => { k with box := [], held := [], reqOut := 0 }) with
    notices := s.notices.filter fun c => c != core }
  let s : State := k.box.foldl (fun (s : State) m =>
    if !m.rep then s.refuse m
    else if m.report then s
    else if m.srcPkg = s.pkgid then s.logFault m.srcCore (kind2 m) else s.sendBack m) s
  k.held.foldl (fun (s : State) m => s.arrive m true) s

/-- Forwards and recalls that wait for a lost holder complete with poison (R400, step 3); an atomic behind such a recall is not applied (R396). -/
def State.failForwards (s : State) (lost : Holder → Bool) : State :=
  let gone (o : Origin) : Bool := match o with
    | .fwd h | .recall h => lost h
    | _ => false
  let ids := (s.pend.filter fun p => gone p.origin).map (·.id)
  ({ s with baseq := s.baseq.filter fun b => !ids.contains b.pend } : State).failFrom gone Cause.poison

/-- What becomes of a core declared dead: its L1 and contexts are gone, its threads lost, its queued commands discarded, results that it was to return lost. -/
def State.loseCore (s : State) (core : Nat) : State :=
  let s : State := s.poisonHeld fun h => h == .l1 core
  let s : State := s.updCore core fun k => { k with l1 := [], icache := [], dtlb := [] }
  let s : State := (upTo 10).foldl (fun (s : State) k => s.updCtx ⟨core, k⟩ fun x => { x with comb := [] }) s
  let s : State := (upTo 10).foldl (fun (s : State) k => s.loseThread ⟨core, k⟩) s
  let saved := (s.coreAt core).saved
  let s : State := saved.foldl (fun (s : State) v =>
    match v.ctx.inst with
    | some i =>
      { s with insts := s.insts.map fun e =>
          if e.1 = i then (e.1, { e.2 with threads := e.2.threads - 1, lost := e.2.lost + 1 }) else e }
    | none => s) s
  let cmds := (s.coreAt core).fifo
  let s : State := s.updCore core fun k => { k with saved := [], fifo := [] }
  let s : State := cmds.foldl (fun (s : State) c => s.ferryDone c.inst) s
  let s : State := { s with pend := s.pend.filter fun p => p.ctxKey / 16 != core }
  let s : State := s.failForwards fun h => h == .l1 core
  let s : State := s.failFrom (· == .spm core) Cause.regEmpty
  let s : State := s.wakeLost (homeLost [core] none)
  s.loseMessages core

/-! ### Declaration (R400) -/

/-- INC goes up and DEAD is set (step 1). -/
def State.markDead (s : State) (a : Agent) : State :=
  s.updAgent a fun g => { g with dead := true, inc := (g.inc + 1) % 256 }

/-- Declare a core. The locks of its threads are repaired (R414). -/
def State.declareCore (s : State) (n : Nat) : State :=
  ((s.markDead (.core n)).loseCore n).repairLocks fun id => (s.coreIdents n).contains id

/-- The cores of a die that a declaration reaches. -/
def State.dieCores (s : State) (d : Nat) : List Nat :=
  (upTo 256).map (fun k => 256 * d + k) |>.filter fun c =>
    s.corePresent c && !(KMap.find AgentSt.reset s.agCore c).dead

/-- Commands that the engines of a die hold end with code 0x0C; what they have performed is still counted (R407, R408). -/
def State.loseJobs (s : State) (d : Nat) : State :=
  { s with cl := s.cl.map fun e =>
      if nearDie e.1 = d then
        (e.1, { e.2 with jobs := e.2.jobs.map fun j =>
          if j.recorded then j else ({ j with moved := true, blocked := false }).err [(0, 12)] })
      else e }

/-- Declare a die: every core on it, its HBM, its near partitions, its engines. Locks are repaired once, for all the threads that are lost with it (R414). -/
def State.declareDie (s : State) (d : Nat) : State :=
  let svcs := (upTo 4).map fun k => 1024 + 4 * d + k
  let idents := (s.dieCores d ++ svcs).flatMap s.coreIdents
  let s : State := s.markDead (.die d)
  let s : State := s.poisonHeld fun h => match h with
    | .near cl => nearDie cl == d
    | .l1 c => dieOf c == d
  let s : State := s.failForwards fun h => match h with
    | .near cl => nearDie cl == d
    | .l1 _ => false
  let s : State := (s.dieCores d).foldl (fun (s : State) c => (s.markDead (.core c)).loseCore c) s
  let s : State := svcs.foldl (fun (s : State) c => s.loseCore c) s
  let s : State := s.loseJobs d
  let s : State :=
    { s with cl := s.cl.map (fun e => if nearDie e.1 = d then (e.1, { e.2 with near := [], tlb := [] }) else e),
             poison := s.poison.filter (fun e => !(wordClass e.1 == 0 && 8 * e.1 / 2 ^ 37 % 4 == d)),
             poisonDie := setBit s.poisonDie d true,
             reg := s.reg.filter (fun e => !(wordClass e.1 == 0 && 8 * e.1 / 2 ^ 37 % 4 == d)),
             baseq := s.baseq.filter fun b => b.pa / 2 ^ 37 % 4 != d }
  let s : State := s.failFrom (fun o => o == .home d || o == .base d) Cause.regEmpty
  let s : State := (s.pend.filter fun p => p.origin.isRecall && paClass p.pa == 0 && bitsAt p.pa 37 2 == d).foldl
    (fun (s : State) p => s.loseResult p) s
  (s.wakeLost (homeLost [] (some d))).repairLocks fun id => idents.contains id

/-- Declare a peer module at its home, this module: pages it may write are poisoned, its grants and leases end, requests to it are lost. -/
def State.declarePkg (s : State) (p : Nat) : State :=
  let s : State := s.markDead (.pkg p)
  let pages := (s.leases.filter fun e => e.2.writer == some p).map fun e => e.1
  let s : State := pages.foldl (fun (s : State) g => s.poisonPage g) s
  let s : State := State.wakeRecalls { s with leases := s.leases.map fun e =>
      let mine := e.2.writer == some p
      (e.1, { e.2 with readers := e.2.readers.filter (fun r => r.1 != p), asks := e.2.asks.filter (fun a => a.pkg != p),
                       writer := (if mine then none else e.2.writer), recalled := (if mine then none else e.2.recalled) }) }
  let own := s.grants.filter fun e => match e.2 with
    | some g => g.pkg == p
    | none => false
  let s : State := own.foldl (fun (s : State) e => { s.dropPage e.1 with grants := KMap.put none s.grants e.1 none }) s
  let s : State := s.failFrom (· == .peer p) Cause.regEmpty
  s.repairLocks fun id => id / 2 ^ 13 % 2 ^ 10 == p

/-- MON declares an agent dead; an agent that is dead already stays as it is (log 9). -/
def State.declareDead (s : State) (a : Agent) : State :=
  if !s.agentValid a || (s.agent a).dead then s
  else match a with
    | .core n => s.declareCore n
    | .die n => s.declareDie n
    | .pkg n => s.declarePkg n

/-- A write of DEAD = 0 reaccepts an agent under its current INC (R400). -/
def State.readmit (s : State) (a : Agent) : State :=
  if s.agentValid a then s.updAgent a fun g => { g with dead := false } else s

/-- A MON write of an agent's register (R398): SUSP clears on 1, DEAD is written. -/
def State.writeAgent (s : State) (a : Agent) (v : Nat) : State :=
  if !s.agentValid a then s
  else
    let s : State := if bitAt v 9 then s.updAgent a fun g => { g with susp := false } else s
    if bitAt v 8 then s.declareDead a else s.readmit a

/-- An agent's register as it reads. -/
def State.readAgent (s : State) (a : Agent) : Nat :=
  let g := s.agent a
  (if g.susp then 512 else 0) + (if g.dead then 256 else 0) + g.inc % 256

/-- Does an origin wait on an agent: for a forward or a recall, or for a peer module (R399, R430)? -/
def owes (a : Agent) (o : Origin) : Bool :=
  match a, o with
  | .core n, .fwd (.l1 c) | .core n, .recall (.l1 c) => c == n
  | .die d, .fwd (.near k) | .die d, .recall (.near k) => nearDie k == d
  | .pkg n, .peer q => q == n
  | _, _ => false

/-- The addresses of requests of this module that an agent has left unanswered for AGTMO: forwards, recalls, accesses of a peer module, hand-overs (R399, R430). -/
def State.overdue (s : State) (a : Agent) : List Nat :=
  let late (t : Nat) : Bool := decide (t + Config.agTmo ≤ s.fc)
  (s.pend.filter fun p => late p.since).flatMap (fun p =>
    if p.elems.isEmpty then (if owes a p.origin then [p.pa] else []) else (p.elems.filter fun e => owes a e.src).map (·.pa)) ++
    match a with
    | .pkg n => (s.leases.filter fun e => e.2.writer == some n && e.2.recalled.any late).map fun e => e.1 * 65536
    | _ => []

/-- The hardware suspects an agent that leaves a request unanswered: SUSP, and a kind-8 entry with its address at the service core of the home slice that asks (R399, R420). -/
def State.suspect (s : State) (a : Agent) (svc pa : Nat) : State :=
  if !s.agentValid a || !(s.overdue a).contains pa || svc ≠ svcOfCluster (s.homeSlice pa) then s
  else
    (s.updAgent a fun g => { g with susp := true }).logFault (1024 + svc) ⟨8, (agentCause a), 0, none, 0, (agentNum a), pa⟩

/-- A message that carries an old incarnation is dropped and logged (R401, R420). -/
def State.dropStale (s : State) (a : Agent) (svc inc : Nat) : State :=
  let now := (s.agent a).inc
  if inc % 256 = now then s
  else s.logFault (1024 + svc % 16) ⟨9, 0, 0, none, 0, (agentNum a), inc % 256 + now * 256⟩

end Sys2Proof.Machine
end

