-- ==== Sys2Proof/Machine/Dev.lean ====
section
/-! DEFINITION. Device registers: what an aligned 8-byte read gives and what a write does (R23, R24, R126, R143, R144, R350, R353, R356, R359, R378, R394, R398, R415, R418, R419). -/
namespace Sys2Proof.Machine

/-! ### The identification block (R22 to R24) -/

/-- CLMASK of a die. -/
def State.clmask (s : State) (d : Nat) : Nat := KMap.find fullMask s.fuse.clmask d

/-- PCMASK of a stack (R357). -/
def State.pcmask (s : State) (k : Nat) : Nat := if bitAt s.badStacks k then 0 else KMap.find fullMask s.fuse.pcmask k

/-- STKCFG of a stack: FITTED, HEIGHT and CAPMIB. -/
def State.stkcfg (s : State) (k : Nat) : Nat :=
  KMap.find (16 * 2 ^ 32 + 65536) s.fuse.stkcfg k / 2 ^ 32 * 2 ^ 32 + s.stackMib k

/-- MEMMIB: the sum of the eight CAPMIB fields (R24). -/
def State.memMib (s : State) : Nat := (upTo 8).foldl (fun n k => n + s.stackMib k) 0

/-- ID_MOD. -/
def State.idMod (s : State) : Nat :=
  0xB4A0 * 2 ^ 48 + s.fuse.step % 256 * 2 ^ 40 + s.fuse.part % 256 * 2 ^ 32 + s.memMib % 2 ^ 20 * 2 ^ 12 + 4 * 2 ^ 8 + 8 * 2 ^ 4

/-- ID_NARROW: bits of absent cores read 0. -/
def State.idNarrow (s : State) (k : Nat) : Nat :=
  (upTo 64).foldl (fun n j => setBit n j (s.corePresent (64 * k + j) && s.narrow (64 * k + j))) 0

/-- The identification block at an 8-byte aligned offset (R23). -/
def State.idBlock (s : State) (off : Nat) : Nat :=
  if off = 0 then s.idMod
  else if off < 0x28 then s.clmask (off / 8 - 1)
  else if off < 0x40 then 0
  else if off < 0xC0 then s.idNarrow ((off - 0x40) / 8)
  else if off < 0x140 then
    (if off % 16 = 0 then s.pcmask ((off - 0xC0) / 16) else s.stkcfg ((off - 0xC0) / 16))
  else 0

/-- Has the boot ROM let the module out of reset (R359)? -/
def State.booted (s : State) : Bool := bitsAt s.bootstat 24 8 == 1

/-! ### Shootdowns (R143, R144) -/

/-- A shootdown port after reset. -/
def SdPort.reset : SdPort := ⟨0, 0, 0, 0, 0, false, false⟩

/-- A shootdown port. -/
def State.sdPort (s : State) (k : Nat) : SdPort := KMap.find SdPort.reset s.sd k

/-- Replace a shootdown port. -/
def State.setSd (s : State) (k : Nat) (p : SdPort) : State := { s with sd := KMap.put SdPort.reset s.sd k p }

/-- log2 of the page size of a SIZE code; none is every size. -/
def sdSize (code : Nat) : Option Nat :=
  match code with
  | 0 => some 16
  | 1 => some 26
  | 2 => some 36
  | _ => none

/-- Does a running shootdown remove a translation (R143)? -/
def SdPort.matches (p : SdPort) (e : TlbE) : Bool :=
  let asid := bitsAt p.runCtl 48 16
  match bitsAt p.runCtl 2 2 with
  | 0 => (e.g || e.asid == asid) && p.runVa / 2 ^ e.size == e.va / 2 ^ e.size &&
      (match sdSize (bitsAt p.runCtl 4 2) with
        | some z => z == e.size
        | none => true)
  | 1 => !e.g && e.asid == asid
  | 2 => true
  | _ => false

/-- Every TLB of the module drops the matching entries. -/
def State.dropTlbs (s : State) (p : SdPort) : State :=
  let keep (l : List TlbE) : List TlbE := l.filter fun e => !p.matches e
  { s with core := s.core.map fun e => (e.1, { e.2 with dtlb := keep e.2.dtlb }),
           cl := s.cl.map fun e => (e.1, { e.2 with tlb := keep e.2.tlb }) }

/-- A write of SDCTL (R143): its fields take the written values (R7), a GO while one runs is only counted as lost. DESIGN CHOICE (log 43): a running shootdown keeps the VA, ASID, SIZE and KIND that it began with. -/
def State.writeSdCtl (s : State) (k v : Nat) : State :=
  let go := bitAt v 0
  let p := { s.sdPort k with ctl := bitsAt v 48 16 * 2 ^ 48 + bitsAt v 2 4 * 4 }
  if p.busy then s.setSd k { p with lost := p.lost || go }
  else if go && bitsAt v 2 2 ≠ 3 then
    let p := { p with busy := true, runVa := p.va, runCtl := p.ctl }
    (s.setSd k p).dropTlbs p
  else s.setSd k p

/-- May an access still use a translation of a page that the shootdown removes? Ranges of every size that SIZE may name are held back. -/
def SdPort.covers (p : SdPort) (va asid : Nat) : Bool :=
  match bitsAt p.runCtl 2 2 with
  | 0 => p.runVa / 2 ^ ((sdSize (bitsAt p.runCtl 4 2)).getD 36) == va / 2 ^ ((sdSize (bitsAt p.runCtl 4 2)).getD 36)
  | 1 => asid == bitsAt p.runCtl 48 16
  | _ => true

/-- The pages that a command of a stream has translated. -/
def OpaCmd.pages : OpaCmd → Pages
  | .slload _ _ _ _ _ _ _ _ p => p
  | .scale _ _ p => p
  | .mst _ _ _ _ _ _ _ _ _ p => p
  | _ => []

/-- The ASID under which a context translates; a handler uses the captured one of its core (R44, R95). -/
def State.asidOf (s : State) (c : CtxId) : Nat := if c.isHandler then (s.coreAt c.core).hasid else (s.ctxAt c).asid

/-- The ASID of a request in flight: of its context, or of the Ferry command that it belongs to. -/
def State.pendAsid (s : State) (q : Pend) : Nat :=
  match q.dst with
  | .ferry id _ => (s.cl.findSome? fun e => (e.2.jobs.find? fun j => j.cmd.id == id).map (·.cmd.asid)).getD 0
  | _ => s.asidOf (CtxId.ofKey q.ctxKey)

/-- Does a request in flight touch an address that the shootdown covers? -/
def Pend.uses (q : Pend) (p : SdPort) (asid : Nat) : Bool := q.unperformed && (p.covers q.va asid || q.elems.any fun e => p.covers e.va asid)

/-- Is a word of an L1 a store that used a translation which the shootdown removes, and that has not reached its home? -/
def State.sdDirty (s : State) (p : SdPort) (e : L1W) : Bool :=
  e.dirty && p.covers e.va (match s.ctxOf e.uid with
    | some c => s.asidOf c
    | none => bitsAt p.runCtl 48 16)

/-- Are accesses that use a translation which the shootdown removed still to be performed (R144): requests at peer modules and base dies, walks there, commands of an array stream, landing words that commands count into, combined stores, stores in an L1? -/
def State.sdHeld (s : State) (p : SdPort) : Bool :=
  let land (c : FerryCmd) : Bool := c.compl == 0 && p.covers c.w3 c.asid
  (s.ctx.any fun e => e.2.stream.any fun m => m.cmd.pages.any fun g => p.covers (g.1 * 65536) g.2.asid) ||
    (s.pend.any fun q => q.uses p (s.pendAsid q)) ||
    (s.ctx.any fun e => e.2.comb.any fun c => p.covers c.2.va (s.asidOf (CtxId.ofKey e.1))) ||
    (s.core.any fun e => e.2.l1.any fun l => s.sdDirty p l.2) ||
    (s.core.any fun e => e.2.fifo.any land) ||
    s.cl.any fun e => e.2.jobs.any fun j => land j.cmd || (j.cmd.compl == 2 && j.land.isSome && p.covers j.landVa j.cmd.asid)

/-- Stores that used a removed translation are performed (R144): combined ones are written through (R139), dirty lines leave their L1 (R161), each where its home can take it (R174, R417). -/
def State.sdDrain (s : State) (p : SdPort) : State :=
  let s := s.ctx.foldl (fun (s : State) e =>
    if e.2.comb.any fun c => p.covers c.2.va (s.asidOf (CtxId.ofKey e.1)) then s.whole fun s => s.drainComb (CtxId.ofKey e.1) 1023 true else s) s
  s.core.foldl (fun (s : State) e => ((s.coreAt e.1).l1).foldl (fun (s : State) l =>
    if s.sdDirty p l.2 then s.whole fun s => (s.reach e.1 (8 * l.1) 8).evictL1 e.1 (l.1 / 8) else s) s) s

/-- What an instruction has read for a walk at peer modules it reads again: a walk that began before the GO ends without use (R144). -/
def State.forgetReads (s : State) : State :=
  { s with ctx := s.ctx.map fun e => (e.1, { e.2 with asks := e.2.asks.filter fun a => match a.op with
      | .read _ _ => a.ans.isNone
      | _ => true }) }

/-- The shootdown of a port completes (R144): the stores that it waits for are performed before. -/
def State.sdComplete (s : State) (k : Nat) : State :=
  let p := s.sdPort k
  if !p.busy then s
  else
    let s := s.sdDrain p
    if s.sdHeld p then s else s.forgetReads.setSd k { p with busy := false, done := (p.done + 1) % 2 ^ 32 }

/-! ### Fault-log blocks (R378, R394, R419) -/

/-- The model's core number of a fault-log block, where it has one. -/
def State.logCore (s : State) (n : Nat) : Option Nat :=
  if n < 1040 && s.corePresent n then some n else none

/-- A read of a fault-log block. -/
def State.readLog (s : State) (core o : Nat) : Nat :=
  let l := (s.coreAt core).log
  if o = 0 then l.prod + l.cons * 2 ^ 16 + l.lost * 2 ^ 32
  else if o = 0x18 then (s.coreAt core).hostdisc
  else if 0x200 ≤ o then ((KMap.find [] l.ents ((o - 0x200) / 0x40)).getD (o % 0x40 / 8) 0) % 2 ^ 64
  else 0

/-- A write of CONS; a count that would pass PROD is ignored (R378). -/
def State.writeCons (s : State) (core v : Nat) : State :=
  let cons := bitsAt v 16 16
  s.updCore core fun k =>
    if 8 < (k.log.prod + 65536 - cons) % 65536 then k else { k with log := { k.log with cons := cons } }

/-- ERRACC: the register that a write names becomes full with what was delivered; a failed scalar register reads zero (R394). -/
def Ctx.accept (x : Ctx) (reg : Nat) : Ctx :=
  let failed (st : RegSt) : Bool := match st with
    | .failed _ _ _ => true
    | _ => false
  if 1 ≤ reg && reg < 16 then (if failed (x.stX reg) then x.setX reg 0 else x)
  else if 0x20 ≤ reg && reg < 0x40 then
    x.updV fun v =>
      let n := reg - 0x20
      if failed (v.stV n) then
        let old := v.getV n
        let got := KMap.find { old with bits := 0, sc := [] } v.held n
        v.setV n { got with ty := old.ty, s := old.s }
      else v
  else x

/-- A write of ERRACC of a core. -/
def State.writeErracc (s : State) (core v : Nat) : State :=
  let c : CtxId := ⟨core, bitsAt v 8 3⟩
  if (s.ctxAt c).occ = .occupied then s.updCtx c fun x => x.accept (v % 256) else s

/-! ### The registers by offset -/

/-- A port's bit of PORTFAIL is cleared by a MON write of one (R418). -/
def State.clearPorts (s : State) (v : Nat) : State :=
  { s with portfail := (upTo 16).foldl (fun n j => setBit n j (bitAt s.portfail j && !bitAt v j)) 0 }

/-- MBICFG as a write stores it: RDGRP of 0 becomes 1 (R356). -/
def mbiStored (v : Nat) : Nat := if v % 8 = 0 then 1 else v % 8

/-- An aligned 8-byte read of a device register (R126). -/
def State.readDev (s : State) (off : Nat) : Nat :=
  if off < 0x1000 then s.idBlock off
  else if 0x10000 ≤ off && off < 0x10200 then
    let p := s.sdPort ((off - 0x10000) / 0x20)
    match off % 0x20 with
    | 0 => p.va
    | 8 => p.ctl
    | 16 => p.done * 2 ^ 32 + (if p.lost then 2 else 0) + (if p.busy then 1 else 0)
    | _ => 0
  else if 0x30000 ≤ off && off < 0x32000 then KMap.find 0 s.route ((off - 0x30000) / 8)
  else if off = 0x32000 then s.portfail
  else if 0x40000 ≤ off && off < 0x40040 then
    let k := (off - 0x40000) / 8
    (KMap.find none s.mbiNext k).getD (KMap.find 4 s.mbicfg k)
  else if off = 0x50000 then s.bootstat
  else if 0x60000 ≤ off && off < 0x62000 then
    (if s.corePresent ((off - 0x60000) / 8) then s.readAgent (.core ((off - 0x60000) / 8)) else 0)
  else if 0x62000 ≤ off && off < 0x62020 then s.readAgent (.die ((off - 0x62000) / 8))
  else if 0x63000 ≤ off && off < 0x65000 then s.readAgent (.pkg ((off - 0x63000) / 8))
  else if 0x70000 ≤ off && off < 0x70800 then
    let cl := (off - 0x70000) / 8
    if s.clusterPresent cl then (upTo 8).foldl (fun n k => setBit n k (s.session cl k).isSome) 0 else 0
  else if 0x100000 ≤ off then
    match s.logCore ((off - 0x100000) / 0x400) with
    | some c => s.readLog c (off % 0x400)
    | none => 0
  else 0

/-- Packages that a route names and no port reaches are suspected (R418). -/
def State.suspectUnreached (s : State) : State :=
  s.route.foldl (fun (s : State) e =>
    if s.routed e.1 && !s.reached e.1 && e.1 != s.pkgid then s.updAgent (.pkg e.1) fun g => { g with susp := true } else s) s

/-- A write of a route entry (R353); one that leaves only failed ports suspects its package (R418). -/
def State.writeRoute (s : State) (p v : Nat) : State := ({ s with route := KMap.put 0 s.route p (v % 2 ^ 17) } : State).suspectUnreached

/-- A write of MBICFG: it takes effect at the stack's next refresh boundary (R356). -/
def State.writeMbi (s : State) (k v : Nat) : State :=
  { s with mbiNext := KMap.put none s.mbiNext k (some (mbiStored v)) }

/-- A write of CBUKILL (R415). -/
def State.writeCbuKill (s : State) (cl v : Nat) : State :=
  if s.clusterPresent cl && bitAt v 11 then s.cbuKill cl (bitsAt v 8 3) else s

/-- A vector is signalled to the host: a masked one stays pending, as PCI has it (R348, R350). -/
def State.signal (s : State) (v : Nat) : State :=
  if bitAt s.msixMask v then { s with msixPend := setBit s.msixPend v true }
  else { s with out := { s.out with msix := s.out.msix ++ [(s.fc, v)] } }

/-- A write of HIRQ raises a vector (R350). -/
def State.raiseIrq (s : State) (v : Nat) : State := s.signal (v % 16)

/-- A write of a device register at a privilege level, MON being 3 (R126 and the registers' own rules). -/
def State.writeDev (s : State) (off v pl : Nat) : State :=
  let mon := decide (pl = 3)
  if 0x10000 ≤ off && off < 0x10200 then
    let k := (off - 0x10000) / 0x20
    match off % 0x20 with
    | 0 => s.setSd k { s.sdPort k with va := bitsAt v 16 40 * 2 ^ 16 }
    | 8 => s.writeSdCtl k v
    | 16 => if bitAt v 1 then s.setSd k { s.sdPort k with lost := false } else s
    | _ => s
  else if off = 0x20000 then s.raiseIrq v
  else if 0x30000 ≤ off && off < 0x32000 then (if mon then s.writeRoute ((off - 0x30000) / 8) v else s)
  else if off = 0x32000 then (if mon then s.clearPorts v else s)
  else if 0x40000 ≤ off && off < 0x40040 then (if mon then s.writeMbi ((off - 0x40000) / 8) v else s)
  else if 0x60000 ≤ off && off < 0x62000 then (if mon then s.writeAgent (.core ((off - 0x60000) / 8)) v else s)
  else if 0x62000 ≤ off && off < 0x62020 then (if mon then s.writeAgent (.die ((off - 0x62000) / 8)) v else s)
  else if 0x63000 ≤ off && off < 0x65000 then (if mon then s.writeAgent (.pkg ((off - 0x63000) / 8)) v else s)
  else if 0x70000 ≤ off && off < 0x70800 then s.writeCbuKill ((off - 0x70000) / 8) v
  else if 0x100000 ≤ off then
    match s.logCore ((off - 0x100000) / 0x400) with
    | some c =>
      if off % 0x400 = 0 then s.writeCons c v
      else if off % 0x400 = 0x10 then s.writeErracc c v
      else s
    | none => s
  else s

end Sys2Proof.Machine
end

