-- ==== Sys2Proof/Machine/Scalar.lean ====
section
/-! DEFINITION. Integer register instructions (R209 to R214). -/
namespace Sys2Proof.Machine

/-! ### Shapes of instructions -/

/-- A scalar destination as an operand. -/
def dstX (d : Reg) : Opd := .x d.toNat false

/-- One register from two. -/
def binary (d : Reg) (a b : Src) (f : Word → Word → Word) : M Unit := do
  operands [srcX a, srcX b] [dstX d]
  writeX d (f (← readX a) (← readX b))
  advance

/-- One register from one. -/
def unary (d : Reg) (a : Src) (f : Word → Word) : M Unit := do
  operands [srcX a] [dstX d]
  writeX d (f (← readX a))
  advance

/-- A register from nothing that is read. -/
def constant (d : Reg) (v : State → Word) : M Unit := do
  operands [] [dstX d]
  writeX d (v (← get))
  advance

/-! ### Functions of words -/

/-- 1 or 0. -/
def ofBool (b : Bool) : Word := if b then 1 else 0

/-- The shift count of R209: the low six bits. -/
def shCount (b : Word) : Nat := b.toNat % 64

/-- Signed order. -/
def slt' (a b : Word) : Bool := decide (a.toInt < b.toInt)

/-- Quotient of R103: rounded toward zero; all ones for a zero divisor; the overflow case wraps. -/
def divS (a b : Word) : Word := if b = 0 then BitVec.allOnes 64 else BitVec.ofInt 64 (a.toInt.tdiv b.toInt)
/-- Unsigned quotient. -/
def divU (a b : Word) : Word := if b = 0 then BitVec.allOnes 64 else BitVec.ofNat 64 (a.toNat / b.toNat)
/-- Remainder of R103: the sign of the dividend; the dividend for a zero divisor. -/
def remS (a b : Word) : Word := if b = 0 then a else BitVec.ofInt 64 (a.toInt.tmod b.toInt)
/-- Unsigned remainder. -/
def remU (a b : Word) : Word := if b = 0 then a else BitVec.ofNat 64 (a.toNat % b.toNat)

/-- Zeros above the highest one bit of `w` bits. -/
def clzN (w v : Nat) : Nat := if v % 2 ^ w = 0 then w else w - 1 - Nat.log2 (v % 2 ^ w)

/-- Zeros below the lowest one bit; 64 for zero. -/
def ctz (a : Word) : Nat := ((upTo 64).find? fun k => bitAt a.toNat k).getD 64

/-- One bits among the low `w`. -/
def popN (w v : Nat) : Nat := ((upTo w).filter fun k => bitAt v k).length

/-- Bit i to bit 63 - i. -/
def brev (a : Word) : Word := wd ((upTo 64).foldl (fun n k => n + (if bitAt a.toNat k then 2 ^ (63 - k) else 0)) 0)

/-- Byte i to byte 7 - i. -/
def bswap (a : Word) : Word :=
  wd ((upTo 8).foldl (fun n k => n + a.toNat / 256 ^ k % 256 * 256 ^ (7 - k)) 0)

/-- The width of SEXT in bits. -/
def sextBits : SextW → Nat
  | .w8 => 8
  | .w16 => 16
  | .w32 => 32

/-! ### OP 0x10 (R209) -/

/-- ADD (R209). -/
def execAdd (d : Reg) (a b : Src) (s : State) : Host.Outcome State Fault Refusal :=
  issue (binary d a b fun x y => x + y) s

/-- SUB (R209). -/
def execSub (d : Reg) (a b : Src) (s : State) : Host.Outcome State Fault Refusal :=
  issue (binary d a b fun x y => x - y) s

/-- AND (R209). -/
def execAnd (d : Reg) (a b : Src) (s : State) : Host.Outcome State Fault Refusal :=
  issue (binary d a b fun x y => x &&& y) s

/-- OR (R209). -/
def execOr (d : Reg) (a b : Src) (s : State) : Host.Outcome State Fault Refusal :=
  issue (binary d a b fun x y => x ||| y) s

/-- XOR (R209). -/
def execXor (d : Reg) (a b : Src) (s : State) : Host.Outcome State Fault Refusal :=
  issue (binary d a b fun x y => x ^^^ y) s

/-- ANDN (R209). -/
def execAndn (d : Reg) (a b : Src) (s : State) : Host.Outcome State Fault Refusal :=
  issue (binary d a b fun x y => x &&& ~~~y) s

/-- SHL (R209). -/
def execShl (d : Reg) (a b : Src) (s : State) : Host.Outcome State Fault Refusal :=
  issue (binary d a b fun x y => x <<< shCount y) s

/-- SHR (R209). -/
def execShr (d : Reg) (a b : Src) (s : State) : Host.Outcome State Fault Refusal :=
  issue (binary d a b fun x y => x >>> shCount y) s

/-- SHRA (R209). -/
def execShra (d : Reg) (a b : Src) (s : State) : Host.Outcome State Fault Refusal :=
  issue (binary d a b fun x y => x.sshiftRight (shCount y)) s

/-- MIN (R209). -/
def execMin (d : Reg) (a b : Src) (s : State) : Host.Outcome State Fault Refusal :=
  issue (binary d a b fun x y => if slt' y x then y else x) s

/-- MAX (R209). -/
def execMax (d : Reg) (a b : Src) (s : State) : Host.Outcome State Fault Refusal :=
  issue (binary d a b fun x y => if slt' x y then y else x) s

/-- MINN (R209). -/
def execMinn (d : Reg) (a b : Src) (s : State) : Host.Outcome State Fault Refusal :=
  issue (binary d a b fun x y => if y.toNat < x.toNat then y else x) s

/-- MAXN (R209). -/
def execMaxn (d : Reg) (a b : Src) (s : State) : Host.Outcome State Fault Refusal :=
  issue (binary d a b fun x y => if x.toNat < y.toNat then y else x) s

/-- SLT (R209). -/
def execSlt (d : Reg) (a b : Src) (s : State) : Host.Outcome State Fault Refusal :=
  issue (binary d a b fun x y => ofBool (slt' x y)) s

/-- SLTN (R209). -/
def execSltn (d : Reg) (a b : Src) (s : State) : Host.Outcome State Fault Refusal :=
  issue (binary d a b fun x y => ofBool (decide (x.toNat < y.toNat))) s

/-- SEQ (R209). -/
def execSeq (d : Reg) (a b : Src) (s : State) : Host.Outcome State Fault Refusal :=
  issue (binary d a b fun x y => ofBool (x == y)) s

/-! ### OP 0x11 (R210) -/

/-- MUL (R210). -/
def execMul (d : Reg) (a b : Src) (s : State) : Host.Outcome State Fault Refusal :=
  issue (binary d a b fun x y => x * y) s

/-- MULH (R210). -/
def execMulh (d : Reg) (a b : Src) (s : State) : Host.Outcome State Fault Refusal :=
  issue (binary d a b fun x y => BitVec.ofInt 64 (x.toInt * y.toInt / 2 ^ 64)) s

/-- MULHN (R210). -/
def execMulhn (d : Reg) (a b : Src) (s : State) : Host.Outcome State Fault Refusal :=
  issue (binary d a b fun x y => BitVec.ofNat 64 (x.toNat * y.toNat / 2 ^ 64)) s

/-- DIV (R103, R210). -/
def execDiv (d : Reg) (a b : Src) (s : State) : Host.Outcome State Fault Refusal :=
  issue (binary d a b divS) s

/-- DIVN (R103, R210). -/
def execDivn (d : Reg) (a b : Src) (s : State) : Host.Outcome State Fault Refusal :=
  issue (binary d a b divU) s

/-- REM (R103, R210). -/
def execRem (d : Reg) (a b : Src) (s : State) : Host.Outcome State Fault Refusal :=
  issue (binary d a b remS) s

/-- REMN (R103, R210). -/
def execRemn (d : Reg) (a b : Src) (s : State) : Host.Outcome State Fault Refusal :=
  issue (binary d a b remU) s

/-! ### OP 0x12 (R211) -/

/-- CLZ (R211). -/
def execClz (d : Reg) (a : Src) (s : State) : Host.Outcome State Fault Refusal :=
  issue (unary d a fun x => wd (clzN 64 x.toNat)) s

/-- CTZ (R211). -/
def execCtz (d : Reg) (a : Src) (s : State) : Host.Outcome State Fault Refusal :=
  issue (unary d a fun x => wd (ctz x)) s

/-- POPC (R211). -/
def execPopc (d : Reg) (a : Src) (s : State) : Host.Outcome State Fault Refusal :=
  issue (unary d a fun x => wd (popN 64 x.toNat)) s

/-- BREV (R211). -/
def execBrev (d : Reg) (a : Src) (s : State) : Host.Outcome State Fault Refusal :=
  issue (unary d a brev) s

/-- BSWAP (R211). -/
def execBswap (d : Reg) (a : Src) (s : State) : Host.Outcome State Fault Refusal :=
  issue (unary d a bswap) s

/-- SEXT (R211). -/
def execSext (w : SextW) (d : Reg) (a : Src) (s : State) : Host.Outcome State Fault Refusal :=
  issue (unary d a fun x => wd (ofSigned 64 (toSigned (sextBits w) x.toNat))) s

/-! ### Immediate forms (R212, R213) -/

/-- ADDI (R212). -/
def execAddi (d : Reg) (a : Src) (imm : BitVec 27) (s : State) : Host.Outcome State Fault Refusal :=
  issue (unary d a fun x => x + imm.signExtend 64) s

/-- ANDI (R212). -/
def execAndi (d : Reg) (a : Src) (imm : BitVec 27) (s : State) : Host.Outcome State Fault Refusal :=
  issue (unary d a fun x => x &&& imm.signExtend 64) s

/-- ORI (R212). -/
def execOri (d : Reg) (a : Src) (imm : BitVec 27) (s : State) : Host.Outcome State Fault Refusal :=
  issue (unary d a fun x => x ||| imm.signExtend 64) s

/-- XORI (R212). -/
def execXori (d : Reg) (a : Src) (imm : BitVec 27) (s : State) : Host.Outcome State Fault Refusal :=
  issue (unary d a fun x => x ^^^ imm.signExtend 64) s

/-- SHLI (R212). -/
def execShli (d : Reg) (a : Src) (sh : BitVec 6) (s : State) : Host.Outcome State Fault Refusal :=
  issue (unary d a fun x => x <<< sh.toNat) s

/-- SHRI (R212). -/
def execShri (d : Reg) (a : Src) (sh : BitVec 6) (s : State) : Host.Outcome State Fault Refusal :=
  issue (unary d a fun x => x >>> sh.toNat) s

/-- SHRAI (R212). -/
def execShrai (d : Reg) (a : Src) (sh : BitVec 6) (s : State) : Host.Outcome State Fault Refusal :=
  issue (unary d a fun x => x.sshiftRight sh.toNat) s

/-- SLTI (R212). -/
def execSlti (d : Reg) (a : Src) (imm : BitVec 27) (s : State) : Host.Outcome State Fault Refusal :=
  issue (unary d a fun x => ofBool (slt' x (imm.signExtend 64))) s

/-- SLTNI (R212). -/
def execSltni (d : Reg) (a : Src) (imm : BitVec 27) (s : State) : Host.Outcome State Fault Refusal :=
  issue (unary d a fun x => ofBool (decide (x.toNat < (imm.signExtend 64).toNat))) s

/-- LI (R213). -/
def execLi (d : Reg) (imm : BitVec 48) (s : State) : Host.Outcome State Fault Refusal :=
  issue (constant d fun _ => imm.signExtend 64) s

/-- LEA (R213). -/
def execLea (k : BitVec 2) (d : Reg) (a : Src) (imm : BitVec 27) (s : State) : Host.Outcome State Fault Refusal :=
  issue (unary d a fun x => x + imm.signExtend 64 <<< k.toNat) s

/-- ADDPC (R213). -/
def execAddpc (d : Reg) (imm : BitVec 27) (s : State) : Host.Outcome State Fault Refusal :=
  issue (constant d fun s => wd (s.me.pc / 64 * 64) + imm.signExtend 64) s

/-- SEL (R214). -/
def execSel (d : Reg) (a b c : Src) (s : State) : Host.Outcome State Fault Refusal :=
  issue (do
    operands [srcX a, srcX b, srcX c] [dstX d]
    let x ← readX a
    let y ← readX b
    let z ← readX c
    writeX d (if z ≠ 0 then x else y)
    advance) s

end Sys2Proof.Machine
end

