-- ==== Sys2Proof/Machine/Float.lean ====
section
/-! DEFINITION. Scalar floating-point instructions (R112, R113, R215 to R219). -/
namespace Sys2Proof.Machine

/-- The element type code of a scalar type. -/
def ftyCode : FTy → Nat
  | .f64 => 8
  | .f32 => 9
  | .f16 => 10
  | .bf16 => 11

/-- The element type code of a type of FCVT. -/
def ctyCode : CTy → Nat
  | .f64 => 8
  | .f32 => 9
  | .f16 => 10
  | .bf16 => 11
  | .i64 => 3
  | .n64 => 7
  | .i32 => 2
  | .n32 => 6

/-- The format of a scalar type. -/
def ftyFmt (t : FTy) : Fmt := (fmtOf (ftyCode t)).getD f64

/-- The rounding mode in FCSR.RM (R96). -/
def fcsrMode (fcsr : Nat) : RMode :=
  match bitsAt fcsr 5 3 with
  | 1 => .rtz
  | 2 => .rdn
  | 3 => .rup
  | 4 => .rna
  | 5 => .sr
  | _ => .rne

/-- A mode with DYN replaced (R112). -/
def resolveMode (fcsr : Nat) (m : RMode) : RMode := if m = .dyn then fcsrMode fcsr else m

/-- FCSR.SATN (R96). -/
def fcsrSatn (fcsr : Nat) : Bool := bitAt fcsr 8

/-- The rounding of an arithmetic instruction: SR acts as RNE (R112). -/
def arith (fcsr : Nat) (m : RMode) : Rnd := .plain (resolveMode fcsr m)

/-- Raise flags (R97, R116). -/
def raise (fl : Nat) : M Unit := updMe fun c => { c with fcsr := c.fcsr ||| fl }

/-- The low bits of a register that a type reads (R215). -/
def lowBits (f : Fmt) (v : Word) : Nat := v.toNat % 2 ^ f.width

/-- A result computed with flags from two registers. -/
def float2 (t : FTy) (d : Reg) (a b : Src) (f : Fmt → Nat → Nat → Nat → Nat × Nat) : M Unit := do
  operands [srcX a, srcX b] [dstX d]
  let x := lowBits (ftyFmt t) (← readX a)
  let y := lowBits (ftyFmt t) (← readX b)
  let r := f (ftyFmt t) (← me).fcsr x y
  raise r.2
  writeX d (wd r.1)
  advance

/-- A rounded result of two values. -/
def floatOp (t : FTy) (rm : RMode) (d : Reg) (a b : Src) (f : Fmt → Rnd → Fv → Fv → Nat × Nat) : M Unit :=
  float2 t d a b fun k fcsr x y => f k (arith fcsr rm) (k.read x) (k.read y)

/-- FADD (R216). -/
def execFadd (t : FTy) (rm : RMode) (d : Reg) (a b : Src) (s : State) : Host.Outcome State Fault Refusal :=
  issue (floatOp t rm d a b Fmt.addOp) s

/-- FSUB (R216). -/
def execFsub (t : FTy) (rm : RMode) (d : Reg) (a b : Src) (s : State) : Host.Outcome State Fault Refusal :=
  issue (floatOp t rm d a b fun k r x y => k.addOp r x y.neg) s

/-- FMUL (R216). -/
def execFmul (t : FTy) (rm : RMode) (d : Reg) (a b : Src) (s : State) : Host.Outcome State Fault Refusal :=
  issue (floatOp t rm d a b Fmt.mulOp) s

/-- FDIV (R216). -/
def execFdiv (t : FTy) (rm : RMode) (d : Reg) (a b : Src) (s : State) : Host.Outcome State Fault Refusal :=
  issue (floatOp t rm d a b Fmt.divOp) s

/-- FMIN (R216). -/
def execFmin (t : FTy) (d : Reg) (a b : Src) (s : State) : Host.Outcome State Fault Refusal :=
  issue (float2 t d a b fun k _ x y => k.minmax false x y) s

/-- FMAX (R216). -/
def execFmax (t : FTy) (d : Reg) (a b : Src) (s : State) : Host.Outcome State Fault Refusal :=
  issue (float2 t d a b fun k _ x y => k.minmax true x y) s

/-- FSQRT (R216). -/
def execFsqrt (t : FTy) (rm : RMode) (d : Reg) (a : Src) (s : State) : Host.Outcome State Fault Refusal :=
  issue (do
    operands [srcX a] [dstX d]
    let f := ftyFmt t
    let r := f.sqrtOp (arith (← me).fcsr rm) (f.read (lowBits f (← readX a)))
    raise r.2
    writeX d (wd r.1)
    advance) s

/-! ### Signs, compares, classes (R217) -/

/-- The sign bit of a code. -/
def Fmt.sign (f : Fmt) (x : Nat) : Bool := bitAt x (f.ex + f.fr)

/-- A code with its sign replaced. -/
def Fmt.withSign (f : Fmt) (x : Nat) (neg : Bool) : Nat := f.signed neg (x % 2 ^ (f.ex + f.fr))

/-- A comparison that holds for the given orders, false for NaN; `quiet` raises NV for signalling NaNs only. -/
def Fmt.compare (f : Fmt) (x y : Nat) (quiet : Bool) (ok : Ordering → Bool) : Bool × Nat :=
  let a := f.read x
  let b := f.read y
  if a.isNan || b.isNan then (false, if !quiet || a.isSnan || b.isSnan then flNV else 0)
  else (ok (a.cmp b), 0)

/-- A comparison as a register value. -/
def asBit (r : Bool × Nat) : Nat × Nat := (if r.1 then 1 else 0, r.2)

/-- FSGNJ (R217). -/
def execFsgnj (t : FTy) (d : Reg) (a b : Src) (s : State) : Host.Outcome State Fault Refusal :=
  issue (float2 t d a b fun k _ x y => (k.withSign x (k.sign y), 0)) s

/-- FSGNJN (R217). -/
def execFsgnjn (t : FTy) (d : Reg) (a b : Src) (s : State) : Host.Outcome State Fault Refusal :=
  issue (float2 t d a b fun k _ x y => (k.withSign x (!k.sign y), 0)) s

/-- FSGNJX (R217). -/
def execFsgnjx (t : FTy) (d : Reg) (a b : Src) (s : State) : Host.Outcome State Fault Refusal :=
  issue (float2 t d a b fun k _ x y => (k.withSign x (k.sign x != k.sign y), 0)) s

/-- FEQ (R217). -/
def execFeq (t : FTy) (d : Reg) (a b : Src) (s : State) : Host.Outcome State Fault Refusal :=
  issue (float2 t d a b fun k _ x y => asBit (k.compare x y true fun c => c == .eq)) s

/-- FLT (R217). -/
def execFlt (t : FTy) (d : Reg) (a b : Src) (s : State) : Host.Outcome State Fault Refusal :=
  issue (float2 t d a b fun k _ x y => asBit (k.compare x y false fun c => c == .lt)) s

/-- FLE (R217). -/
def execFle (t : FTy) (d : Reg) (a b : Src) (s : State) : Host.Outcome State Fault Refusal :=
  issue (float2 t d a b fun k _ x y => asBit (k.compare x y false fun c => c != .gt)) s

/-- FCLASS (R217). -/
def execFclass (t : FTy) (d : Reg) (a : Src) (s : State) : Host.Outcome State Fault Refusal :=
  issue (unary d a fun x => wd (2 ^ (ftyFmt t).classOf (lowBits (ftyFmt t) x))) s

/-! ### Fused products (R218) -/

/-- A fused product of three registers. -/
def fused (t : FTy) (rm : RMode) (d : Reg) (a b c : Src) (f : Fmt → Rnd → Fv → Fv → Fv → Nat × Nat) : M Unit := do
  operands [srcX a, srcX b, srcX c] [dstX d]
  let k := ftyFmt t
  let x := k.read (lowBits k (← readX a))
  let y := k.read (lowBits k (← readX b))
  let z := k.read (lowBits k (← readX c))
  let r := f k (arith (← me).fcsr rm) x y z
  raise r.2
  writeX d (wd r.1)
  advance

/-- FMADD (R218). -/
def execFmadd (t : FTy) (rm : RMode) (d : Reg) (a b c : Src) (s : State) : Host.Outcome State Fault Refusal :=
  issue (fused t rm d a b c fun k r x y z => k.fmaOp r x y z false) s

/-- FMSUB (R218). -/
def execFmsub (t : FTy) (rm : RMode) (d : Reg) (a b c : Src) (s : State) : Host.Outcome State Fault Refusal :=
  issue (fused t rm d a b c fun k r x y z => k.fmaOp r x y z.neg false) s

/-- FNMADD (R218). -/
def execFnmadd (t : FTy) (rm : RMode) (d : Reg) (a b c : Src) (s : State) : Host.Outcome State Fault Refusal :=
  issue (fused t rm d a b c fun k r x y z => k.fmaOp r x y z true) s

/-! ### FCVT (R219) -/

/-- The exact value of an element or register of a type. -/
def codeValue (ty bits : Nat) : Fv := elemValue ty (bits % 2 ^ tyWidth ty)

/-- A conversion: code, flags, generator after it. -/
def convert (src dst : Nat) (mode : RMode) (satn : Bool) (seed bits : Nat) : Nat × Nat × Nat :=
  let v := codeValue src bits
  let draw := mode == .sr && narrowing src dst false && v.isFin
  let seed := if draw then srStep seed else seed
  let r : Rnd := if draw then ⟨.sr, seed, elemLsb src (bits % 2 ^ tyWidth src)⟩ else .plain mode
  let (c, fl) := putValue dst v r (.convert satn)
  (c, fl, seed)

/-- FCVT (R219). -/
def execFcvt (dt st : CTy) (rm : RMode) (d : Reg) (a : Src) (s : State) : Host.Outcome State Fault Refusal :=
  issue (do
    operands [srcX a] [dstX d]
    let c ← me
    let x ← readX a
    let r := convert (ctyCode st) (ctyCode dt) (resolveMode c.fcsr rm) (fcsrSatn c.fcsr) c.seed x.toNat
    raise r.2.1
    updMe fun c => { c with seed := r.2.2 }
    writeX d (if dt = .i32 then wd (ofSigned 64 (toSigned 32 r.1)) else wd r.1)
    advance) s

end Sys2Proof.Machine
end

