-- ==== Sys2Proof/WellFormed.lean ====
section
/-! DEFINITION. Which terms of `Instr` stand for a legal encoding (R187, R188, R190, R220, R238, R261, R281, R323, R386).
An event is no encoding and is well formed as it stands. -/
namespace Sys2Proof

/-- ME = 0 leaves MK and MZ zero (R187). -/
def MaskF.wf (m : MaskF) : Bool := m.me || (m.mr == 0 && !m.mz)

/-- The mask fields of a form without MZ (R187, R238). -/
def maskWf (me : Bool) (mk : BitVec 3) : Bool := me || mk == 0

/-- A vector destination that is no load queue (R187). -/
def VDst.notQueue : VDst → Bool
  | .q _ => false
  | _ => true

/-- An operand that is no broadcast (R261). -/
def VOp.notBc : VOp → Bool
  | .bc _ => false
  | _ => true

/-- A broadcast form leaves the mask fields zero (R232, R323). -/
def bcMask (a : VSrc) (me : Bool) (mk : BitVec 3) : Bool :=
  maskWf me mk && (a.op.notBc || (!me && mk == 0))

/-- A destination format of VQNT (R238). -/
def vqntTy (t : BitVec 4) : Bool := t == 0 || t == 12 || t == 13 || t == 14 || t == 15

/-- A slot format of SLLOAD (R281). -/
def slFmt (t : BitVec 4) : Bool := t == 0 || t.toNat ≥ 10

/-- The classes of R272: 1 for 8-bit float, 2 for I8, 3 for 16-bit, 4 for 4-bit, 0 for an illegal pair. -/
def opaClass (a b : BitVec 4) : Nat :=
  let f8 (t : BitVec 4) : Bool := t == 12 || t == 13
  let f4 (t : BitVec 4) : Bool := t == 14 || t == 15
  if f8 a && f8 b then 1
  else if a == 0 && b == 0 then 2
  else if (a == 10 && b == 10) || (a == 11 && b == 11) then 3
  else if f4 a && f4 b then 4
  else 0

/-- The unbind form of WMBIND leaves every other field zero (R233). -/
def wmbindWf (sc : Scope) (a b : Src) (h : BitVec 6) : Bool :=
  a.r != 0 || (!a.f && b.r == 0 && !b.f && h == 0 && sc == .cl)

/-- An integer type of FCVT. -/
def CTy.isInt : CTy → Bool
  | .f64 | .f32 | .f16 | .bf16 => false
  | .i64 | .n64 | .i32 | .n32 => true
/-- The legal pairs of FCVT (R219). -/
def fcvtPair (dt st : CTy) : Bool := dt != st && !(dt.isInt && st.isInt)

/-- Well-formed instructions. -/
def WellFormed : Instr → Bool
  | .fcvt dt st _ _ _ => fcvtPair dt st
  | .waitvAny _ a me mk | .waitvAll _ a me mk => bcMask a me mk
  | .wmbind _ sc a b h => wmbindWf sc a b h
  | .setvl _ g _ _ => decide (g.toNat ≤ 6)
  | .vadd d _ _ m | .vsub d _ _ m | .vmul d _ _ m | .vdiv d _ _ m | .vmin d _ _ m | .vmax d _ _ m
  | .vand d _ _ m | .vor d _ _ m | .vxor d _ _ m | .vshl d _ _ m | .vshr d _ _ m | .vshra d _ _ m
  | .vsadd d _ _ m | .vssub d _ _ m | .vmulh d _ _ m | .vperm d _ _ m => d.notQueue && m.wf
  | .vmadd _ d _ _ _ m | .vmsub _ d _ _ _ m | .vnmadd _ d _ _ _ m => d.notQueue && m.wf
  | .vneg d _ m | .vabs d _ m | .vsqrt d _ m | .vrcp d _ m | .vrsq d _ m | .vexp2 d _ m | .vlog2 d _ m
  | .vnot d _ m | .vclz d _ m | .vpopc d _ m => d.notQueue && m.wf
  | .vcmpEq _ _ _ m | .vcmpNe _ _ _ m | .vcmpLt _ _ _ m | .vcmpLe _ _ _ m => m.wf
  | .vsel d _ _ _ => d.notQueue
  | .vcvt dt _ d _ m => d.notQueue && m.wf && dt != 15
  | .vqnt dt _ d _ => d.notQueue && vqntTy dt
  | .vredSum _ _ _ me mk | .vredMax _ _ _ me mk | .vredMin _ _ _ me mk | .vredAnd _ _ _ me mk
  | .vredOr _ _ _ me mk | .vreds _ _ _ me mk | .vdot _ _ _ _ me mk => maskWf me mk
  | .vslideUp d _ _ m | .vslideDn d _ _ m => d.notQueue && m.wf
  | .vins d _ _ _ => d.notQueue
  | .vbcast _ _ me mk | .viota _ me mk => maskWf me mk
  | .mand _ _ _ m | .mor _ _ _ m | .mxor _ _ _ m | .mnot _ _ m | .mset _ _ m => m.wf
  | .mpop _ _ me mk | .mfirst _ _ me mk => maskWf me mk
  | .vscget d _ _ => d.notQueue
  | .vcompress d _ me mk | .vexpand d _ me mk => d.notQueue && maskWf me mk
  | .vld _ _ _ _ m _ | .vlds _ _ _ _ _ m _ | .vldff _ _ _ _ m _ => m.wf
  | .vst _ _ b m | .vsts _ _ b _ m | .vstx _ _ b _ m | .vstt b _ m => m.wf && b.op.notBc
  | .vldx _ _ _ _ b m _ => m.wf && b.op.notBc
  | .vldt _ _ _ me mk _ => maskWf me mk
  | .slclaim a b | .slfree a b => decide (a.toNat ≤ b.toNat)
  | .slloadRow f _ _ _ _ _ | .slloadCol f _ _ _ _ _ => slFmt f
  | .mop _ _ _ fa fb _ => opaClass fa fb != 0
  | .mops _ _ _ fa fb => opaClass fa fb == 1 || opaClass fa fb == 4
  | .mrd d _ me mk => d.notQueue && maskWf me mk
  | .mwr _ _ me mk => maskWf me mk
  | .cbdone a _ me mk => bcMask a me mk
  | _ => true

end Sys2Proof
end

