-- ==== Sys2Proof/Decode.lean ====
section
/-! DEFINITION. Instruction words: the families of R184, the opcode map of R189, the illegal encodings of R190 and R386.
A word is the head in bits 15..0 with the tail above it, as TRAPVAL of ILLEGAL_OP lays them out (R190). -/
namespace Sys2Proof

/-- Why an encoding is illegal (the list of R190). -/
inductive Reject
  | reservedOp
  | badLength
  | badVariant
  | nonzeroField
  | reservedCode
  | badOperand
  | badQuad
  deriving DecidableEq, Repr

/-- What a word decodes to. -/
inductive Decoded
  | instr (i : Instr)
  | illegal (why : Reject)
  deriving DecidableEq, Repr

/-- Lay fields out from bit 0 up, each value in its width. -/
def packFields : List Nat → List Nat → Nat
  | w :: ws, v :: vs => v % 2 ^ w + 2 ^ w * packFields ws vs
  | _, _ => 0

/-- Read fields of the given widths from bit 0 up. -/
def unpackFields : List Nat → Nat → List Nat
  | [], _ => []
  | w :: ws, n => n % 2 ^ w :: unpackFields ws (n / 2 ^ w)

/-- Head: T, OP, D (R183). -/
def layHead : List Nat := [2, 7, 7]
/-- Tail of family S: A, B, FA, FB, F6 (R184). -/
def layS : List Nat := [4, 4, 1, 1, 6]
/-- Tail of family V1: SA, FA, MK, ME, F5. -/
def layV1 : List Nat := [6, 1, 3, 1, 5]
/-- Tail of family I: A, FA, imm27. -/
def layI : List Nat := [4, 1, 27]
/-- Tail of family M: A, FA, size, imm24. -/
def layM : List Nat := [4, 1, 3, 24]
/-- Tail of family V: SA, SB, SC, FA, FB, FC, MK, ME, MZ, F6. -/
def layV : List Nat := [6, 6, 6, 1, 1, 1, 3, 1, 1, 6]
/-- Tail of family MX: slot A, slot B, tile, K, FK, format A, format B, F5. -/
def layMX : List Nat := [6, 6, 2, 4, 1, 4, 4, 5]
/-- Tail of family B: A, B, FA, FB, cond, zero, imm32. -/
def layB : List Nat := [4, 4, 1, 1, 3, 3, 32]
/-- Tail of family VM: A, FA, SB, FB, X, FX, MK, ME, MZ, scope, WM, w, F5, imm16. -/
def layVM : List Nat := [4, 1, 6, 1, 4, 1, 3, 1, 1, 2, 1, 2, 5, 16]
/-- Tail of family E: A, FA, B, FB, C, FC, zero, F6, imm10, imm16. -/
def layE : List Nat := [4, 1, 4, 1, 4, 1, 1, 6, 10, 16]
/-- D of the families with a sub field: xd, sub. -/
def layD : List Nat := [4, 3]
/-- D of family M: xd or store source, FS, scope. -/
def layDM : List Nat := [4, 1, 2]
/-- D of families V, V1 and VM: vd, WB. -/
def layDV : List Nat := [6, 1]

/-! ### Codes of the enumerated fields -/

/-- Scope codes (R149). -/
def Scope.code : Scope → Nat
  | .cl => 0 | .di => 1 | .pk => 2 | .sy => 3
/-- The scope of a code. -/
def Scope.of (n : Nat) : Scope :=
  match n % 4 with
  | 0 => .cl | 1 => .di | 2 => .pk | _ => .sy

/-- Rounding codes (R112). -/
def RMode.code : RMode → Nat
  | .rne => 0 | .rtz => 1 | .rdn => 2 | .rup => 3 | .rna => 4 | .sr => 5 | .dyn => 6
/-- The mode of a code; 111 is reserved. -/
def RMode.of : Nat → Option RMode
  | 0 => some .rne | 1 => some .rtz | 2 => some .rdn | 3 => some .rup | 4 => some .rna | 5 => some .sr
  | 6 => some .dyn | _ => none

/-- Scalar floating-point type codes (R215). -/
def FTy.code : FTy → Nat
  | .f64 => 0 | .f32 => 1 | .f16 => 2 | .bf16 => 3
/-- The type of a code; 4 to 7 are illegal. -/
def FTy.of : Nat → Option FTy
  | 0 => some .f64 | 1 => some .f32 | 2 => some .f16 | 3 => some .bf16 | _ => none

/-- FCVT type codes (R215). -/
def CTy.code : CTy → Nat
  | .f64 => 0 | .f32 => 1 | .f16 => 2 | .bf16 => 3 | .i64 => 4 | .n64 => 5 | .i32 => 6 | .n32 => 7
/-- The FCVT type of a code. -/
def CTy.of : Nat → Option CTy
  | 0 => some .f64 | 1 => some .f32 | 2 => some .f16 | 3 => some .bf16 | 4 => some .i64 | 5 => some .n64
  | 6 => some .i32 | 7 => some .n32 | _ => none
/-- Access size codes (R184). -/
def MSize.code : MSize → Nat
  | .i8 => 0 | .i16 => 1 | .i32 => 2 | .i64 => 3 | .n8 => 4 | .n16 => 5 | .n32 => 6
/-- The size of a code; 111 is reserved. -/
def MSize.of : Nat → Option MSize
  | 0 => some .i8 | 1 => some .i16 | 2 => some .i32 | 3 => some .i64 | 4 => some .n8 | 5 => some .n16
  | 6 => some .n32 | _ => none

/-- Store size codes (R220). -/
def SSize.code : SSize → Nat
  | .i8 => 0 | .i16 => 1 | .i32 => 2 | .i64 => 3
/-- The store size of a code; the N codes are illegal. -/
def SSize.of : Nat → Option SSize
  | 0 => some .i8 | 1 => some .i16 | 2 => some .i32 | 3 => some .i64 | _ => none

/-- SEXT width codes (R211). -/
def SextW.code : SextW → Nat
  | .w8 => 0 | .w16 => 1 | .w32 => 2
/-- The SEXT width of a code. -/
def SextW.of : Nat → Option SextW
  | 0 => some .w8 | 1 => some .w16 | 2 => some .w32 | _ => none

/-- ORD in bits 3..2 and the scope in bits 1..0 of an AMO's imm10 (R220). -/
def AOrd.code : AOrd → Nat
  | .rlx => 0 | .acq s => 4 + s.code | .rel s => 8 + s.code | .ar s => 12 + s.code
/-- The ordering of a code; RLX takes no scope. -/
def AOrd.of (n : Nat) : Option AOrd :=
  match n / 4 with
  | 0 => if n = 0 then some .rlx else none
  | 1 => some (.acq (Scope.of n))
  | 2 => some (.rel (Scope.of n))
  | 3 => some (.ar (Scope.of n))
  | _ => none

/-- The first register of a quad (R188). -/
def Quad.code : Quad → Nat
  | .x4 => 4 | .x8 => 8 | .x12 => 12
/-- The quad that a register field names. -/
def Quad.of : Nat → Option Quad
  | 4 => some .x4 | 8 => some .x8 | 12 => some .x12 | _ => none

/-- Kinds of GETID (R312). -/
def IdKind.code : IdKind → Nat
  | .tid => 0 | .core => 1 | .clus => 2 | .pkg => 3 | .quad => 4 | .berth => 5 | .ident => 6
/-- The kind of a code. -/
def IdKind.of : Nat → Option IdKind
  | 0 => some .tid | 1 => some .core | 2 => some .clus | 3 => some .pkg | 4 => some .quad | 5 => some .berth
  | 6 => some .ident | _ => none

/-- Vector operand specifiers (R186). -/
def VOp.code : VOp → Nat
  | .v n => n.toNat | .pop n => 32 + n.toNat | .peek n => 36 + n.toNat | .l0 => 40 | .l1 => 41
  | .bc r => 48 + r.toNat
/-- The operand of a specifier; 42 to 47 are reserved. -/
def VOp.of (n : Nat) : Option VOp :=
  if n < 32 then some (.v (BitVec.ofNat 5 n))
  else if n < 36 then some (.pop (BitVec.ofNat 2 (n - 32)))
  else if n < 40 then some (.peek (BitVec.ofNat 2 (n - 36)))
  else if n = 40 then some .l0
  else if n = 41 then some .l1
  else if n < 48 then none
  else if n < 64 then some (.bc (BitVec.ofNat 4 (n - 48)))
  else none

/-- WB and vd of a vector destination (R187). -/
def VDst.code : VDst → Nat
  | .v n => 64 + n.toNat | .q n => 96 + n.toNat | .last => 0
/-- The destination of a D field; `queues` says whether q0 to q3 are allowed. -/
def VDst.of (queues : Bool) (d : Nat) : Option VDst :=
  if d = 0 then some .last
  else if d < 64 then none
  else if d < 96 then some (.v (BitVec.ofNat 5 (d - 64)))
  else if d < 100 && queues then some (.q (BitVec.ofNat 2 (d - 96)))
  else none

/-- A flag as a one-bit field. -/
def flag (b : Bool) : Nat := if b then 1 else 0

/-- A register field. -/
def reg (n : Nat) : Reg := BitVec.ofNat 4 n

/-- A register field with its F bit. -/
def srcOf (r f : Nat) : Src := ⟨reg r, f == 1⟩

/-! ### Encoding -/

/-- A word from its T, OP and D fields and its tail (R183). -/
def word (t op d tail : Nat) : Nat := packFields layHead [t, op, d] + 65536 * tail

/-- A D field from xd and sub. -/
def dSub (xd : Reg) (sub : Nat) : Nat := packFields layD [xd.toNat, sub]

/-- Family N. -/
def encN (op : Nat) : Nat := word 0 op 0 0
/-- Family J. -/
def encJ (op : Nat) (imm : BitVec 32) : Nat := word 2 op 0 imm.toNat
/-- Family S with two sources. -/
def encS (op d f6 : Nat) (a b : Src) : Nat :=
  word 1 op d (packFields layS [a.r.toNat, b.r.toNat, flag a.f, flag b.f, f6])
/-- A field that holds a code and no register. -/
def codeSrc (n : Nat) : Src := ⟨BitVec.ofNat 4 n, false⟩
/-- Family I. -/
def encI (op d : Nat) (a : Src) (imm : Nat) : Nat :=
  word 2 op d (packFields layI [a.r.toNat, flag a.f, imm])
/-- Family M: `x` is xd with FS = 0, or the store source with FS. -/
def encM (op : Nat) (sc : Nat) (x : Src) (a : Src) (size : Nat) (imm : BitVec 24) : Nat :=
  word 2 op (packFields layDM [x.r.toNat, flag x.f, sc]) (packFields layM [a.r.toNat, flag a.f, size, imm.toNat])
/-- Family B. -/
def encB (op cond : Nat) (a b : Src) (imm : BitVec 32) : Nat :=
  word 3 op 0 (packFields layB [a.r.toNat, b.r.toNat, flag a.f, flag b.f, cond, 0, imm.toNat])
/-- Family L. -/
def encL (op : Nat) (d : Reg) (imm : BitVec 48) : Nat := word 3 op (dSub d 0) imm.toNat
/-- Family E. -/
def encE (op d f6 imm10 : Nat) (imm16 : BitVec 16) (a b c : Src) : Nat :=
  word 3 op d (packFields layE [a.r.toNat, flag a.f, b.r.toNat, flag b.f, c.r.toNat, flag c.f, 0, f6, imm10,
    imm16.toNat])
/-- Family V1. -/
def encV1 (op d f5 : Nat) (sa fa : Nat) (me : Bool) (mk : BitVec 3) : Nat :=
  word 1 op d (packFields layV1 [sa, fa, mk.toNat, flag me, f5])
/-- Family V, with specifiers and F bits as numbers. -/
def encV (op d f6 : Nat) (sa fa sb fb sc fc : Nat) (m : MaskF) : Nat :=
  word 2 op d (packFields layV [sa, sb, sc, fa, fb, fc, m.mr.toNat, flag m.me, flag m.mz, f6])
/-- Family MX. -/
def encMX (op f5 : Nat) (sa sb : BitVec 6) (tile : BitVec 2) (k : Src) (fa fb : Nat) : Nat :=
  word 2 op 0 (packFields layMX [sa.toNat, sb.toNat, tile.toNat, k.r.toNat, flag k.f, fa, fb, f5])
/-- Family VM. -/
def encVM (op d f5 : Nat) (a : Src) (sb fb : Nat) (x : Src) (m : MaskF) (wm : Option (BitVec 2)) (imm : BitVec 16) :
    Nat :=
  word 3 op d (packFields layVM [a.r.toNat, flag a.f, sb, fb, x.r.toNat, flag x.f, m.mr.toNat, flag m.me, flag m.mz,
    0, flag wm.isSome, (wm.getD 0).toNat, f5, imm.toNat])

/-- No source: the field and its F bit are zero. -/
def noSrc : Src := ⟨0, false⟩
/-- No mask. -/
def noMask : MaskF := ⟨false, 0, false⟩
/-- The mask of a form without MZ. -/
def mask2 (me : Bool) (mk : BitVec 3) : MaskF := ⟨me, mk, false⟩
/-- The rounding mode in F6[5:3] with a variant in F6[2:0] (R189). -/
def rmF6 (rm : RMode) (v : Nat) : Nat := 8 * rm.code + v
/-- A broadcast specifier (R186). -/
def bcOf (r : Reg) : Nat := 48 + r.toNat

/-- A two-source scalar operation. -/
def encAlu (op f6 : Nat) (d : Reg) (a b : Src) : Nat := encS op (dSub d 0) f6 a b
/-- A scalar floating-point operation. -/
def encFp (op f6 : Nat) (t : FTy) (d : Reg) (a b : Src) : Nat := encS op (dSub d t.code) f6 a b
/-- A fused scalar operation. -/
def encFma (v : Nat) (t : FTy) (rm : RMode) (d : Reg) (a b c : Src) : Nat :=
  encE 0x2A (dSub d 0) (rmF6 rm v) t.code 0 a b c
/-- An AMO. -/
def encAmo (v : Nat) (w : Bool) (o : AOrd) (d : Reg) (a : Src) (off : BitVec 16) (b c : Src) : Nat :=
  encE 0x34 (dSub d 0) v (o.code + 16 * flag w) off a b c
/-- A lock instruction. -/
def encLock (op : Nat) (sc : Scope) (d : Reg) (a : Src) (off : BitVec 24) : Nat :=
  encM op sc.code ⟨d, false⟩ a 3 off
/-- A two-source vector operation. -/
def encV2 (op f6 : Nat) (d : VDst) (a b : VSrc) (m : MaskF) : Nat :=
  encV op d.code f6 a.op.code (flag a.f) b.op.code (flag b.f) 0 0 m
/-- A three-source vector operation. -/
def encV3 (op f6 : Nat) (d : VDst) (a b c : VSrc) (m : MaskF) : Nat :=
  encV op d.code f6 a.op.code (flag a.f) b.op.code (flag b.f) c.op.code (flag c.f) m
/-- A one-source vector operation. -/
def encVu (op f6 : Nat) (d : VDst) (a : VSrc) (m : MaskF) : Nat :=
  encV op d.code f6 a.op.code (flag a.f) 0 0 0 0 m

/-- The word of an instruction; an event has none. -/
def encode : Instr → Option Nat
  | .nop => some (encN 0x00)
  | .br i => some (encJ 0x01 i)
  | .call i => some (encJ 0x02 i)
  | .jr a => some (encS 0x03 (dSub 0 0) 0 a noSrc)
  | .callr a => some (encS 0x03 (dSub 0 1) 0 a noSrc)
  | .ret => some (encS 0x03 (dSub 0 2) 0 noSrc noSrc)
  | .bccEq a b i => some (encB 0x04 0 a b i)
  | .bccNe a b i => some (encB 0x04 1 a b i)
  | .bccLt a b i => some (encB 0x04 2 a b i)
  | .bccGe a b i => some (encB 0x04 3 a b i)
  | .bccLtn a b i => some (encB 0x04 4 a b i)
  | .bccGen a b i => some (encB 0x04 5 a b i)
  | .bz a i => some (encB 0x05 0 a noSrc i)
  | .bnz a i => some (encB 0x05 1 a noSrc i)
  | .trap i => some (encI 0x06 0 noSrc i.toNat)
  | .tret => some (encN 0x07)
  | .sysr d n => some (encI 0x08 (dSub d 0) noSrc n.toNat)
  | .sysw n a => some (encI 0x09 0 a n.toNat)
  | .halt => some (encN 0x0A)
  | .ifence => some (encN 0x0B)
  | .brk i => some (encI 0x0C 0 noSrc i.toNat)
  | .add d a b => some (encAlu 0x10 0 d a b)
  | .sub d a b => some (encAlu 0x10 1 d a b)
  | .and d a b => some (encAlu 0x10 2 d a b)
  | .or d a b => some (encAlu 0x10 3 d a b)
  | .xor d a b => some (encAlu 0x10 4 d a b)
  | .andn d a b => some (encAlu 0x10 5 d a b)
  | .shl d a b => some (encAlu 0x10 6 d a b)
  | .shr d a b => some (encAlu 0x10 7 d a b)
  | .shra d a b => some (encAlu 0x10 8 d a b)
  | .min d a b => some (encAlu 0x10 9 d a b)
  | .max d a b => some (encAlu 0x10 10 d a b)
  | .minn d a b => some (encAlu 0x10 11 d a b)
  | .maxn d a b => some (encAlu 0x10 12 d a b)
  | .slt d a b => some (encAlu 0x10 13 d a b)
  | .sltn d a b => some (encAlu 0x10 14 d a b)
  | .seq d a b => some (encAlu 0x10 15 d a b)
  | .mul d a b => some (encAlu 0x11 0 d a b)
  | .mulh d a b => some (encAlu 0x11 1 d a b)
  | .mulhn d a b => some (encAlu 0x11 2 d a b)
  | .div d a b => some (encAlu 0x11 3 d a b)
  | .divn d a b => some (encAlu 0x11 4 d a b)
  | .rem d a b => some (encAlu 0x11 5 d a b)
  | .remn d a b => some (encAlu 0x11 6 d a b)
  | .clz d a => some (encAlu 0x12 0 d a noSrc)
  | .ctz d a => some (encAlu 0x12 1 d a noSrc)
  | .popc d a => some (encAlu 0x12 2 d a noSrc)
  | .brev d a => some (encAlu 0x12 3 d a noSrc)
  | .bswap d a => some (encAlu 0x12 4 d a noSrc)
  | .sext w d a => some (encAlu 0x12 5 d a (codeSrc w.code))
  | .addi d a i => some (encI 0x13 (dSub d 0) a i.toNat)
  | .andi d a i => some (encI 0x14 (dSub d 0) a i.toNat)
  | .ori d a i => some (encI 0x15 (dSub d 0) a i.toNat)
  | .xori d a i => some (encI 0x16 (dSub d 0) a i.toNat)
  | .shli d a i => some (encI 0x17 (dSub d 0) a i.toNat)
  | .shri d a i => some (encI 0x17 (dSub d 1) a i.toNat)
  | .shrai d a i => some (encI 0x17 (dSub d 2) a i.toNat)
  | .slti d a i => some (encI 0x18 (dSub d 0) a i.toNat)
  | .sltni d a i => some (encI 0x19 (dSub d 0) a i.toNat)
  | .li d i => some (encL 0x1A d i)
  | .lea k d a i => some (encI 0x1B (dSub d k.toNat) a i.toNat)
  | .addpc d i => some (encI 0x1C (dSub d 0) noSrc i.toNat)
  | .sel d a b c => some (encE 0x1D (dSub d 0) 0 0 0 a b c)
  | .fadd t rm d a b => some (encFp 0x28 (rmF6 rm 0) t d a b)
  | .fsub t rm d a b => some (encFp 0x28 (rmF6 rm 1) t d a b)
  | .fmul t rm d a b => some (encFp 0x28 (rmF6 rm 2) t d a b)
  | .fdiv t rm d a b => some (encFp 0x28 (rmF6 rm 3) t d a b)
  | .fmin t d a b => some (encFp 0x28 4 t d a b)
  | .fmax t d a b => some (encFp 0x28 5 t d a b)
  | .fsqrt t rm d a => some (encFp 0x28 (rmF6 rm 6) t d a noSrc)
  | .fsgnj t d a b => some (encFp 0x29 0 t d a b)
  | .fsgnjn t d a b => some (encFp 0x29 1 t d a b)
  | .fsgnjx t d a b => some (encFp 0x29 2 t d a b)
  | .feq t d a b => some (encFp 0x29 3 t d a b)
  | .flt t d a b => some (encFp 0x29 4 t d a b)
  | .fle t d a b => some (encFp 0x29 5 t d a b)
  | .fclass t d a => some (encFp 0x29 6 t d a noSrc)
  | .fmadd t rm d a b c => some (encFma 0 t rm d a b c)
  | .fmsub t rm d a b c => some (encFma 1 t rm d a b c)
  | .fnmadd t rm d a b c => some (encFma 2 t rm d a b c)
  | .fcvt dt st rm d a => some (encS 0x2B (dSub d dt.code) (rmF6 rm 0) a (codeSrc st.code))
  | .ld z d a off => some (encM 0x30 0 ⟨d, false⟩ a z.code off)
  | .st z a off x => some (encM 0x31 0 x a z.code off)
  | .lda z sc d a off => some (encM 0x32 sc.code ⟨d, false⟩ a z.code off)
  | .strel z sc a off x => some (encM 0x33 sc.code x a z.code off)
  | .amoadd w o d a off b => some (encAmo 0 w o d a off b noSrc)
  | .amoand w o d a off b => some (encAmo 1 w o d a off b noSrc)
  | .amoor w o d a off b => some (encAmo 2 w o d a off b noSrc)
  | .amoxor w o d a off b => some (encAmo 3 w o d a off b noSrc)
  | .amomin w o d a off b => some (encAmo 4 w o d a off b noSrc)
  | .amomax w o d a off b => some (encAmo 5 w o d a off b noSrc)
  | .amominn w o d a off b => some (encAmo 6 w o d a off b noSrc)
  | .amomaxn w o d a off b => some (encAmo 7 w o d a off b noSrc)
  | .amoswap w o d a off b => some (encAmo 8 w o d a off b noSrc)
  | .amocas w o d a off b c => some (encAmo 9 w o d a off b c)
  | .amofadd w o d a off b => some (encAmo 10 w o d a off b noSrc)
  | .qacq sc d a off => some (encLock 0x35 sc d a off)
  | .qrel sc d a off => some (encLock 0x36 sc d a off)
  | .qtry sc d a off => some (encLock 0x37 sc d a off)
  | .vlock sc d a off => some (encLock 0x38 sc d a off)
  | .vunlock sc d a off => some (encLock 0x39 sc d a off)
  | .waitvAny d a me mk => some (encV1 0x3A (dSub d 0) 0 a.op.code (flag a.f) me mk)
  | .waitvAll d a me mk => some (encV1 0x3A (dSub d 0) 1 a.op.code (flag a.f) me mk)
  | .wmbind n sc a b h => some (encE 0x3B 0 0 (h.toNat + 64 * sc.code + 256 * n.toNat) 0 a b noSrc)
  | .wmadv sc a off x => some (encM 0x3C sc.code x a 3 off)
  | .acq sc n => some (encI 0x78 (dSub 0 sc.code) noSrc n.toNat)
  | .rel sc n => some (encI 0x79 (dSub 0 sc.code) noSrc n.toNat)
  | .acqrel sc n => some (encI 0x7A (dSub 0 sc.code) noSrc n.toNat)
  | .fence => some (encN 0x7B)
  | .rgninv sc n => some (encI 0x7C (dSub 0 sc.code) noSrc n.toNat)
  | .rgnwb n => some (encI 0x7D 0 noSrc n.toNat)
  | .scrub a off x => some (encM 0x7E 0 x a 3 off)
  | .vcfg ty s vd => some (encV1 0x40 (64 + vd.toNat) (ty.toNat + 16 * flag s) 0 0 false 0)
  | .setvl w g d a => some (encI 0x41 (dSub d w.toNat) a g.toNat)
  | .setvlFree d => some (encI 0x41 (dSub d 0) noSrc 15)
  | .vadd d a b m => some (encV2 0x42 0 d a b m)
  | .vsub d a b m => some (encV2 0x42 1 d a b m)
  | .vmul d a b m => some (encV2 0x42 2 d a b m)
  | .vdiv d a b m => some (encV2 0x42 3 d a b m)
  | .vmin d a b m => some (encV2 0x42 4 d a b m)
  | .vmax d a b m => some (encV2 0x42 5 d a b m)
  | .vand d a b m => some (encV2 0x42 6 d a b m)
  | .vor d a b m => some (encV2 0x42 7 d a b m)
  | .vxor d a b m => some (encV2 0x42 8 d a b m)
  | .vshl d a b m => some (encV2 0x42 9 d a b m)
  | .vshr d a b m => some (encV2 0x42 10 d a b m)
  | .vshra d a b m => some (encV2 0x42 11 d a b m)
  | .vsadd d a b m => some (encV2 0x42 12 d a b m)
  | .vssub d a b m => some (encV2 0x42 13 d a b m)
  | .vmulh d a b m => some (encV2 0x42 14 d a b m)
  | .vmadd rm d a b c m => some (encV3 0x43 (rmF6 rm 0) d a b c m)
  | .vmsub rm d a b c m => some (encV3 0x43 (rmF6 rm 1) d a b c m)
  | .vnmadd rm d a b c m => some (encV3 0x43 (rmF6 rm 2) d a b c m)
  | .vneg d a m => some (encVu 0x44 0 d a m)
  | .vabs d a m => some (encVu 0x44 1 d a m)
  | .vsqrt d a m => some (encVu 0x44 2 d a m)
  | .vrcp d a m => some (encVu 0x44 3 d a m)
  | .vrsq d a m => some (encVu 0x44 4 d a m)
  | .vexp2 d a m => some (encVu 0x44 5 d a m)
  | .vlog2 d a m => some (encVu 0x44 6 d a m)
  | .vnot d a m => some (encVu 0x44 7 d a m)
  | .vclz d a m => some (encVu 0x44 8 d a m)
  | .vpopc d a m => some (encVu 0x44 9 d a m)
  | .vcmpEq md a b m => some (encV 0x45 md.toNat 0 a.op.code (flag a.f) b.op.code (flag b.f) 0 0 m)
  | .vcmpNe md a b m => some (encV 0x45 md.toNat 1 a.op.code (flag a.f) b.op.code (flag b.f) 0 0 m)
  | .vcmpLt md a b m => some (encV 0x45 md.toNat 2 a.op.code (flag a.f) b.op.code (flag b.f) 0 0 m)
  | .vcmpLe md a b m => some (encV 0x45 md.toNat 3 a.op.code (flag a.f) b.op.code (flag b.f) 0 0 m)
  | .vsel d a b mk => some (encV2 0x46 0 d a b ⟨true, mk, false⟩)
  | .vcvt dt rm d a m => some (encV 0x47 d.code (rmF6 rm 0) a.op.code (flag a.f) dt.toNat 0 0 0 m)
  | .vqnt dt rm d a => some (encV 0x48 d.code (rmF6 rm 0) a.op.code (flag a.f) dt.toNat 0 0 0 noMask)
  | .vredSum rm d a me mk => some (encV 0x49 (dSub d 0) (rmF6 rm 0) a.op.code (flag a.f) 0 0 0 0 (mask2 me mk))
  | .vredMax rm d a me mk => some (encV 0x49 (dSub d 0) (rmF6 rm 1) a.op.code (flag a.f) 0 0 0 0 (mask2 me mk))
  | .vredMin rm d a me mk => some (encV 0x49 (dSub d 0) (rmF6 rm 2) a.op.code (flag a.f) 0 0 0 0 (mask2 me mk))
  | .vredAnd rm d a me mk => some (encV 0x49 (dSub d 0) (rmF6 rm 3) a.op.code (flag a.f) 0 0 0 0 (mask2 me mk))
  | .vredOr rm d a me mk => some (encV 0x49 (dSub d 0) (rmF6 rm 4) a.op.code (flag a.f) 0 0 0 0 (mask2 me mk))
  | .vreds rm d a me mk => some (encV 0x4A (dSub d 0) (rmF6 rm 0) a.op.code (flag a.f) 0 0 0 0 (mask2 me mk))
  | .vdot rm d a b me mk =>
    some (encV 0x4B (dSub d 0) (rmF6 rm 0) a.op.code (flag a.f) b.op.code (flag b.f) 0 0 (mask2 me mk))
  | .vperm d a b m => some (encV2 0x4C 0 d a b m)
  | .vslideUp d a n m => some (encV 0x4D d.code 0 a.op.code (flag a.f) (bcOf n.r) (flag n.f) 0 0 m)
  | .vslideDn d a n m => some (encV 0x4D d.code 1 a.op.code (flag a.f) (bcOf n.r) (flag n.f) 0 0 m)
  | .vext d a i => some (encV 0x4E (dSub d 0) 0 a.op.code (flag a.f) (bcOf i.r) (flag i.f) 0 0 noMask)
  | .vins d a x i =>
    some (encV 0x4E d.code 1 a.op.code (flag a.f) (bcOf x.r) (flag x.f) (bcOf i.r) (flag i.f) noMask)
  | .vbcast vd a me mk => some (encV1 0x4F (64 + vd.toNat) 0 a.op.code (flag a.f) me mk)
  | .viota vd me mk => some (encV1 0x4F (64 + vd.toNat) 1 0 0 me mk)
  | .mand md ma mb m => some (encV 0x50 md.toNat 0 ma.toNat 0 mb.toNat 0 0 0 m)
  | .mor md ma mb m => some (encV 0x50 md.toNat 1 ma.toNat 0 mb.toNat 0 0 0 m)
  | .mxor md ma mb m => some (encV 0x50 md.toNat 2 ma.toNat 0 mb.toNat 0 0 0 m)
  | .mnot md ma m => some (encV 0x50 md.toNat 3 ma.toNat 0 0 0 0 0 m)
  | .mpop d ma me mk => some (encV 0x50 (dSub d 0) 4 ma.toNat 0 0 0 0 0 (mask2 me mk))
  | .mfirst d ma me mk => some (encV 0x50 (dSub d 0) 5 ma.toNat 0 0 0 0 0 (mask2 me mk))
  | .mset md x m => some (encV 0x50 md.toNat 6 (bcOf x.r) (flag x.f) 0 0 0 0 m)
  | .vscget d va fa => some (encV1 0x51 d.code 0 va.toNat (flag fa) false 0)
  | .vscset vd va fa => some (encV1 0x51 (64 + vd.toNat) 1 va.toNat (flag fa) false 0)
  | .vcompress d a me mk => some (encV1 0x52 d.code 0 a.op.code (flag a.f) me mk)
  | .vexpand d a me mk => some (encV1 0x52 d.code 1 a.op.code (flag a.f) me mk)
  | .vld ty d a imm m wm => some (encVM 0x58 d.code 0 a ty.toNat 0 noSrc m wm imm)
  | .vlds ty d a imm x m wm => some (encVM 0x58 d.code 1 a ty.toNat 0 x m wm imm)
  | .vldff ty d a imm m wm => some (encVM 0x58 d.code 2 a ty.toNat 0 noSrc m wm imm)
  | .vst a imm b m => some (encVM 0x59 0 0 a b.op.code (flag b.f) noSrc m none imm)
  | .vsts a imm b x m => some (encVM 0x59 0 1 a b.op.code (flag b.f) x m none imm)
  | .vldx wc d a imm b m wm =>
    some (encVM 0x5A d.code (4 * (wc.toNat + 1)) a b.op.code (flag b.f) noSrc m wm imm)
  | .vstx a imm b idx m => some (encVM 0x5A idx.toNat 1 a b.op.code (flag b.f) noSrc m none imm)
  | .vldt d vb fb me mk wm => some (encVM 0x5B d.code 0 noSrc vb.toNat (flag fb) noSrc (mask2 me mk) wm 0)
  | .vstt b shape m => some (encVM 0x5B shape.toNat 1 noSrc b.op.code (flag b.f) noSrc m none 0)
  | .mlease k => some (encMX 0x60 0 0 0 0 k 0 0)
  | .mfree => some (encMX 0x60 1 0 0 0 noSrc 0 0)
  | .slclaim a b => some (encMX 0x61 0 a b 0 noSrc 0 0)
  | .slfree a b => some (encMX 0x61 1 a b 0 noSrc 0 0)
  | .slloadRow fmt s a imm b c => some (encE 0x62 0 0 (s.toNat + 64 * fmt.toNat) imm a b c)
  | .slloadCol fmt s a imm b c => some (encE 0x62 0 1 (s.toNat + 64 * fmt.toNat) imm a b c)
  | .slloadScale s a imm => some (encE 0x62 0 2 s.toNat imm a noSrc noSrc)
  | .mop t sa sb fa fb k => some (encMX 0x63 0 sa sb t k fa.toNat fb.toNat)
  | .mops t sa sb fa fb => some (encMX 0x63 1 sa sb t noSrc fa.toNat fb.toNat)
  | .aclaim i32 t => some (encMX 0x64 0 0 0 t noSrc (if i32 then 2 else 9) 0)
  | .afree t => some (encMX 0x64 1 0 0 t noSrc 0 0)
  | .mzero t => some (encMX 0x64 2 0 0 t noSrc 0 0)
  | .mrd d a me mk => some (encV1 0x65 d.code 0 (bcOf a.r) (flag a.f) me mk)
  | .mwr a vs me mk => some (encV1 0x65 vs.toNat 1 (bcOf a.r) (flag a.f) me mk)
  | .mst t a imm b c => some (encE 0x66 0 0 t.toNat imm a b c)
  | .msync => some (encN 0x67)
  | .ferry q => some (encS 0x68 0 0 ⟨BitVec.ofNat 4 q.q.code, q.f⟩ noSrc)
  | .ferrynb d q => some (encS 0x68 (dSub d 0) 1 ⟨BitVec.ofNat 4 q.q.code, q.f⟩ noSrc)
  | .lwinit d a imm b => some (encE 0x69 (dSub d 0) 0 0 imm a b noSrc)
  | .lwwait sc d a imm b => some (encE 0x69 (dSub d 0) 1 sc.code imm a b noSrc)
  | .lwread d a imm => some (encE 0x69 (dSub d 0) 2 0 imm a noSrc noSrc)
  | .fjoin sc d a => some (encE 0x6A (dSub d 0) 0 sc.code 0 a noSrc noSrc)
  | .fcpoll sc q a imm => some (encE 0x6A (dSub (reg q.code) 0) 1 sc.code imm a noSrc noSrc)
  | .spawn d a b c => some (encE 0x70 (dSub d 0) 0 0 0 a b c)
  | .exit => some (encE 0x70 0 1 0 0 noSrc noSrc noSrc)
  | .yield => some (encE 0x70 0 2 0 0 noSrc noSrc noSrc)
  | .join d a imm => some (encE 0x71 (dSub d 0) 0 0 imm a noSrc noSrc)
  | .leave sc d a imm => some (encE 0x71 (dSub d 0) 1 sc.code imm a noSrc noSrc)
  | .gbar sc d a imm => some (encE 0x71 (dSub d 0) 2 sc.code imm a noSrc noSrc)
  | .send rep sc q b =>
    some (encE 0x72 0 0 (sc.code + 4 * flag rep) 0 ⟨BitVec.ofNat 4 q.q.code, q.f⟩ b noSrc)
  | .sendnb rep sc d q b =>
    some (encE 0x72 (dSub d 0) 1 (sc.code + 4 * flag rep) 0 ⟨BitVec.ofNat 4 q.q.code, q.f⟩ b noSrc)
  | .hret => some (encS 0x73 0 0 noSrc noSrc)
  | .hmask d a => some (encS 0x73 (dSub d 0) 1 a noSrc)
  | .hunmask d a => some (encS 0x73 (dSub d 0) 2 a noSrc)
  | .tspawn a imm => some (encE 0x74 0 0 0 imm a noSrc noSrc)
  | .grant q => some (encE 0x74 (dSub (reg q.code) 0) 1 0 0 noSrc noSrc noSrc)
  | .watch once n d q =>
    some (encE 0x74 (dSub d 0) 2 (n.toNat + 8 * flag once) 0 ⟨BitVec.ofNat 4 q.q.code, q.f⟩ noSrc noSrc)
  | .unwatch d a => some (encE 0x74 (dSub d 0) 3 0 0 a noSrc noSrc)
  | .getid k d => some (encS 0x75 (dSub d 0) k.code noSrc noSrc)
  | .cbopen d a => some (encV 0x76 (dSub d 0) 0 (bcOf a.r) (flag a.f) 0 0 0 0 noMask)
  | .cbpost q => some (encV 0x76 0 1 (48 + q.q.code) (flag q.f) 0 0 0 0 noMask)
  | .cbtake d h => some (encV 0x76 (dSub d 0) 2 (bcOf h.r) (flag h.f) 0 0 0 0 noMask)
  | .cbtakev vd h => some (encV 0x76 (64 + vd.toNat) 3 (bcOf h.r) (flag h.f) 0 0 0 0 noMask)
  | .cbdone a h me mk => some (encV 0x76 0 4 a.op.code (flag a.f) (bcOf h.r) (flag h.f) 0 0 (mask2 me mk))
  | .cbclose h => some (encV 0x76 0 5 (bcOf h.r) (flag h.f) 0 0 0 0 noMask)
  | .compose nw four d => some (encS 0x77 (dSub d 0) (flag nw + 2 * flag four) noSrc noSrc)
  | .decomp d => some (encS 0x77 (dSub d 1) 0 noSrc noSrc)
  | .erginfo d => some (encS 0x77 (dSub d 2) 0 noSrc noSrc)
  | .moduleReset | .clockChange _ | .instructionFetch _ _ | .issueSelect _ | .yieldHoldEnd _ _
  | .longLatencyResult _ _ | .bankMoveComplete _ _ | .bankReturn _ | .drainComplete _ _ | .reqMessageArrival _
  | .repMessageArrival _ | .heldMessageEnter _ _ _ | .refused _ | .handlerStart _ | .handlerStartNotice _
  | .handlerSlotFree _ _ | .watchpointMatch _ | .dependenceSatisfied _ | .pendingEnterQueue _ | .taskDispatch _
  | .taskAging _ _ | .preempt _ | .resume _ | .taskCompletion _ | .hostMemWrite _ _ _ | .hostMemRead _ _
  | .hostBar0Write _ _ | .hirq _ | .spdmMeasurement | .shootdownGo _ _ | .shootdownComplete _ | .wbRewalk _ _
  | .wbwaitExpiry _ _ | .l1Eviction _ _ | .nearPartitionEviction _ _ | .homePartitionEviction _
  | .forwardedRead _ _ | .pageGrantRequest _ _ _ | .readLeaseExpiry _ | .grantHandOver _ | .grantRecall _
  | .baseDieAtomicResult _ _ | .ferryTake _ | .landingCount _ _ | .ringRecordWrite _ _ | .ferryFinish _ _
  | .ferryWbRewalk _ _ | .leaseGrant _ | .opaCommandAccept _ | .leaseClockExpiry _ | .opaFreeze _ | .composeForm _
  | .ergMispredictSquash _ _ | .linkRetry _ | .ucieEdgeFail _ _ | .ualinkPortFail _ | .cxlLinkDown | .portfail _
  | .agentSuspect _ _ _ | .agentDeclareDead _ | .agentReadmit _ | .staleMessageDrop _ _ _ | .erracc _ _
  | .cbukill _ _ | .mbicfg _ _ | .mbiLaneTurn _ | .route _ _ | .agentStateWrite _ _ | .htab _ | .hotq _ | .vlanes _
  | .flexcfg _ | .saveptr _ | .ptbase _ _ | .pkgid _ | .mboxpol _ _ | .fcsr _ _ | .deviceRegisterWrite _ _
  | .cxlCacheSnoop _ _ _ | .peerModuleAccess _ _ | .leaseRecordExpiry _ _ | .opaFreezeEnd _
  | .opaCommandComplete _ _ _ => none

/-! ### Decoding -/

/-- `w` bits of `n` from bit `lo` up. -/
def fld (n lo w : Nat) : Nat := n / 2 ^ lo % 2 ^ w

/-- A one-bit field. -/
def bitF (n lo : Nat) : Bool := fld n lo 1 == 1

/-- A field as a bit vector. -/
def fldB (n lo w : Nat) : BitVec w := BitVec.ofNat w (fld n lo w)

/-- A scalar source from the positions of its register and F bit. -/
def srcAt (n lo fb : Nat) : Src := ⟨fldB n lo 4, bitF n fb⟩

/-- The codes that an operation word may hold and its refusals. -/
abbrev Cand := Except Reject Instr

/-- An optional code, rejected as a reserved one where it is absent. -/
def codeOr {α : Type} (o : Option α) (k : α → Cand) : Cand :=
  match o with
  | some a => k a
  | none => .error .reservedCode

/-- An optional operand or destination, rejected where it is absent. -/
def opOr {α : Type} (o : Option α) (k : α → Cand) : Cand :=
  match o with
  | some a => k a
  | none => .error .badOperand

/-- A quad, rejected where the field names no quad. -/
def quadOr (n : Nat) (k : Quad → Cand) : Cand :=
  match Quad.of n with
  | some q => k q
  | none => .error .badQuad

/-- A vector source of family V or V1 from the positions of its specifier and F bit. -/
def vsrcOr (n lo fb : Nat) (k : VSrc → Cand) : Cand :=
  opOr (VOp.of (fld n lo 6)) fun op => k ⟨op, bitF n fb⟩

/-- The register of a broadcast field (R186, R238). -/
def bcOr (n lo fb : Nat) (k : Src → Cand) : Cand :=
  if fld n lo 6 < 48 then .error .badOperand else k (srcAt n lo fb)

/-- A destination field. -/
def dstOr (queues : Bool) (d : Nat) (k : VDst → Cand) : Cand := opOr (VDst.of queues d) k

/-- A destination that must be a vector register (WB = 1). -/
def vregOr (d : Nat) (k : BitVec 5 → Cand) : Cand :=
  match VDst.of false d with
  | some (.v n) => k n
  | _ => .error .badOperand

/-- The rounding mode in F6[5:3], F6 at bit `lo`. -/
def rmOr (n lo : Nat) (k : RMode → Cand) : Cand := codeOr (RMode.of (fld n (lo + 3) 3)) k

/-- The mask fields of family V. -/
def maskV (t : Nat) : MaskF := ⟨bitF t 24, fldB t 21 3, bitF t 25⟩
/-- The mask fields of family VM. -/
def maskVM (t : Nat) : MaskF := ⟨bitF t 20, fldB t 17 3, bitF t 21⟩
/-- The watermark field of family VM: WM and w. -/
def wmVM (t : Nat) : Option (BitVec 2) := if bitF t 24 then some (fldB t 25 2) else none

/-- The family of an OP gives its T (R184, R189); none for a reserved OP. -/
def opT (op : Nat) : Option Nat :=
  if op ∈ [0x00, 0x07, 0x0A, 0x0B, 0x67, 0x7B] then some 0
  else if op ∈ [0x03, 0x10, 0x11, 0x12, 0x28, 0x29, 0x2B, 0x3A, 0x40, 0x4F, 0x51, 0x52, 0x65, 0x68, 0x73, 0x75, 0x77]
  then some 1
  else if op ∈ [0x01, 0x02, 0x06, 0x08, 0x09, 0x0C, 0x13, 0x14, 0x15, 0x16, 0x17, 0x18, 0x19, 0x1B, 0x1C, 0x30, 0x31,
    0x32, 0x33, 0x35, 0x36, 0x37, 0x38, 0x39, 0x3C, 0x41, 0x42, 0x43, 0x44, 0x45, 0x46, 0x47, 0x48, 0x49, 0x4A, 0x4B,
    0x4C, 0x4D, 0x4E, 0x50, 0x60, 0x61, 0x63, 0x64, 0x76, 0x78, 0x79, 0x7A, 0x7C, 0x7D, 0x7E] then some 2
  else if op ∈ [0x04, 0x05, 0x1A, 0x1D, 0x2A, 0x34, 0x3B, 0x58, 0x59, 0x5A, 0x5B, 0x62, 0x66, 0x69, 0x6A, 0x70, 0x71,
    0x72, 0x74] then some 3
  else none

/-- The ALU operation of OP 0x10 or 0x11 with variant `v` (R189). -/
def aluOf (op v : Nat) : Option (Reg → Src → Src → Instr) :=
  if op = 0x10 then
    match v with
    | 0 => some .add | 1 => some .sub | 2 => some .and | 3 => some .or | 4 => some .xor | 5 => some .andn
    | 6 => some .shl | 7 => some .shr | 8 => some .shra | 9 => some .min | 10 => some .max | 11 => some .minn
    | 12 => some .maxn | 13 => some .slt | 14 => some .sltn | 15 => some .seq | _ => none
  else
    match v with
    | 0 => some .mul | 1 => some .mulh | 2 => some .mulhn | 3 => some .div | 4 => some .divn | 5 => some .rem
    | 6 => some .remn | _ => none

/-- The operation of OP 0x42 with variant `v`. -/
def v42Of : Nat → Option (VDst → VSrc → VSrc → MaskF → Instr)
  | 0 => some .vadd | 1 => some .vsub | 2 => some .vmul | 3 => some .vdiv | 4 => some .vmin | 5 => some .vmax
  | 6 => some .vand | 7 => some .vor | 8 => some .vxor | 9 => some .vshl | 10 => some .vshr | 11 => some .vshra
  | 12 => some .vsadd | 13 => some .vssub | 14 => some .vmulh | _ => none

/-- The operation of OP 0x44 with variant `v`. -/
def v44Of : Nat → Option (VDst → VSrc → MaskF → Instr)
  | 0 => some .vneg | 1 => some .vabs | 2 => some .vsqrt | 3 => some .vrcp | 4 => some .vrsq | 5 => some .vexp2
  | 6 => some .vlog2 | 7 => some .vnot | 8 => some .vclz | 9 => some .vpopc | _ => none

/-- Families N, J, B, L and the control part of S and I. `d` is D, `t` the tail. -/
def candControl (op d t : Nat) : Cand :=
  let fa := srcAt t 0 4          -- A and FA of families I, M, E
  let xd : Reg := fldB d 0 4
  let sub := fld d 4 3
  match op with
  | 0x00 => .ok .nop
  | 0x01 => .ok (.br (fldB t 0 32))
  | 0x02 => .ok (.call (fldB t 0 32))
  | 0x03 =>
    match sub with
    | 0 => .ok (.jr (srcAt t 0 8))
    | 1 => .ok (.callr (srcAt t 0 8))
    | 2 => .ok .ret
    | _ => .error .badVariant
  | 0x04 =>
    let a := srcAt t 0 8
    let b := srcAt t 4 9
    let i : BitVec 32 := fldB t 16 32
    match fld t 10 3 with
    | 0 => .ok (.bccEq a b i)
    | 1 => .ok (.bccNe a b i)
    | 2 => .ok (.bccLt a b i)
    | 3 => .ok (.bccGe a b i)
    | 4 => .ok (.bccLtn a b i)
    | 5 => .ok (.bccGen a b i)
    | _ => .error .reservedCode
  | 0x05 =>
    match fld t 10 3 with
    | 0 => .ok (.bz (srcAt t 0 8) (fldB t 16 32))
    | 1 => .ok (.bnz (srcAt t 0 8) (fldB t 16 32))
    | _ => .error .reservedCode
  | 0x06 => .ok (.trap (fldB t 5 27))
  | 0x07 => .ok .tret
  | 0x08 => .ok (.sysr xd (fldB t 5 12))
  | 0x09 => .ok (.sysw (fldB t 5 12) fa)
  | 0x0A => .ok .halt
  | 0x0B => .ok .ifence
  | 0x0C => .ok (.brk (fldB t 5 27))
  | 0x12 =>
    let a := srcAt t 0 8
    match fld t 10 6 with
    | 0 => .ok (.clz xd a)
    | 1 => .ok (.ctz xd a)
    | 2 => .ok (.popc xd a)
    | 3 => .ok (.brev xd a)
    | 4 => .ok (.bswap xd a)
    | 5 => codeOr (SextW.of (fld t 4 4)) fun w => .ok (.sext w xd a)
    | _ => .error .badVariant
  | 0x13 => .ok (.addi xd fa (fldB t 5 27))
  | 0x14 => .ok (.andi xd fa (fldB t 5 27))
  | 0x15 => .ok (.ori xd fa (fldB t 5 27))
  | 0x16 => .ok (.xori xd fa (fldB t 5 27))
  | 0x17 =>
    match sub with
    | 0 => .ok (.shli xd fa (fldB t 5 6))
    | 1 => .ok (.shri xd fa (fldB t 5 6))
    | 2 => .ok (.shrai xd fa (fldB t 5 6))
    | _ => .error .badVariant
  | 0x18 => .ok (.slti xd fa (fldB t 5 27))
  | 0x19 => .ok (.sltni xd fa (fldB t 5 27))
  | 0x1A => .ok (.li xd (fldB t 0 48))
  | 0x1B => .ok (.lea (fldB d 4 2) xd fa (fldB t 5 27))
  | 0x1C => .ok (.addpc xd (fldB t 5 27))
  | 0x1D => .ok (.sel xd fa (srcAt t 5 9) (srcAt t 10 14))
  | _ =>
    match aluOf op (fld t 10 6) with
    | some k => .ok (k xd (srcAt t 0 8) (srcAt t 4 9))
    | none => .error .badVariant

/-- Scalar floating point, OPs 0x28 to 0x2B. -/
def candFloat (op d t : Nat) : Cand :=
  let xd : Reg := fldB d 0 4
  let a := srcAt t 0 8
  let b := srcAt t 4 9
  match op with
  | 0x28 => codeOr (FTy.of (fld d 4 3)) fun ty =>
    match fld t 10 3 with
    | 0 => rmOr t 10 fun rm => .ok (.fadd ty rm xd a b)
    | 1 => rmOr t 10 fun rm => .ok (.fsub ty rm xd a b)
    | 2 => rmOr t 10 fun rm => .ok (.fmul ty rm xd a b)
    | 3 => rmOr t 10 fun rm => .ok (.fdiv ty rm xd a b)
    | 4 => .ok (.fmin ty xd a b)
    | 5 => .ok (.fmax ty xd a b)
    | 6 => rmOr t 10 fun rm => .ok (.fsqrt ty rm xd a)
    | _ => .error .badVariant
  | 0x29 => codeOr (FTy.of (fld d 4 3)) fun ty =>
    match fld t 10 3 with
    | 0 => .ok (.fsgnj ty xd a b)
    | 1 => .ok (.fsgnjn ty xd a b)
    | 2 => .ok (.fsgnjx ty xd a b)
    | 3 => .ok (.feq ty xd a b)
    | 4 => .ok (.flt ty xd a b)
    | 5 => .ok (.fle ty xd a b)
    | 6 => .ok (.fclass ty xd a)
    | _ => .error .badVariant
  | 0x2A => codeOr (FTy.of (fld t 22 10)) fun ty => rmOr t 16 fun rm =>
    let a := srcAt t 0 4
    let b := srcAt t 5 9
    let c := srcAt t 10 14
    match fld t 16 3 with
    | 0 => .ok (.fmadd ty rm xd a b c)
    | 1 => .ok (.fmsub ty rm xd a b c)
    | 2 => .ok (.fnmadd ty rm xd a b c)
    | _ => .error .badVariant
  | _ => codeOr (CTy.of (fld d 4 3)) fun dt => codeOr (CTy.of (fld t 4 4)) fun st => rmOr t 10 fun rm =>
    if fcvtPair dt st then .ok (.fcvt dt st rm xd a) else .error .reservedCode

/-- The AMO of variant `v` (R220). -/
def amoOf (v : Nat) (w : Bool) (o : AOrd) (d : Reg) (a : Src) (off : BitVec 16) (b c : Src) : Cand :=
  match v with
  | 0 => .ok (.amoadd w o d a off b)
  | 1 => .ok (.amoand w o d a off b)
  | 2 => .ok (.amoor w o d a off b)
  | 3 => .ok (.amoxor w o d a off b)
  | 4 => .ok (.amomin w o d a off b)
  | 5 => .ok (.amomax w o d a off b)
  | 6 => .ok (.amominn w o d a off b)
  | 7 => .ok (.amomaxn w o d a off b)
  | 8 => .ok (.amoswap w o d a off b)
  | 9 => .ok (.amocas w o d a off b c)
  | 10 => .ok (.amofadd w o d a off b)
  | _ => .error .badVariant

/-- Scalar memory and synchronisation, OPs 0x30 to 0x3C and 0x78 to 0x7E. -/
def candMemory (op d t : Nat) : Cand :=
  let a := srcAt t 0 4
  let xd : Reg := fldB d 0 4
  let xs := srcAt d 0 4
  let sc := Scope.of (fld d 5 2)
  let off : BitVec 24 := fldB t 8 24
  let sz := fld t 5 3
  match op with
  | 0x30 => codeOr (MSize.of sz) fun z => .ok (.ld z xd a off)
  | 0x31 => codeOr (SSize.of sz) fun z => .ok (.st z a off xs)
  | 0x32 => codeOr (MSize.of sz) fun z => .ok (.lda z sc xd a off)
  | 0x33 => codeOr (SSize.of sz) fun z => .ok (.strel z sc a off xs)
  | 0x34 => codeOr (AOrd.of (fld t 22 4)) fun o =>
    amoOf (fld t 16 6) (bitF t 26) o xd a (fldB t 32 16) (srcAt t 5 9) (srcAt t 10 14)
  | 0x35 => .ok (.qacq sc xd a off)
  | 0x36 => .ok (.qrel sc xd a off)
  | 0x37 => .ok (.qtry sc xd a off)
  | 0x38 => .ok (.vlock sc xd a off)
  | 0x39 => .ok (.vunlock sc xd a off)
  | 0x3A => vsrcOr t 0 6 fun v =>
    match fld t 11 5 with
    | 0 => .ok (.waitvAny xd v (bitF t 10) (fldB t 7 3))
    | 1 => .ok (.waitvAll xd v (bitF t 10) (fldB t 7 3))
    | _ => .error .badVariant
  | 0x3B => .ok (.wmbind (fldB t 30 2) (Scope.of (fld t 28 2)) a (srcAt t 5 9) (fldB t 22 6))
  | 0x3C => .ok (.wmadv sc a off xs)
  | 0x78 => .ok (.acq (Scope.of (fld d 4 2)) (fldB t 5 10))
  | 0x79 => .ok (.rel (Scope.of (fld d 4 2)) (fldB t 5 10))
  | 0x7A => .ok (.acqrel (Scope.of (fld d 4 2)) (fldB t 5 10))
  | 0x7B => .ok .fence
  | 0x7C => .ok (.rgninv (Scope.of (fld d 4 2)) (fldB t 5 10))
  | 0x7D => .ok (.rgnwb (fldB t 5 10))
  | _ => .ok (.scrub a off xs)

/-- Vector configuration and arithmetic, OPs 0x40 to 0x49. -/
def candVector (op d t : Nat) : Cand :=
  let m := maskV t
  let xd : Reg := fldB d 0 4
  let md : BitVec 3 := fldB d 0 3
  match op with
  | 0x40 => vregOr d fun vd => .ok (.vcfg (fldB t 11 4) (bitF t 15) vd)
  | 0x41 =>
    if fld t 5 4 = 15 then .ok (.setvlFree xd)
    else .ok (.setvl (fldB d 4 2) (fldB t 5 4) xd (srcAt t 0 4))
  | 0x42 => dstOr false d fun vd => vsrcOr t 0 18 fun a => vsrcOr t 6 19 fun b =>
    match v42Of (fld t 26 4) with
    | some k => .ok (k vd a b m)
    | none => .error .badVariant
  | 0x43 => dstOr false d fun vd => vsrcOr t 0 18 fun a => vsrcOr t 6 19 fun b => vsrcOr t 12 20 fun c =>
    rmOr t 26 fun rm =>
    match fld t 26 3 with
    | 0 => .ok (.vmadd rm vd a b c m)
    | 1 => .ok (.vmsub rm vd a b c m)
    | 2 => .ok (.vnmadd rm vd a b c m)
    | _ => .error .badVariant
  | 0x44 => dstOr false d fun vd => vsrcOr t 0 18 fun a =>
    match v44Of (fld t 26 4) with
    | some k => .ok (k vd a m)
    | none => .error .badVariant
  | 0x45 => vsrcOr t 0 18 fun a => vsrcOr t 6 19 fun b =>
    match fld t 26 6 with
    | 0 => .ok (.vcmpEq md a b m)
    | 1 => .ok (.vcmpNe md a b m)
    | 2 => .ok (.vcmpLt md a b m)
    | 3 => .ok (.vcmpLe md a b m)
    | _ => .error .badVariant
  | 0x46 => dstOr false d fun vd => vsrcOr t 0 18 fun a => vsrcOr t 6 19 fun b => .ok (.vsel vd a b (fldB t 21 3))
  | 0x47 => dstOr false d fun vd => vsrcOr t 0 18 fun a => rmOr t 26 fun rm => .ok (.vcvt (fldB t 6 4) rm vd a m)
  | 0x48 => dstOr false d fun vd => vsrcOr t 0 18 fun a => rmOr t 26 fun rm => .ok (.vqnt (fldB t 6 4) rm vd a)
  | _ => vsrcOr t 0 18 fun a => rmOr t 26 fun rm =>
    match fld t 26 3 with
    | 0 => .ok (.vredSum rm xd a m.me m.mr)
    | 1 => .ok (.vredMax rm xd a m.me m.mr)
    | 2 => .ok (.vredMin rm xd a m.me m.mr)
    | 3 => .ok (.vredAnd rm xd a m.me m.mr)
    | 4 => .ok (.vredOr rm xd a m.me m.mr)
    | _ => .error .badVariant

/-- Vector operations, OPs 0x4A to 0x52. -/
def candVector2 (op d t : Nat) : Cand :=
  let m := maskV t
  let xd : Reg := fldB d 0 4
  let md : BitVec 3 := fldB d 0 3
  let ma : BitVec 3 := fldB t 0 3
  let mb : BitVec 3 := fldB t 6 3
  let me1 := bitF t 10
  let mk1 : BitVec 3 := fldB t 7 3
  match op with
  | 0x4A => vsrcOr t 0 18 fun a => rmOr t 26 fun rm => .ok (.vreds rm xd a m.me m.mr)
  | 0x4B => vsrcOr t 0 18 fun a => vsrcOr t 6 19 fun b => rmOr t 26 fun rm => .ok (.vdot rm xd a b m.me m.mr)
  | 0x4C => dstOr false d fun vd => vsrcOr t 0 18 fun a => vsrcOr t 6 19 fun b => .ok (.vperm vd a b m)
  | 0x4D => dstOr false d fun vd => vsrcOr t 0 18 fun a => bcOr t 6 19 fun n =>
    match fld t 26 6 with
    | 0 => .ok (.vslideUp vd a n m)
    | 1 => .ok (.vslideDn vd a n m)
    | _ => .error .badVariant
  | 0x4E =>
    match fld t 26 6 with
    | 0 => vsrcOr t 0 18 fun a => bcOr t 6 19 fun i => .ok (.vext xd a i)
    | 1 => dstOr false d fun vd => vsrcOr t 0 18 fun a => bcOr t 6 19 fun x => bcOr t 12 20 fun i =>
      .ok (.vins vd a x i)
    | _ => .error .badVariant
  | 0x4F => vregOr d fun vd =>
    match fld t 11 5 with
    | 0 => vsrcOr t 0 6 fun a => .ok (.vbcast vd a me1 mk1)
    | 1 => .ok (.viota vd me1 mk1)
    | _ => .error .badVariant
  | 0x50 =>
    match fld t 26 6 with
    | 0 => .ok (.mand md ma mb m)
    | 1 => .ok (.mor md ma mb m)
    | 2 => .ok (.mxor md ma mb m)
    | 3 => .ok (.mnot md ma m)
    | 4 => .ok (.mpop xd ma m.me m.mr)
    | 5 => .ok (.mfirst xd ma m.me m.mr)
    | 6 => bcOr t 0 18 fun x => .ok (.mset md x m)
    | _ => .error .badVariant
  | 0x51 =>
    match fld t 11 5 with
    | 0 => dstOr false d fun vd => .ok (.vscget vd (fldB t 0 5) (bitF t 6))
    | 1 => vregOr d fun vd => .ok (.vscset vd (fldB t 0 5) (bitF t 6))
    | _ => .error .badVariant
  | _ => dstOr false d fun vd => vsrcOr t 0 6 fun a =>
    match fld t 11 5 with
    | 0 => .ok (.vcompress vd a me1 mk1)
    | 1 => .ok (.vexpand vd a me1 mk1)
    | _ => .error .badVariant

/-- Vector memory, OPs 0x58 to 0x5B (R261). -/
def candVMem (op d t : Nat) : Cand :=
  let a := srcAt t 0 4
  let x := srcAt t 12 16
  let imm : BitVec 16 := fldB t 32 16
  let m := maskVM t
  let wm := wmVM t
  let ty : BitVec 4 := fldB t 5 4
  match op with
  | 0x58 => dstOr true d fun vd =>
    match fld t 27 2 with
    | 0 => .ok (.vld ty vd a imm m wm)
    | 1 => .ok (.vlds ty vd a imm x m wm)
    | 2 => .ok (.vldff ty vd a imm m wm)
    | _ => .error .badVariant
  | 0x59 => vsrcOr t 5 11 fun b =>
    match fld t 27 2 with
    | 0 => .ok (.vst a imm b m)
    | 1 => .ok (.vsts a imm b x m)
    | _ => .error .badVariant
  | 0x5A => vsrcOr t 5 11 fun b =>
    match fld t 27 2 with
    | 0 => dstOr true d fun vd =>
      if fld t 29 3 = 0 || fld t 29 3 > 4 then .error .reservedCode
      else .ok (.vldx (BitVec.ofNat 2 (fld t 29 3 - 1)) vd a imm b m wm)
    | 1 => .ok (.vstx a imm b (fldB d 0 5) m)
    | _ => .error .badVariant
  | _ =>
    match fld t 27 2 with
    | 0 => dstOr true d fun vd => .ok (.vldt vd (fldB t 5 5) (bitF t 11) m.me m.mr wm)
    | 1 => vsrcOr t 5 11 fun b => .ok (.vstt b (fldB d 0 5) m)
    | _ => .error .badVariant

/-- The outer-product array, OPs 0x60 to 0x67 (R281). -/
def candMatrix (op d t : Nat) : Cand :=
  let k := srcAt t 14 18
  let sa : BitVec 6 := fldB t 0 6
  let sb : BitVec 6 := fldB t 6 6
  let tile : BitVec 2 := fldB t 12 2
  let ea := srcAt t 0 4
  let eb := srcAt t 5 9
  let ec := srcAt t 10 14
  let imm : BitVec 16 := fldB t 32 16
  let f5 := fld t 27 5
  match op with
  | 0x60 =>
    match f5 with
    | 0 => .ok (.mlease k)
    | 1 => .ok .mfree
    | _ => .error .badVariant
  | 0x61 =>
    match f5 with
    | 0 => .ok (.slclaim sa sb)
    | 1 => .ok (.slfree sa sb)
    | _ => .error .badVariant
  | 0x62 =>
    match fld t 16 2 with
    | 0 => .ok (.slloadRow (fldB t 28 4) (fldB t 22 6) ea imm eb ec)
    | 1 => .ok (.slloadCol (fldB t 28 4) (fldB t 22 6) ea imm eb ec)
    | 2 => .ok (.slloadScale (fldB t 22 6) ea imm)
    | _ => .error .badVariant
  | 0x63 =>
    match f5 with
    | 0 => .ok (.mop tile sa sb (fldB t 19 4) (fldB t 23 4) k)
    | 1 => .ok (.mops tile sa sb (fldB t 19 4) (fldB t 23 4))
    | _ => .error .badVariant
  | 0x64 =>
    match f5 with
    | 0 =>
      match fld t 19 4 with
      | 2 => .ok (.aclaim true tile)
      | 9 => .ok (.aclaim false tile)
      | _ => .error .reservedCode
    | 1 => .ok (.afree tile)
    | 2 => .ok (.mzero tile)
    | _ => .error .badVariant
  | 0x65 => bcOr t 0 6 fun a =>
    match fld t 11 5 with
    | 0 => dstOr false d fun vd => .ok (.mrd vd a (bitF t 10) (fldB t 7 3))
    | 1 => .ok (.mwr a (fldB d 0 5) (bitF t 10) (fldB t 7 3))
    | _ => .error .badVariant
  | 0x66 => .ok (.mst (fldB t 22 2) ea imm eb ec)
  | _ => .ok .msync

/-- Engines, threads, groups, messages, tasks, the CBU and ergs, OPs 0x68 to 0x77 (R293, R323, R333). -/
def candEngine (op d t : Nat) : Cand :=
  let a := srcAt t 0 4
  let b := srcAt t 5 9
  let c := srcAt t 10 14
  let f6 := fld t 16 6
  let s6 := fld t 10 6
  let sa := srcAt t 0 8
  let imm : BitVec 16 := fldB t 32 16
  let sc := Scope.of (fld t 22 2)
  let xd : Reg := fldB d 0 4
  match op with
  | 0x68 => quadOr (fld t 0 4) fun q =>
    match s6 with
    | 0 => .ok (.ferry ⟨q, bitF t 8⟩)
    | 1 => .ok (.ferrynb xd ⟨q, bitF t 8⟩)
    | _ => .error .badVariant
  | 0x69 =>
    match f6 with
    | 0 => .ok (.lwinit xd a imm b)
    | 1 => .ok (.lwwait sc xd a imm b)
    | 2 => .ok (.lwread xd a imm)
    | _ => .error .badVariant
  | 0x6A =>
    match f6 with
    | 0 => .ok (.fjoin sc xd a)
    | 1 => quadOr (fld d 0 4) fun q => .ok (.fcpoll sc q a imm)
    | _ => .error .badVariant
  | 0x70 =>
    match f6 with
    | 0 => .ok (.spawn xd a b c)
    | 1 => .ok .exit
    | 2 => .ok .yield
    | _ => .error .badVariant
  | 0x71 =>
    match f6 with
    | 0 => .ok (.join xd a imm)
    | 1 => .ok (.leave sc xd a imm)
    | 2 => .ok (.gbar sc xd a imm)
    | _ => .error .badVariant
  | 0x72 => quadOr (fld t 0 4) fun q =>
    match f6 with
    | 0 => .ok (.send (bitF t 24) sc ⟨q, bitF t 4⟩ b)
    | 1 => .ok (.sendnb (bitF t 24) sc xd ⟨q, bitF t 4⟩ b)
    | _ => .error .badVariant
  | 0x73 =>
    match s6 with
    | 0 => .ok .hret
    | 1 => .ok (.hmask xd sa)
    | 2 => .ok (.hunmask xd sa)
    | _ => .error .badVariant
  | 0x74 =>
    match f6 with
    | 0 => .ok (.tspawn a imm)
    | 1 => quadOr (fld d 0 4) fun q => .ok (.grant q)
    | 2 => quadOr (fld t 0 4) fun q => .ok (.watch (bitF t 25) (fldB t 22 3) xd ⟨q, bitF t 4⟩)
    | 3 => .ok (.unwatch xd a)
    | _ => .error .badVariant
  | 0x75 => codeOr (IdKind.of s6) fun k => .ok (.getid k xd)
  | 0x76 =>
    match fld t 26 6 with
    | 0 => bcOr t 0 18 fun x => .ok (.cbopen xd x)
    | 1 => bcOr t 0 18 fun x => quadOr x.r.toNat fun q => .ok (.cbpost ⟨q, x.f⟩)
    | 2 => bcOr t 0 18 fun h => .ok (.cbtake xd h)
    | 3 => bcOr t 0 18 fun h => vregOr d fun vd => .ok (.cbtakev vd h)
    | 4 => vsrcOr t 0 18 fun v => bcOr t 6 19 fun h => .ok (.cbdone v h (bitF t 24) (fldB t 21 3))
    | 5 => bcOr t 0 18 fun h => .ok (.cbclose h)
    | _ => .error .badVariant
  | _ =>
    match fld d 4 3 with
    | 0 => .ok (.compose (bitF t 10) (bitF t 11) xd)
    | 1 => .ok (.decomp xd)
    | 2 => .ok (.erginfo xd)
    | _ => .error .badVariant

/-- The instruction that the fields of a word name, before the unused fields are looked at. -/
def candidate (op d t : Nat) : Cand :=
  if op < 0x20 then candControl op d t
  else if op < 0x30 then candFloat op d t
  else if op < 0x40 then candMemory op d t
  else if op < 0x4A then candVector op d t
  else if op < 0x58 then candVector2 op d t
  else if op < 0x60 then candVMem op d t
  else if op < 0x68 then candMatrix op d t
  else if op < 0x78 then candEngine op d t
  else candMemory op d t

/-- Decode a word. A word is legal where the instruction its fields name is well formed and has exactly this word:
a bit in a must-be-zero or unused field gives another word (R190). -/
def decode (w : Nat) : Decoded :=
  match opT (fld w 2 7) with
  | none => .illegal .reservedOp
  | some t =>
    if fld w 0 2 ≠ t || w ≥ 2 ^ (16 + 16 * t) then .illegal .badLength
    else
      match candidate (fld w 2 7) (fld w 9 7) (w / 65536) with
      | .error e => .illegal e
      | .ok i => if encode i = some w && WellFormed i then .instr i else .illegal .nonzeroField

/-- The tail bytes that a head asks for (R183). -/
def tailLen (head : Nat) : Nat := 2 * (head % 4)

/-- The row reader of the host: the low `nbits` bits of a word are its head and tail, the first halfword lowest. -/
def decodeTableWord (nbits w : Nat) : Option Instr :=
  match decode (w % 2 ^ nbits) with
  | .instr i => some i
  | .illegal _ => none

/-! ### Lines (R177 to R179) -/

/-- Halfword `i` of a line held as a number. -/
def lineHalf (bytes i : Nat) : Nat := fld bytes (16 * i) 16

/-- A line header: N, PE and PM (R177). -/
structure Header where
  n : Nat
  pe : Bool
  pm : Nat
  deriving DecidableEq, Repr

/-- The header of a line, absent where the header is malformed (R179). -/
def header (bytes : Nat) : Option Header :=
  let h := lineHalf bytes 0
  if fld h 12 4 = 1 && fld h 9 3 = 0 && fld h 0 5 ≠ 0 && (bitF h 5 || fld h 6 3 = 0) then
    some ⟨fld h 0 5, bitF h 5, fld h 6 3⟩
  else none

/-- The tail bytes of heads 1 to `i`. -/
def tailsTo (bytes : Nat) : Nat → Nat
  | 0 => 0
  | i + 1 => tailsTo bytes i + tailLen (lineHalf bytes (i + 1))

/-- Does R179 call the line well formed? -/
def lineOk (bytes : Nat) : Option Header :=
  match header bytes with
  | none => none
  | some h =>
    let tails := tailsTo bytes h.n
    let front := 2 + 2 * h.n
    if front + tails ≤ 64 && fld bytes (8 * front) (8 * (64 - front - tails)) = 0 then some h else none

/-- The word of head `i`: head in bits 15..0, tail above it (R178, R190). -/
def lineWord (bytes i : Nat) : Nat :=
  let head := lineHalf bytes i
  let upToI := tailsTo bytes i
  head + 65536 * fld bytes (8 * (64 - upToI)) (8 * tailLen head)

end Sys2Proof
end

