-- ==== Sys2Proof/Machine/Issue.lean ====
section
/-! DEFINITION. Fetching lines, checking transfer targets, issuing one instruction, and the choice of the issuing context (R45, R48, R52, R177 to R182, R208, R371 to R375, R386). -/
namespace Sys2Proof.Machine

/-- One outcome for each instruction. -/
abbrev Run := Instr → State → Host.Outcome State Fault Refusal

/-! ### Fetch (R208) -/

/-- The words of a line as the near partition or home serves them, a registered word forwarded: bytes, and the cause where a word is bad (R208). -/
def State.lineWords (s : State) (cl pa : Nat) (a : Via) : (Nat × Option Nat) × State :=
  (upTo 8).foldl (fun acc k =>
    let bad := acc.2.errCause (pa / 8 + k)
    let (r, s) := acc.2.readNear cl (pa / 8 + k) a
    ((acc.1.1 + r.1.toNat * 2 ^ (64 * k), acc.1.2.or (if r.2 then some bad else none)), s)) ((0, none), s)

/-- Words of a peer's line that this module holds, laid over what the home module answered: the near partition's copy, or the word registered at its proxy home (R159, R173, R208). -/
def State.foreignLine (s : State) (cl pa v : Nat) : Nat × Option Nat :=
  (upTo 8).foldl (fun acc k =>
    let w := pa / 8 + k
    match ((s.near cl w).map fun e => (e.data, e.poison)).or ((s.heldData w).map fun h => (h.data, h.poison || s.poisoned w)) with
    | some (d, bad) => (acc.1 + d.toNat * 2 ^ (64 * k), acc.2.or (if bad then some (s.errCause w) else none))
    | none => (acc.1 + v / 2 ^ (64 * k) % 2 ^ 64 * 2 ^ (64 * k), acc.2)) (0, none)

/-- A line of a core's instruction cache, by PA / 64. -/
def Core.iline (c : Core) (line : Nat) : Option Nat := (c.icache.find? fun e => e.1 == line).map (·.2)

/-- Keep a line in the instruction cache. -/
def State.keepLine (s : State) (core line bytes : Nat) : State :=
  s.updCore core fun c => { c with icache := KMap.ins c.icache line bytes }

/-- The trap of a fetch that met bad data (R367, R392). -/
def fetchBad (bad : Option Nat) (va : Nat) : M Unit :=
  match bad with
  | some c => trap c (dataVal 0x80 va)
  | none => pure ()

/-- The 64 bytes of the line at a virtual address: the instruction cache of the core, or of the erg's member that the line hashes to; the near partition, home; a scratchpad's port; a peer module (R208, R132, R173, R336). -/
def fetchBytes (va : Nat) : M Nat := do
  let s ← get
  let x ← xlateIn { s.space with l1 := false } va .fetch
  let s ← get
  let core := s.me.memberCore s.cur.core va
  if paClass x.pa = 1 then wayGate [(core, x.pa, 64)]
  match paClass x.pa with
  | 7 => trap Cause.misalign va
  | 1 =>
    match s.readSpm x.pa 64 with
    | .error c => trap c va
    | .ok (v, bad) =>
      upd fun s => s.metAt x.pa 64
      fetchBad bad va
      return v
  | k =>
    match (s.coreAt core).iline (x.pa / 64) with
    | some b => return b
    | none =>
      wayGate [(core, x.pa, 64)]
      if k = 2 && !(upTo 8).all fun n => s.served (clusterOf core) (x.pa / 8 + n) then
        let b ← askPeer x.pa (.read (x.pa % 2 ^ 39) 64) va
        let (v, bad) := (← get).foreignLine (clusterOf core) x.pa b
        fetchBad bad va
        upd fun s => s.keepLine core (x.pa / 64) v
        return v
      else
        if k = 3 && s.cxlDown then trap Cause.uncorrectable (dataVal 0x80 va)
        let (r, s) := s.lineWords (clusterOf core) x.pa x.via
        set s
        fetchBad r.2 va
        upd fun s => s.keepLine core (x.pa / 64) r.1
        return r.1

/-- The line that the context runs: entered, checked and its mask read where it has not been (R179, R182). DESIGN CHOICE (log 41): TRAPVAL of the VSTATE trap of line predication is 0; a PC beyond the last head of its line, come to without a checked transfer, takes ILLEGAL_LINE with the address of the line. -/
def enterLine : M Line := do
  let c ← me
  match c.line with
  | some l => return l
  | none =>
    let base := c.pc / 64 * 64
    let bytes ← fetchBytes base
    match lineOk bytes with
    | none => trap Cause.illegalLine base
    | some h =>
      trapIf (c.pc % 2 = 1 || c.pc % 64 / 2 = 0 || h.n < c.pc % 64 / 2) Cause.illegalLine base
      let mask ←
        if h.pe && h.pm ≠ 0 then
          match c.vs with
          | none => trap Cause.vstate 0
          | some v => pure (KMap.find 0 v.m h.pm % 2 ^ 31)
        else pure (2 ^ 31 - 1)
      let l : Line := ⟨base, bytes, h.n, mask⟩
      updMe fun c => { c with line := some l }
      return l

/-- Check that a transfer target is a head (R181). A line that cannot be fetched, or is malformed, traps at the target instead. -/
def checkTarget (t : Nat) : M Unit := do
  trapIf (t % 2 = 1 || t % 64 / 2 = 0) Cause.illegalLine t
  let s ← get
  match (fetchBytes (t / 64 * 64)).go s with
  | (.ok b, s') =>
    set s'
    match lineOk b with
    | none => pure ()
    | some h => trapIf (decide (h.n < t % 64 / 2)) Cause.illegalLine t
  | (.error (.trap _ _ _), _) => pure ()
  | (.error e, s') =>
    set s'
    throw e

/-- Transfer control to a head (R181, R182). -/
def transfer (t : Nat) : M Unit := updMe fun c => c.goto t

/-! ### Issuing one instruction -/

/-- The handler budget of a core (R97: 0 means 65,536). -/
def Core.budget (c : Core) : Nat := if c.hbudget = 0 then 65536 else c.hbudget

/-- An issue from a berth ends the YIELD holds of the core's other berths (R306). -/
def State.endHolds (s : State) (core idx : Nat) : State :=
  (upTo 8).foldl (fun (s : State) b =>
    if b ≠ idx && (s.ctxAt ⟨core, b⟩).hold.isSome then s.updCtx ⟨core, b⟩ fun x => { x with hold := none } else s) s

/-- Count an issued instruction: of a handler once it has completed (R48, R375); of a berth, for the other berths of the core that issued it (R306). -/
def State.countIssue (s : State) (c : CtxId) (at' : Nat × Nat) : State :=
  if c.isHandler then
    s.updCtx c fun x => if x.occ = .occupied && x.wait.isNone then { x with issued := x.issued + 1 } else x
  else s.endHolds at'.1 at'.2

/-- A thread that is being preempted has come to its instruction boundary: its berth drains (R26, R73). -/
def State.atBoundary (s : State) (c : CtxId) : State :=
  let x := s.ctxAt c
  if x.saving && x.occ = .occupied && x.wait.isNone then s.updCtx c fun x => { x with occ := .draining } else s

/-- Does the context hold a thread or handler that could issue, waiting for nothing that another agent ends (R26, R93, R306)? -/
def State.live (s : State) (c : CtxId) : Bool :=
  let x := s.ctxAt c
  x.occ == .occupied && x.wait.isNone && x.moving.isNone && s.corePresent c.core && !s.coreDead c.core

/-- The instruction word at a head of a line that is run. -/
def Line.word (l : Line) (pc : Nat) : Nat := lineWord l.bytes (pc % 64 / 2)

/-- Is the head null by line predication (R182)? -/
def Line.null (l : Line) (pc : Nat) : Bool := !bitAt l.mask (pc % 64 / 2 - 1)

/-- The core and berth whose issue opportunity the next instruction of a context takes: its own, or the LENT berth of the erg's member that its line hashes to (R52, R332, R336). -/
def State.issuesAt (s : State) (c : CtxId) : Nat × Nat :=
  let m := (s.ctxAt c).memberCore c.core ((s.ctxAt c).pc / 64 * 64)
  (m, if m = c.core then c.idx else 7)

/-- Has the vector unit not accepted the context's load: it waits below a watermark (R26, R269)? -/
def Ctx.parked (x : Ctx) : Bool :=
  match x.wait with
  | some (.mark _ _) => true
  | _ => false

/-- Run the instruction at a head of an entered line: an illegal encoding traps, a null head only moves on, any other runs (R182, R190). -/
def State.runHead (run : Run) (s : State) (c : CtxId) (l : Line) : Host.Outcome State Fault Refusal :=
  let pc := (s.ctxAt c).pc
  let at' := s.issuesAt c
  match decode (l.word pc) with
  | .illegal _ => .next (if s.trapWaits c Cause.illegalOp then s.trapLater c Cause.illegalOp else s.takeTrap c Cause.illegalOp (l.word pc) 0 pc)
  | .instr i =>
    if l.null pc then .next (((s.updCtx c fun x => x.advance.done).countIssue c at').atBoundary c)
    else
      match run i s with
      | .next s' => .next (if s'.waited || (s'.ctxAt c).parked then s' else (s'.countIssue c at').atBoundary c)
      | o => o

/-- Every register of a thread free from then on: contents, tags, scales, masks, queues, last results and what is held of failed loads; `f` numbers free values (R421). -/
def Ctx.loseRegisters (x : Ctx) (f : Nat) : Ctx :=
  let reg (g n : Nat) : VReg :=
    ⟨Config.pick n % 16, Config.pick (n + 64) % 2 = 1, Config.freeBits n % 2 ^ (2048 * g), (upTo 32).map fun b => (b, Config.pick (n + 128 + b) % 256)⟩
  let ent (g n : Nat) (e : QEnt) : QEnt := { e with r := reg g n }
  { x with x := (upTo 16).map (fun r => (r, Config.freeWord (f + r))), regErr := none,
           vs := x.vs.map fun v =>
             { v with v := (upTo 32).map (fun n => (n, reg v.g (f + 16 + n))), m := (upTo 7).map (fun n => (n + 1, Config.freeBits (f + 64 + n) % 2 ^ (256 * v.g))),
                      q := v.q.map (fun e => (e.1, e.2.map (ent v.g (f + 48 + e.1)))), l0 := ent v.g (f + 52) v.l0, l1 := ent v.g (f + 53) v.l1,
                      held := v.held.map fun e => (e.1, reg v.g (f + 54)) } }

/-- MACHINE_CHECK with a TRAPVAL: the context has lost content of its registers, which are free from then on (R421; log 5, log 37). -/
def State.lostRegister (s : State) (c : CtxId) (val : Nat) : State :=
  let pc := (s.ctxAt c).pc
  (({ s with freeN := s.freeN + 256 } : State).updCtx c fun x => x.loseRegisters s.freeN).takeTrap c Cause.machineCheck val 0 pc

/-- Issue the next instruction of a context: budget, fetch, decode, run (R372). -/
def State.issueFrom (run : Run) (s : State) (c : CtxId) : Host.Outcome State Fault Refusal :=
  let s := { s with cur := c, chosen := none, waited := false }
  if !s.live c then .next { s with waited := true }
  else
    let x := s.ctxAt c
    match x.regErr with
    | some code =>
      .next (if s.trapWaits c Cause.machineCheck then s.trapLater c Cause.machineCheck else s.lostRegister c (1 + code * 256))
    | none =>
      if c.isHandler && decide ((s.coreAt c.core).budget ≤ x.issued) then
        .next (if s.trapWaits c Cause.handlerBudget then s.trapLater c Cause.handlerBudget
          else s.takeTrap c Cause.handlerBudget (s.coreAt c.core).hbudget 0 x.pc)
      else
        match enterLine.go s with
        | (.ok l, s') => s'.runHead run c l
        | (.error (.trap cause val mask), s') =>
          .next (if s.trapWaits c cause then s.trapLater c cause else s'.takeTrap c cause val mask x.pc)
        | (.error .stall, s') => .next { s' with waited := true }
        | (.error (.sleep w), s') => .next (s'.updMe fun x => x.sleeps w)

/-! ### The choice of a context (R52) -/

/-- Is the context READY: would its next instruction issue? -/
def State.ready (run : Run) (s : State) (c : CtxId) : Bool :=
  s.live c &&
    match s.issueFrom run c with
    | .next s' => !s'.waited
    | _ => true

/-- The home berth of the erg that a core is a member of, other than as its home, when it is composed now (R332). -/
def State.ergOf (s : State) (core : Nat) : Option CtxId :=
  ((clusterCores (clusterOf core)).flatMap fun k => (upTo 8).map fun b => (⟨k, b⟩ : CtxId)).find? fun c =>
    c.core != core && (s.ctxAt c).occ == .occupied && (s.ctxAt c).composed && (ergMembers c.core (s.ctxAt c).ergSize).contains core

/-- The context that a berth of a core issues from: its own thread, or for a LENT berth the erg (R26, R52). -/
def State.berthCtx (s : State) (core b : Nat) : CtxId :=
  if (s.ctxAt ⟨core, b⟩).occ = .lent then (s.ergOf core).getD ⟨core, b⟩ else ⟨core, b⟩

/-- Is a berth ready: its context READY, and the next line one that this core executes (R336)? -/
def State.berthReady (run : Run) (s : State) (core b : Nat) : Bool :=
  let c := s.berthCtx core b
  (s.issuesAt c).1 == core && s.ready run c

/-- The berths of a list that follow `last`, in round-robin order. -/
def afterLast (last : Nat) (l : List Nat) : Option Nat :=
  ((upTo 8).map fun k => (last + 1 + k) % 8).find? fun b => l.contains b

/-- Is the berth held by YIELD (R306)? -/
def State.held (s : State) (c : CtxId) : Bool :=
  match (s.ctxAt c).hold with
  | some t => decide (s.fc < t)
  | none => false

/-- The issue state after `n` opportunities at which nothing was ready (R52). -/
def Core.idle (k : Core) (n : Nat) : Core :=
  if n = 0 then k
  else if n ≤ k.left then { k with hprev := false, left := k.left - n }
  else { k with hprev := false, left := (8 - (n - k.left) % 8) % 8, owed := [] }

/-- One issue opportunity of a core, at the present fc (R52): the context chosen, if any, and the core's issue state. -/
def State.pick (run : Run) (s : State) (core : Nat) : Option CtxId × State :=
  let k := s.coreAt core
  let berths := (upTo 8).filter fun b => s.berthReady run core b && !s.held (s.berthCtx core b)
  let slots := (upTo 2).filter fun n => s.ready run ⟨core, 8 + n⟩
  if !slots.isEmpty && (berths.isEmpty || !k.hprev) then
    let n := if slots.length = 2 then 1 - k.lastSlot else slots.headD 0
    (some ⟨core, 8 + n⟩, s.updCore core fun k => { k with hprev := true, lastSlot := n })
  else
    let left := if k.left = 0 then 8 else k.left
    let owed := if k.left = 0 then berths else k.owed
    let due := owed.filter fun b => berths.contains b
    let pick : Option Nat :=
      if decide (left ≤ owed.length) && !due.isEmpty then afterLast k.last due
      else match berths.find? fun b => (s.ctxAt (s.berthCtx core b)).composed with
        | some b => some b
        | none => afterLast k.last berths
    match pick with
    | none => (none, s.updCore core fun k => { k with hprev := false, left := left - 1, owed := owed })
    | some b =>
      (some (s.berthCtx core b), s.updCore core fun k =>
        { k with hprev := false, left := left - 1, owed := owed.filter (· != b), last := b })

/-- The opportunity of a core in the present fc, once (R52): first those of the fc in which it held no context to be ready. -/
def State.select (run : Run) (s : State) (core : Nat) : Option CtxId × State :=
  let k := s.coreAt core
  if s.fc < k.seen then (none, s)
  else (s.updCore core fun k => { k.idle (s.fc - k.seen) with seen := s.fc + 1 }).pick run core

end Sys2Proof.Machine
end

