-- ==== Sys2Proof/Machine/VecState.lean ====
section
/-! DEFINITION. Vector state: grants of rows, bank moves between the VRF and L1D, lane gating (R15, R88 to R94, R244, R245). -/
namespace Sys2Proof.Machine

/-- Bits of a register at grant size `g` with `lanes` lanes (R89). -/
def grantBits (g lanes : Nat) : Nat := g * (64 * lanes)

/-- VLMAX(w) (R89). -/
def vlmax (g lanes w : Nat) : Nat := grantBits g lanes / w

/-- Keep the elements below a number of bits (R91, R94); with `scales`, entries of blocks that are not kept read 127. -/
def VReg.cut (r : VReg) (n : Nat) (scales : Bool) : VReg :=
  { r with bits := r.bits % 2 ^ n,
           sc := if scales then r.sc.filter fun e => decide (256 * e.1 * tyWidth r.ty < n) else r.sc }

/-- Cut every register, queue entry and last result (R91, R94). -/
def VState.cut (v : VState) (n : Nat) (scales : Bool) : VState :=
  let e (x : QEnt) : QEnt := { x with r := x.r.cut n scales }
  { v with v := v.v.map fun x => (x.1, x.2.cut n scales), q := v.q.map fun x => (x.1, x.2.map e), l0 := e v.l0, l1 := e v.l1,
           held := v.held.map fun x => (x.1, x.2.cut n scales) }

/-- A new grant (R91): where its size changes, masks keep the bits below the new VLMAX(8). A grant of the same size keeps them all, also those that a fall of VLANES put out of reach, and every scale (R84, R94). -/
def VState.regrant (v : VState) (g lanes : Nat) : VState :=
  let m := if g = v.g then v.m else v.m.map fun x => (x.1, x.2 % 2 ^ vlmax g lanes 8)
  { v.cut (grantBits g lanes) (g != v.g) with g := g, m := m }

/-- The vector state of a context. -/
def State.vsAt (s : State) (c : CtxId) : Option VState := (s.ctxAt c).vs

/-- Rows granted on a core (R88). -/
def State.grantedRows (s : State) (core : Nat) : Nat :=
  (upTo 8).foldl (fun n b => n + match s.vsAt ⟨core, b⟩ with
    | some v => 32 * v.g
    | none => 0) 0

/-- Banks that SETVL may still take (R90). -/
def Core.movable (c : Core) : Nat := if c.fixed then 0 else min (c.vrfcap - c.banks) (28 - c.banks)

/-- The grant sizes, largest first. -/
def grantSizes : List Nat := [32, 16, 8, 4, 2, 1]

/-- The size that R90 grants to a berth: `gr` is asked for, `held` rows are its own. -/
def State.grantSize (s : State) (c : CtxId) (gr held : Nat) : Nat :=
  let k := s.coreAt c.core
  let free := 64 * k.banks - s.grantedRows c.core
  let avail := free + held + 64 * k.movable
  let g := (grantSizes.find? fun g => decide (g ≤ gr) && decide (32 * g ≤ avail)).getD 0
  let others := (upTo 8).filter fun b => b != c.idx
  if others.any fun b => (s.ctxAt ⟨c.core, b⟩).short then
    let n := 1 + (others.filter fun b => (s.ctxAt ⟨c.core, b⟩).short || (s.vsAt ⟨c.core, b⟩).isSome).length
    let gf := (grantSizes.find? fun g => decide (32 * g * n ≤ 64 * (k.banks + k.movable))).getD 1
    let g := min g (max gf 1)
    if g < held / 32 && decide (0 < held) then max g 1 else g
  else g

/-- Move `b` banks from L1D to the VRF (R92): the lines that lie in them leave for the near partition. Which lines a bank holds is the model's choice (log 8). -/
def State.moveBanks (s : State) (core b : Nat) : State :=
  if b = 0 then s
  else
    let n := 32 - (s.coreAt core).banks
    let lines := (((s.coreAt core).l1.map fun e => e.1 / 8).eraseDups).filter fun l => decide (l % n < b)
    let s := lines.foldl (fun s l => s.spillLine core l) s
    s.updCore core fun k => { k with banks := k.banks + b }

/-- R90 for the acting thread: the new grant, VL and the number of banks moved. -/
def State.occupy (s : State) (gr avl w : Nat) : Nat × Nat × State :=
  let c := s.cur
  let held := match s.me.vs with
    | some v => 32 * v.g
    | none => 0
  let g := s.grantSize c gr held
  let k := s.coreAt c.core
  let free := 64 * k.banks - s.grantedRows c.core
  let b := (32 * g - free - held + 63) / 64
  let s := s.moveBanks c.core b
  let s := s.updMe fun x => { x with short := decide (g < gr) }
  if g = 0 then (0, b, s.updMe fun x => { x with vs := none })
  else
    let vl := min avl (vlmax g k.vlanes w)
    (vl, b, s.updMe fun x =>
      match x.vs with
      | none => { x with vs := some (VState.init g vl) }
      | some v => { x with vs := some { (v.regrant g k.vlanes) with vl := vl } })

/-- One bank returns to L1D when the VRF holds more than VRFB and 64 of its rows are free (R92). -/
def State.bankReturnAt (s : State) (core : Nat) : State :=
  let k := s.coreAt core
  if k.vrfb < k.banks && s.grantedRows core + 64 ≤ 64 * k.banks then
    s.updCore core fun k => { k with banks := k.banks - 1 }
  else s

/-- VL of a state under another lane count (R94). -/
def VState.lanes (v : VState) (old new : Nat) : VState :=
  let v := if new < old then { v with vl := v.vl * new / old } else v
  v.cut (grantBits v.g new) false

/-- A write of VLANES (R94, R22). -/
def State.setLanes (s : State) (core v : Nat) : State :=
  let v := if v = 32 && s.narrow core then 16 else v
  let old := (s.coreAt core).vlanes
  if v = 8 || v = 16 || v = 32 then
    let s := s.updCore core fun k => { k with vlanes := v }
    let s := (upTo 8).foldl (fun s b => s.updCtx ⟨core, b⟩ fun x => x.updV fun k => k.lanes old v) s
    { s with pend := s.pend.map fun p =>
        if p.ctxKey / 16 = core then
          match s.vsAt (CtxId.ofKey p.ctxKey) with
          | some k => { p with vr := p.vr.cut (grantBits k.g v) false }
          | none => p
        else p }
  else s

/-- A write of FLEXCFG: VRFB above the bank count moves banks at once (R97, R98). Answers the banks moved. -/
def State.setFlex (s : State) (core v : Nat) : Nat × State :=
  let b := min 28 (bitsAt v 0 5)
  let s := s.updCore core fun k => { k with vrfb := b, vrfcap := min 28 (bitsAt v 8 5), fixed := bitAt v 16 }
  let n := b - (s.coreAt core).banks
  (n, s.moveBanks core n)

/-- Is a result for a vector destination still on its way to the context (R244, R245)? -/
def State.vectorBusy (s : State) (c : CtxId) : Bool :=
  s.pend.any fun p => p.ctxKey == c.key && p.uid == (s.ctxAt c).uid &&
    match p.dst with
    | .v _ | .q _ | .last => true
    | _ => false

/-- The vector state of the acting thread; without one, VSTATE (R88, R240). -/
def vstate : M VState := do
  match (← me).vs with
  | some v => return v
  | none => trap Cause.vstate 0

/-- Lanes of the acting core. -/
def lanesM : M Nat := do
  let s ← get
  return (s.coreAt s.cur.core).vlanes

/-- VL must fit each operand and destination at its own width (R89, R240). -/
def limit (v : VState) (ws : List Nat) : M Unit := do
  let lanes ← lanesM
  trapIf (ws.any fun w => decide (vlmax v.g lanes w < v.vl)) Cause.vstate v.vl

/-- The gates that every vector instruction passes (R240, R342, R372 steps 6, 8, 9). -/
def vectorGate (op : Nat) : M VState := do
  notService
  notErg op
  vstate

/-- SETVL and VCFG in a handler slot (R240). -/
def notHandlerVector : M Unit := do trapIf (← curId).isHandler Cause.vstate 0

/-- Wait until every earlier vector instruction of the thread has completed (R244, R245). -/
def vectorIdle : M Unit := do
  let s ← get
  if s.vectorBusy s.cur then stall

/-- A bank move: the destination is empty and the thread issues nothing until the move ends (R93, R98). -/
def moveBegins (d : Nat) (v : Nat) : M Unit := updMe fun x => { x.markX d .empty with moving := some (d, v) }

/-- The width that a SETVL code names (R238). -/
def setvlWidth (w : BitVec 2) : Nat := 8 * 2 ^ w.toNat

/-- SETVL (R245). -/
def execSetvl (w : BitVec 2) (g : BitVec 4) (d : Reg) (a : Src) (s : State) : Host.Outcome State Fault Refusal :=
  issue (do
    operands [srcX a] [.x d.toNat false]
    notService
    notErg 0x41
    notHandlerVector
    vectorIdle
    let x ← me
    let avl := (← readX a).toNat
    let gr := if g.toNat ≠ 0 then 2 ^ (g.toNat - 1) else match x.vs with
      | some v => v.g
      | none => 4
    let (vl, b, s') := (← get).occupy gr avl (setvlWidth w)
    set s'
    if b = 0 then writeX d (wd vl) else moveBegins d.toNat vl
    advance) s

/-- SETVL.FREE: the vector state is released (R245). -/
def execSetvlFree (d : Reg) (s : State) : Host.Outcome State Fault Refusal :=
  issue (do
    operands [] [.x d.toNat false]
    notService
    notErg 0x41
    notHandlerVector
    vectorIdle
    updMe fun x => { x with vs := none, short := false }
    writeX d 0
    advance) s

/-- VCFG (R244). -/
def execVcfg (ty : BitVec 4) (sc : Bool) (vd : BitVec 5) (s : State) : Host.Outcome State Fault Refusal :=
  issue (do
    let n := vd.toNat
    notService
    notErg 0x40
    notHandlerVector
    vectorIdle
    operands [] [.v n false]
    let x ← me
    let (b, s') := match x.vs with
      | some _ => (0, s)
      | none => ((s.occupy 4 0 8).2.1, (s.occupy 4 0 8).2.2)
    if x.vs.isNone then set s'
    let v ← vstate
    limit v [tyWidth ty.toNat]
    updMe fun x => x.updV fun v => v.tagV n ty.toNat sc
    if b ≠ 0 then moveBegins 0 0
    advance) s

end Sys2Proof.Machine
end

