-- ==== Sys2Proof/Machine/System.lean ====
section
/-! DEFINITION. Control flow, traps, and the system registers (R94 to R100, R181, R195 to R208). -/
namespace Sys2Proof.Machine

/-! ### Branches and calls (R197 to R199) -/

/-- The target of a relative transfer (R181). -/
def relTarget (pc : Nat) (imm : BitVec 32) : Nat := (wd (pc / 64 * 64) + 2 * imm.signExtend 64).toNat

/-- Transfer to a checked target. -/
def jump (t : Nat) : M Unit := do
  checkTarget t
  transfer t

/-- Transfer to a checked target, the next head in x15. -/
def jumpLink (t : Nat) : M Unit := do
  checkTarget t
  let c ← me
  updMe fun x => x.setX 15 (wd c.next)
  transfer t

/-- Branch when a condition holds. -/
def branchIf (c : Bool) (imm : BitVec 32) : M Unit := do
  if c then jump (relTarget (← me).pc imm) else advance

/-- A branch that compares two registers. -/
def compareBranch (a b : Src) (imm : BitVec 32) (f : Word → Word → Bool) : M Unit := do
  operands [srcX a, srcX b] []
  branchIf (f (← readX a) (← readX b)) imm

/-- NOP (R206). -/
def execNop (s : State) : Host.Outcome State Fault Refusal := issue advance s

/-- BR (R197). -/
def execBr (imm : BitVec 32) (s : State) : Host.Outcome State Fault Refusal := issue (do jump (relTarget (← me).pc imm)) s

/-- CALL (R197). -/
def execCall (imm : BitVec 32) (s : State) : Host.Outcome State Fault Refusal :=
  issue (do
    operands [] [.x 15 false]
    jumpLink (relTarget (← me).pc imm)) s

/-- JR (R198). -/
def execJr (a : Src) (s : State) : Host.Outcome State Fault Refusal :=
  issue (do
    operands [srcX a] []
    jump (← readX a).toNat) s

/-- CALLR (R198). -/
def execCallr (a : Src) (s : State) : Host.Outcome State Fault Refusal :=
  issue (do
    operands [srcX a] [.x 15 false]
    jumpLink (← readX a).toNat) s

/-- RET (R198). -/
def execRet (s : State) : Host.Outcome State Fault Refusal :=
  issue (do
    operands [.x 15 true] []
    jump ((← me).getX 15).toNat) s

/-- BCC.EQ (R199). -/
def execBccEq (a b : Src) (imm : BitVec 32) (s : State) : Host.Outcome State Fault Refusal :=
  issue (compareBranch a b imm fun x y => x == y) s
/-- BCC.NE (R199). -/
def execBccNe (a b : Src) (imm : BitVec 32) (s : State) : Host.Outcome State Fault Refusal :=
  issue (compareBranch a b imm fun x y => x != y) s
/-- BCC.LT (R199). -/
def execBccLt (a b : Src) (imm : BitVec 32) (s : State) : Host.Outcome State Fault Refusal :=
  issue (compareBranch a b imm slt') s
/-- BCC.GE (R199). -/
def execBccGe (a b : Src) (imm : BitVec 32) (s : State) : Host.Outcome State Fault Refusal :=
  issue (compareBranch a b imm fun x y => !slt' x y) s
/-- BCC.LTN (R199). -/
def execBccLtn (a b : Src) (imm : BitVec 32) (s : State) : Host.Outcome State Fault Refusal :=
  issue (compareBranch a b imm fun x y => decide (x.toNat < y.toNat)) s
/-- BCC.GEN (R199). -/
def execBccGen (a b : Src) (imm : BitVec 32) (s : State) : Host.Outcome State Fault Refusal :=
  issue (compareBranch a b imm fun x y => decide (y.toNat ≤ x.toNat)) s

/-- BZ (R199). -/
def execBz (a : Src) (imm : BitVec 32) (s : State) : Host.Outcome State Fault Refusal :=
  issue (do
    operands [srcX a] []
    branchIf ((← readX a) == 0) imm) s
/-- BNZ (R199). -/
def execBnz (a : Src) (imm : BitVec 32) (s : State) : Host.Outcome State Fault Refusal :=
  issue (do
    operands [srcX a] []
    branchIf ((← readX a) != 0) imm) s

/-! ### TRAP, BRK, TRET (R201 to R203) -/

/-- TRAPVAL of a software trap: what raised it above the immediate, sign-extended to 32 bits. -/
def softwareVal (kind : Nat) (imm : BitVec 27) : Nat := kind * 2 ^ 32 + (imm.signExtend 32).toNat

/-- TRAP: completes, then enters the trap with the next head as TRAPPC (R201); the entry that a handler's abort logs holds the head of the TRAP itself (R378). An erg hands back first (R343). -/
def execTrap (imm : BitVec 27) (s : State) : Host.Outcome State Fault Refusal :=
  .next (if s.trapWaits s.cur Cause.software then s.trapLater s.cur Cause.software
    else s.takeTrap s.cur Cause.software (softwareVal 0 imm) 0 (if s.cur.isHandler then s.me.pc else s.me.next))

/-- BRK (R202). -/
def execBrk (imm : BitVec 27) (s : State) : Host.Outcome State Fault Refusal :=
  issue (trap Cause.software (softwareVal 1 imm)) s

/-- TRET (R203). A thread that becomes an erg again leaves no dirty word in its home core's L1 alone (R341, R345). -/
def execTret (s : State) : Host.Outcome State Fault Refusal :=
  issue (do
    let c ← me
    trapIf (!c.trapBit) Cause.priv 0
    trapIf (c.tstatus.toNat % 4 = 3 && c.pl ≠ 3) Cause.priv 0
    checkTarget c.trappc.toNat
    let id ← curId
    if (c.leaveTrap id).composed then upd fun s => s.cleanToNear id.core
    updMe fun c => c.leaveTrap id) s

/-! ### System registers (R95 to R100, R204, R205) -/

/-- Who may read and who may write a register: none where writes are ignored; absent where the number is unassigned (R95). -/
def sysAccess (n : Nat) : Option (Nat × Option Nat) :=
  match n with
  | 0x000 => some (0, none)
  | 0x001 | 0x002 | 0x003 | 0x004 | 0x005 | 0x006 => some (1, some 1)
  | 0x010 | 0x011 => some (0, some 0)
  | 0x020 => some (0, some 1)
  | 0x021 | 0x030 | 0x031 | 0x032 | 0x033 => some (1, some 1)
  | 0x040 | 0x041 | 0x042 | 0x043 | 0x044 | 0x045 | 0x046 | 0x047 => some (0, some 1)
  | 0x050 | 0x051 | 0x052 | 0x060 => some (1, some 1)
  | 0x070 | 0x071 | 0x072 => some (0, none)
  | 0x073 => some (0, some 3)
  | 0x080 | 0x081 | 0x082 => some (1, some 1)
  | _ => none

/-- The value of a system register for the acting context (R95 to R99). -/
def State.readSys (s : State) (n : Nat) : Nat :=
  let x := s.me
  let k := s.coreAt s.cur.core
  let d := s.dispAt (svcOfCore s.cur.core)
  let h := s.cur.isHandler
  match n with
  | 0x000 => statusOf s.cur x
  | 0x001 => if h then 0 else x.tstatus.toNat
  | 0x002 => k.tvec * 64
  | 0x003 => if h then 0 else x.trappc.toNat
  | 0x004 => if h then 0 else x.trapcause.toNat
  | 0x005 => if h then 0 else x.trapval.toNat
  | 0x006 => if h then 0 else x.trapmask.toNat
  | 0x010 => x.fcsr
  | 0x011 => x.seed
  | 0x020 => k.vlanes
  | 0x021 => k.vrfb + k.vrfcap * 2 ^ 8 + (if k.fixed then 2 ^ 16 else 0)
  | 0x030 => k.mboxdepth
  | 0x031 => if k.mboxpol then 1 else 0
  | 0x032 => k.htab
  | 0x033 => k.hbudget
  | 0x040 | 0x041 | 0x042 | 0x043 | 0x044 | 0x045 | 0x046 | 0x047 => (KMap.find 0 k.wincfg (n - 0x040)).toNat
  | 0x050 => if h then k.hptbase else x.ptbase
  | 0x051 => if h then k.hasid else x.asid
  | 0x052 => k.saveBase + k.saveN
  | 0x060 => (if k.lend then 1 else 0) + (if k.usrc then 2 else 0)
  | 0x070 => s.fc
  | 0x071 => s.fc / 2
  | 0x072 => s.cur.core
  | 0x073 => s.pkgid
  | 0x080 => d.tdage
  | 0x081 => d.hotthr
  | 0x082 => d.hotq
  | _ => 0

/-- FCSR as a write stores it: reserved modes store 000 (R96). -/
def fcsrStored (v : Nat) : Nat :=
  let v := v % 2 ^ 9
  if bitsAt v 5 3 = 6 || bitsAt v 5 3 = 7 then v - bitsAt v 5 3 * 32 else v

/-- WINCFG as a write stores it: reserved bits read zero (R98). -/
def wincfgStored (v : Nat) : Word := wd (v % 2 ^ 11 + bitsAt v 12 2 * 2 ^ 12 + bitsAt v 32 18 * 2 ^ 32)

/-- The address space that a write of HTAB or HOTQ captures: the writer's (R44, R95, R100). -/
def State.writerSpace (s : State) : Nat × Nat := ((s.space).ptbase, (s.space).asid)

/-- A write of a system register by the acting context; answers how many banks it moves (R94 to R100). -/
def State.writeSys (s : State) (n v : Nat) : Nat × State :=
  let core := s.cur.core
  let k := s.coreAt core
  let h := s.cur.isHandler
  let upC (f : Core → Core) : Nat × State := (0, s.updCore core f)
  let upX (f : Ctx → Ctx) : Nat × State := (0, s.updMe f)
  let upB (f : Ctx → Ctx) : Nat × State := (0, if h then s else s.updMe f)
  let upD (f : Disp → Disp) : Nat × State := (0, s.updDisp (svcOfCore core) f)
  match n with
  | 0x001 => upB fun x => { x with tstatus := wd (v % 2 ^ 13) }
  | 0x002 => upC fun k => { k with tvec := v / 64 }
  | 0x003 => upB fun x => { x with trappc := wd v }
  | 0x004 => upB fun x => { x with trapcause := wd (v % 2 ^ 8) }
  | 0x005 => upB fun x => { x with trapval := wd v }
  | 0x006 => upB fun x => { x with trapmask := wd (v % 2 ^ 37) }
  | 0x010 => upX fun x => { x with fcsr := fcsrStored v }
  | 0x011 => upX fun x => { x with seed := if v % 2 ^ 32 = 0 then 1 else v % 2 ^ 32 }
  | 0x020 => (0, s.setLanes core (v % 2 ^ 6))
  | 0x021 => s.setFlex core v
  | 0x030 => upC fun k => { k with mboxdepth := min 32 (max 2 (v % 2 ^ 6)) }
  | 0x031 => upC fun k => { k with mboxpol := bitAt v 0 }
  | 0x032 =>
    let (p, a) := s.writerSpace
    upC fun k => { k with htab := v / 1024 * 1024, hptbase := p, hasid := a, hsup := decide (s.me.pl ≠ 0) }
  | 0x033 => upC fun k => { k with hbudget := v % 2 ^ 16 }
  | 0x040 | 0x041 | 0x042 | 0x043 | 0x044 | 0x045 | 0x046 | 0x047 =>
    upC fun k => { k with wincfg := KMap.put 0 k.wincfg (n - 0x040) (wincfgStored v) }
  | 0x050 => upB fun x => { x with ptbase := v % 2 ^ 52 / 2 ^ 13 * 2 ^ 13 }
  | 0x051 => upB fun x => { x with asid := v % 2 ^ 16 }
  | 0x052 => if k.saved.isEmpty then upC fun k => { k with saveBase := v % 2 ^ 52 / 2 ^ 16 * 2 ^ 16, saveN := v % 2 ^ 8 } else (0, s)
  | 0x060 => upC fun k => { k with lend := bitAt v 0, usrc := bitAt v 1 }
  | 0x073 => (0, { s with pkgid := v % 2 ^ 10 })
  | 0x080 => upD fun d => { d with tdage := v % 2 ^ 32 }
  | 0x081 => upD fun d => { d with hotthr := v % 2 ^ 32 }
  | 0x082 =>
    let (p, a) := s.writerSpace
    upD fun d => { d with hotq := v / 64 * 64, qptbase := p, qasid := a }
  | _ => (0, s)

/-- May a context at a level do what asks for `need`? -/
def levelOk (pl need : Nat) : Bool := decide (need ≤ pl)

/-- SYSR and SYSW of FCSR and SEEDSR wait for the window writes that the thread has issued (R205, R291). -/
def numericIdle (n : Nat) : M Unit := do
  if n = 0x010 || n = 0x011 then
    if (← me).stream.any fun e => match e.cmd with
      | .mst _ _ _ _ _ _ _ _ _ _ => true
      | _ => false
    then stall

/-- SYSR (R204). -/
def execSysr (d : Reg) (n : BitVec 12) (s : State) : Host.Outcome State Fault Refusal :=
  issue (do
    operands [] [dstX d]
    match sysAccess n.toNat with
    | none => trap Cause.illegalOp n.toNat
    | some (need, _) =>
      trapIf (!levelOk (← me).pl need) Cause.priv n.toNat
      numericIdle n.toNat
      writeX d (wd ((← get).readSys n.toNat))
      advance) s

/-- SYSW (R204): the number is checked before the source is read (R372). -/
def execSysw (n : BitVec 12) (a : Src) (s : State) : Host.Outcome State Fault Refusal :=
  issue (do
    trapIf (sysAccess n.toNat).isNone Cause.illegalOp n.toNat
    operands [srcX a] []
    match sysAccess n.toNat with
    | none | some (_, none) => advance
    | some (_, some need) =>
      trapIf (!levelOk (← me).pl need) Cause.priv n.toNat
      numericIdle n.toNat
      let v := (← readX a).toNat
      let (b, s) := (← get).writeSys n.toNat v
      set s
      if b ≠ 0 then moveBegins 0 0
      advance) s

/-! ### HALT and IFENCE (R207, R208) -/

/-- HALT (R207). -/
def execHalt (s : State) : Host.Outcome State Fault Refusal :=
  issue (do
    trapIf ((← me).pl = 0) Cause.priv 0
    notHandler
    if !(← me).wake then stall
    updMe fun x => { x with wake := false }
    advance) s

/-- IFENCE (R208); an erg's lines are in the instruction caches of its members (R336). -/
def execIfence (s : State) : Host.Outcome State Fault Refusal :=
  issue (do
    releaseM 0 1023
    waitPoint
    upd fun s => (s.me.l1s s.cur.core).foldl (fun s k => s.updCore k.1 fun k => { k with icache := [] }) s
    advance
    updMe fun x => { x with line := none }) s

end Sys2Proof.Machine
end

