-- ==== Sys2Proof/Machine/Mem.lean ====
section
/-! DEFINITION. Memory accesses of threads: pages and classes checked, data read and written by mode, write-blocked pages (R122 to R132, R139, R145, R158, R173, R222 to R225, R339, R340, R387, R390, R392, R430). -/
namespace Sys2Proof.Machine

/-! ### Addresses -/

/-- Pieces of `n` bytes from `a` that cross no multiple of `unit`: offset and length; at most `fuel` of them. -/
def splitAt' (unit : Nat) : Nat → Nat → Nat → Nat → List (Nat × Nat)
  | 0, _, _, _ => []
  | fuel + 1, a, off, n =>
    if n = 0 then []
    else
      let k := min n (unit - a % unit)
      (off, k) :: splitAt' unit fuel (a + k) (off + k) (n - k)

/-- The bytes of a piece of an access within one page. -/
structure Piece where
  x : Xl
  off : Nat
  len : Nat
  deriving DecidableEq, Repr

/-- Checks of a translated piece that need its class or its mode. -/
abbrev Check := Xl → Nat → M Unit

/-- Translate and check every page that `n` bytes touch, the lowest first (R224, R372 step 13, R387). -/
def span (va n : Nat) (kind : Kind) (chk : Check) : M (List Piece) :=
  (splitAt' 65536 (n / 65536 + 2) va 0 n).mapM fun p => do
    let x ← xlateM ((va + p.1) % 2 ^ 64) kind
    chk x p.2
    return ⟨x, p.1, p.2⟩

/-- The element window of a scratchpad address that is not window 0. -/
def State.elemWindow (s : State) (pa : Nat) : Option Window :=
  s.window (spmAddr pa).core (spmAddr pa).window

/-- Does the address lie behind a window other than 0? -/
def behindWindow (pa : Nat) : Bool := paClass pa == 1 && (spmAddr pa).window != 0

/-- Windows: PROTECTION where the window is unusable, MISALIGN where the access splits an element (R127, R129). -/
def windowCheck (x : Xl) (n : Nat) : M Unit := do
  if behindWindow x.pa then
    match (← get).elemWindow x.pa with
    | none => trap Cause.protection x.va
    | some w => trapIf (!w.aligned (spmAddr x.pa).off n) Cause.misalign x.va

/-- LD and ST: device registers in whole aligned words, nothing misaligned on SYNC pages or through windows 1 to 15 (R126, R224). -/
def plainCheck (aligned : Bool) (n : Nat) : Check := fun x k => do
  windowCheck x k
  trapIf (!aligned && (x.mode == 3 || behindWindow x.pa)) Cause.misalign x.va
  trapIf (paClass x.pa = 7 && (n ≠ 8 || !aligned)) Cause.misalign x.va

/-- Device registers take nothing but LD and ST in whole words (R126). -/
def notDevice (x : Xl) : M Unit := trapIf (paClass x.pa = 7) Cause.misalign x.va

/-- LDA, STREL and WMADV: a SYNC page of class 000, 001 or 010 (R222); the mode comes before what it splits (R372, step 13). -/
def syncCheck : Check := fun x n => do
  trapIf (x.mode ≠ 3 || (3 ≤ paClass x.pa && paClass x.pa ≠ 7)) Cause.protection x.va
  notDevice x
  windowCheck x n

/-- Locks and WAITV on SYNC pages; behind no window but 0 (R222). -/
def lockCheck : Check := fun x _ => do
  trapIf (x.mode ≠ 3 || (3 ≤ paClass x.pa && paClass x.pa ≠ 7) || behindWindow x.pa) Cause.protection x.va
  notDevice x

/-- Group records on SYNC pages of classes 000, 001 window 0 and 010; every other class refuses them (R32, R307). -/
def groupCheck : Check := fun x _ => trapIf (x.mode ≠ 3 || 3 ≤ paClass x.pa || behindWindow x.pa) Cause.protection x.va

/-- AMOs: classes 000, 001 window 0, 010, 011 (R222, R129). -/
def amoCheck : Check := fun x _ => do
  trapIf ((3 < paClass x.pa && paClass x.pa ≠ 7) || behindWindow x.pa) Cause.protection x.va
  notDevice x

/-- SCRUB: classes 000, 001 window 0, 010 (R222). DESIGN CHOICE (log 50): on a device register it takes MISALIGN, as R222 and R126 have it of every access but LD and ST; the row of SCRUB in R381 gives PROTECTION. -/
def scrubCheck : Check := fun x _ => do
  trapIf ((2 < paClass x.pa && paClass x.pa ≠ 7) || behindWindow x.pa) Cause.protection x.va
  notDevice x

/-- Accesses that their home cannot take yet wait (R174, R358, R417, R418). -/
def baseGate (l : List Piece) : M Unit := do
  let s ← get
  wayGate (l.map fun p => (s.cur.core, p.x.pa, p.len))

/-- A write to a write-blocked page sleeps and walks again; a handler traps instead (R49, R145, R390). The token of an earlier walk holds the time at which the wait began. -/
def blockGate (l : List Xl) : M Unit := do
  match l.find? fun x => x.wb with
  | none => pure ()
  | some x =>
    notHandler
    let s ← get
    let since := match s.me.token with
      | some [t] => t.toNat
      | _ => s.fc
    throw (.sleep (.writeBlock since s.fc x.va))

/-! ### Reading -/

/-- Is every word of an access in the L1 or the near partition that serves it? -/
def State.nearby (s : State) (x : Xl) (n : Nat) (near : Bool) : Bool :=
  let m := (s.me.member s.cur.core x.va).1
  decide (x.mode < 2) && (wordsOf x.pa n).all fun w =>
    (s.l1 m w).isSome || (near && (s.near (clusterOf m) w).isSome)

/-- `n` bytes of classes 000 and 011, or of class 010 whose words are held, each line through its data member; the cause where some word is bad. -/
def State.readLines (s : State) (x : Xl) (n : Nat) (alloc : Bool) : (Nat × Option Nat) × State :=
  (splitAt' 64 (n / 64 + 2) x.pa 0 n).foldl (fun (acc : (Nat × Option Nat) × State) p =>
    let s := acc.2
    let m := s.me.member s.cur.core (x.va + p.1)
    let r := s.readMem m.1 m.2 s.me.comb { x with va := x.va + p.1, pa := x.pa + p.1 } p.2 alloc
    ((acc.1.1 + r.1.1 * 256 ^ p.1, acc.1.2.or r.1.2), r.2)) ((0, none), s)

/-- Does the module hold a grant for the page of a class-010 address (R173)? -/
def State.granted (s : State) (pa : Nat) : Bool := (KMap.find none s.grants (pa / 65536)).isSome

/-- Is a word of a peer module held in this cluster, or registered at its proxy home? -/
def State.heldWord (s : State) (core w : Nat) : Bool :=
  (s.l1 core w).isSome || (s.near (clusterOf core) w).isSome || (s.holder w).isSome

/-- Fetch the words of a granted page that an access needs and that are not held (R173); the cause where one does not come, or has been lost with its holder (R400). -/
def fetchForeign (x : Xl) (n : Nat) : M (Option Nat) :=
  (wordsOf x.pa n).foldlM (fun bad w => do
    let s ← get
    let core := (s.me.member s.cur.core x.va).1
    if s.poisoned w then return bad.or (some (s.errCause w))
    else if s.heldWord core w then return bad
    else match ← peerAnswer (8 * w) (.read (8 * w % 2 ^ 39) 8) x.va with
      | .value v =>
        upd fun s => s.setNear (clusterOf core) w ⟨wd v, x.region, none, false, 0, 0⟩
        return bad
      | .bad c => return bad.or (some c)) none

/-- Words that this module holds of a peer's bytes, laid over what the home module answered (R159, R173). -/
def State.layHeld (s : State) (core pa n v : Nat) : Nat × Option Nat :=
  (wordsOf pa n).foldl (fun acc w =>
    match (s.frontWord core w).or ((s.heldData w).map fun h => (h.data, h.poison || s.poisoned w)) with
    | none => acc
    | some (d, bad) =>
      let lo := max (8 * w) pa
      let k := min (8 * w + 8) (pa + n) - lo
      let o := lo - pa
      (acc.1 - acc.1 / 256 ^ o % 256 ^ k * 256 ^ o + d.toNat / 256 ^ (lo - 8 * w) % 256 ^ k * 256 ^ o,
        acc.2.or (if bad then some (s.errCause w) else none))) (v, none)

/-- Has the thread combined bytes of these words that wait for a release? -/
def Ctx.combined (c : Ctx) (pa n : Nat) : Bool := (wordsOf pa n).any fun w => c.comb.any fun e => e.1 == w

/-- `n` bytes of a class-010 address that the instruction waits for: from caches under a grant, else from the home module; the cause of an error (R392, R430). -/
def foreignRead (x : Xl) (n : Nat) (alloc : Bool) : M (Nat × Option Nat) := do
  let s ← get
  if x.mode < 2 && s.granted x.pa then
    match ← fetchForeign x n with
    | none =>
      let (r, s') := (← get).readLines x n alloc
      set s'
      return r
    | bad => return (0, bad)
  else
    match ← peerAnswer x.pa (.read (x.pa % 2 ^ 39) n) x.va with
    | .value v =>
      let s ← get
      if x.mode < 2 then
        let (v, bad) := s.layHeld (s.me.member s.cur.core x.va).1 x.pa n v
        return (overlayBytes s.me.comb x.pa n v, bad)
      else return (v, none)
    | .bad c => return (0, some c)

/-- The bytes of one piece of a load, and the cause with which the load fails, if it does (R126, R130, R139, R392, R417). -/
def readPiece (x : Xl) (n : Nat) (alloc : Bool) : M (Nat × Option Nat) := do
  let s ← get
  match paClass x.pa with
  | 1 =>
    match s.readSpm x.pa n with
    | .error c => trap c x.va
    | .ok r =>
      upd fun s => s.metAt x.pa n
      return r
  | 2 => foreignRead x n alloc
  | 7 => return (s.readDev (x.pa % 2 ^ 49), none)
  | k =>
    if k = 3 && s.cxlDown && !s.nearby x n false then return (0, some Cause.regEmpty)
    let (r, s') := s.readLines x n alloc
    set s'
    return r

/-- The holder in another place to which the home forwards a read of some word (R159). -/
def State.forwards (s : State) (x : Xl) (n : Nat) : Option Holder :=
  let m := (s.me.member s.cur.core x.va).1
  (wordsOf x.pa n).findSome? fun w =>
    match s.holder w with
    | some (.l1 c) => if c = m then none else some (.l1 c)
    | some (.near k) => if k = clusterOf m then none else some (.near k)
    | none => none

/-- Who returns the data of an access (R78, R159, R400). -/
def State.originOf (s : State) (x : Xl) (n : Nat) : Origin :=
  match paClass x.pa with
  | 0 =>
    if s.nearby x n true then .here
    else match s.forwards x n with
      | some h => .fwd h
      | none => .home (bitsAt x.pa 37 2)
  | 1 => .spm (spmAddr x.pa).core
  | 2 => match s.forwards x n with
    | some h => .fwd h
    | none => .here
  | _ => .here

/-- The bytes of an access, with the first failure. -/
def readPieces (l : List Piece) : M (Nat × Option Nat) :=
  l.foldlM (fun acc p => do
    let r ← readPiece p.x p.len true
    return (acc.1 + r.1 * 256 ^ p.off, acc.2.or r.2)) (0, none)

/-- A result that a home module returns in its own time (R173, R430). -/
def producePeer (dst : Dst) (va pa : Nat) (op : PeerOp) (ext : Nat × Bool) : M Unit :=
  upd fun s =>
    let p : Pend := ⟨s.nextPend, s.cur.key, s.me.uid, dst, [], VReg.zero, va, none, .peer (bitsAt pa 39 10), ext, [], pa, s.fc⟩
    ({ (s.updMe fun x => x.markDst .empty dst) with pend := s.pend ++ [p] }).sendPeer pa op

/-! ### Writing -/

/-- An error that a write met, due at the thread's next wait point (R393). -/
def noteError (cause va : Nat) : M Unit := updMe fun x => { x with reports := x.reports ++ [⟨cause, va⟩] }

/-- Drop a thread's combined bytes that a later store of its own replaces. -/
def Ctx.uncomb (c : Ctx) (w mask : Nat) : Ctx :=
  { c with comb := c.comb.filterMap fun e =>
      if e.1 = w then
        let m := (upTo 8).foldl (fun m k => setBit m k (bitAt e.2.mask k && !bitAt mask k)) 0
        if m = 0 then none else some (e.1, { e.2 with mask := m })
      else some e }

/-- Combine bytes of a word in a thread (R139). -/
def Ctx.combine (c : Ctx) (w v mask region va : Nat) : Ctx :=
  let old := (c.comb.find? fun e => e.1 == w).map (·.2)
  let e : Comb := match old with
    | some e => ⟨mergeBytes e.data v mask, e.mask ||| mask, region, va⟩
    | none => ⟨mergeBytes 0 v mask, mask, region, va⟩
  { c with comb := KMap.ins c.comb w e }

/-- The bytes of a store that fall into a word: the word's value and byte mask. -/
def storePart (pa n v w : Nat) : Nat × Nat :=
  let mask := (upTo 8).foldl (fun m k => setBit m k (decide (pa ≤ 8 * w + k) && decide (8 * w + k < pa + n))) 0
  let word := if 8 * w < pa then v * 256 ^ (pa - 8 * w) else v / 256 ^ (8 * w - pa)
  (word % 2 ^ 64, mask)

/-- Purge the words of an access that is performed at home (R161, R227). -/
def State.purgeBytes (s : State) (x : Xl) (n : Nat) : State :=
  (wordsOf x.pa n).foldl (fun (s : State) w => s.purgeWord (s.me.member s.cur.core x.va).1 w) s

/-- A STREAM store to host memory goes into the near partition's line, which the host protocol keeps; nothing of it is combined (R139, R175). -/
def storeHost (x : Xl) (w v mask va : Nat) : M Unit := do
  let s ← get
  let core := (s.me.member s.cur.core va).1
  let (bad, s) := (s.hostLine (clusterOf core) w x.via).homeWrite w v mask
  match bad with
  | some c =>
    set s
    noteError c va
  | none => set (s.refresh core w v mask)

/-- Store bytes of one word through the caches under OWNED or STREAM (R139, R173, R340). -/
def storeCached (x : Xl) (w v mask va : Nat) : M Unit := do
  let s ← get
  let m := s.me.member s.cur.core va
  let cl := clusterOf m.1
  if x.mode = 1 && paClass x.pa = 3 then storeHost x w v mask va
  else if x.mode = 1 || (foreignWord w && !s.writeGrant w) then
    updMe fun c => c.combine w v mask x.region va
  else
    upd fun s => s.claimLine m.1 w m.2
    let bad ← if foreignWord w && mask ≠ 255 then fetchForeign { x with pa := 8 * w } 8 else pure none
    match bad with
    | none =>
      updMe fun c => c.uncomb w mask
      upd fun s => s.storeWord m.1 cl w v mask { x.via with va := va } m.2 s.me.uid
    | some c => noteError c va

/-- Store `n` bytes performed at their home (R139, R159): the discarded word, if one is bad, is reported. -/
def storeHome (x : Xl) (n v : Nat) : M Unit := do
  upd fun s => s.purgeBytes x n
  if paClass x.pa = 3 then upd fun s => s.hotUnit s.cur.core x n
  let (bad, s) := (← get).homePut x.pa n v
  set s
  match bad with
  | some (a, c) => noteError c (x.va + (max a x.pa - x.pa))
  | none => pure ()

/-- Store through a window other than 0 (R131). -/
def storeWindow (x : Xl) (w : Window) (n v : Nat) : M Unit := do
  let c ← me
  let a := spmAddr x.pa
  let k : WrCtx := ⟨rmOfCode w.rm (bitsAt c.fcsr 5 3), fcsrSatn c.fcsr, c.seed⟩
  let (bad, s, fl, seed) := (← get).windowWrite a.core w a.off n v k
  set s
  updMe fun c => { c with seed := seed }
  raise fl
  match bad with
  | some (_, c) => noteError c x.va
  | none => pure ()

/-- A device-register write follows every earlier store of its thread that leaves the core: combined bytes are written through, and every write is acknowledged (R126, R350). -/
def deviceOrder : M Unit := do
  let s ← get
  wayGate (s.me.comb.map fun e => (s.cur.core, 8 * e.1, 8))
  upd fun s => s.drainComb s.cur 1023 true
  performed

/-- Write one piece of a store. -/
def writePiece (x : Xl) (n v : Nat) : M Unit := do
  let s ← get
  match paClass x.pa with
  | 7 =>
    deviceOrder
    wholeM fun s => ((), s.writeDev (x.pa % 2 ^ 49) v s.me.pl)
  | 1 =>
    if (spmAddr x.pa).window = 0 then
      let (bad, s') := s.homePut x.pa n v
      set s'
      match bad with
      | some (a, c) => noteError c (x.va + (max a x.pa - x.pa))
      | none => pure ()
    else match s.elemWindow x.pa with
      | some w => storeWindow x w n v
      | none => trap Cause.protection x.va
  | k =>
    if k = 3 && s.cxlDown then noteError Cause.uncorrectable x.va
    else if x.mode < 2 then
      (wordsOf x.pa n).forM fun w =>
        let p := storePart x.pa n v w
        storeCached x w p.1 p.2 (x.va + (max (8 * w) x.pa - x.pa))
    else if k = 2 then
      upd fun s =>
        (wordsOf x.pa n).foldl (fun (s : State) w =>
          let p := storePart x.pa n v w
          s.peerWrite w p.1 p.2 s.cur.key s.me.uid (x.va + (max (8 * w) x.pa - x.pa))) (s.purgeBytes x n)
    else storeHome x n v

/-- Write every piece of a store. -/
def writePieces (l : List Piece) (v : Nat) : M Unit :=
  l.forM fun p => writePiece p.x p.len (v / 256 ^ p.off % 256 ^ p.len)

end Sys2Proof.Machine
end

