-- ==== Sys2Proof/Machine/LoadStore.lean ====
section
/-! DEFINITION. Scalar loads and stores, their synchronising forms, and SCRUB (R222 to R225, R237). -/
namespace Sys2Proof.Machine

/-- Bytes of a load, and whether it extends the sign (R184, R223). -/
def loadSize : MSize → Nat × Bool
  | .i8 => (1, true)
  | .i16 => (2, true)
  | .i32 => (4, true)
  | .i64 => (8, true)
  | .n8 => (1, false)
  | .n16 => (2, false)
  | .n32 => (4, false)

/-- Bytes of a store. -/
def storeSize : SSize → Nat
  | .i8 => 1
  | .i16 => 2
  | .i32 => 4
  | .i64 => 8

/-- The address that a base register and an offset name. -/
def scalarAddr (a : Src) (off : BitVec 24) : M Nat := do return ((← readX a) + off.signExtend 64).toNat

/-- Does this module hold some word of a peer's bytes? -/
def State.holdsAny (s : State) (x : Xl) (n : Nat) : Bool :=
  (wordsOf x.pa n).any fun w => s.heldWord (s.me.member s.cur.core x.va).1 w

/-- Start a load of checked pieces into a register (R78, R223). A load of a peer's data that no cache or store of the thread concerns returns when its home module answers. -/
def loadInto (d : Reg) (va n : Nat) (sg : Bool) (ps : List Piece) : M Unit := do
  let s ← get
  match ps with
  | [⟨x, _, _⟩] =>
    if paClass x.pa = 2 && (2 ≤ x.mode || (!s.granted x.pa && !s.me.combined x.pa n && !s.holdsAny x n)) then
      producePeer (.x d.toNat) va x.pa (.read (x.pa % 2 ^ 39) n) (8 * n, sg)
    else all s
  | _ => all s
where
  /-- read every piece now -/
  all (s : State) : M Unit := do
    let (origin, pa) := match ps with
      | p :: _ => (s.originOf p.x p.len, p.x.pa)
      | [] => (.here, 0)
    let (v, bad) ← readPieces ps
    let _ ← produce (.x d.toNat) [extend (8 * n) sg v] VReg.zero va pa (bad.map fun c => (c, va, 0)) origin (64, false)

/-- LD (R223, R224). -/
def execLd (z : MSize) (d : Reg) (a : Src) (off : BitVec 24) (s : State) : Host.Outcome State Fault Refusal :=
  issue (do
    operands [srcX a] [.x d.toNat false]
    let va ← scalarAddr a off
    let (n, sg) := loadSize z
    let ps ← span va n .load (plainCheck (va % n == 0) n)
    baseGate ps
    loadInto d va n sg ps
    advance) s

/-- ST (R223, R224). -/
def execSt (z : SSize) (a : Src) (off : BitVec 24) (x : Src) (s : State) : Host.Outcome State Fault Refusal :=
  issue (do
    operands [srcX a, srcX x] []
    let va ← scalarAddr a off
    let n := storeSize z
    let ps ← span va n .store (plainCheck (va % n == 0) n)
    baseGate ps
    blockGate (ps.map fun p => p.x)
    writePieces ps ((← readX x).toNat % 256 ^ n)
    advance) s

/-- LDA once its word is read: x0 traps at once on bad data (R392). -/
def ldaInto (d : Reg) (va n : Nat) (sg : Bool) (sc : Nat) (p : Piece) : M Unit := do
  let s ← get
  if paClass p.x.pa = 2 then
    if d = 0 then
      let _ ← askPeer p.x.pa (.read (p.x.pa % 2 ^ 39) n) va
      acquireM sc 1023
      advance
    else
      producePeer (.x d.toNat) va p.x.pa (.read (p.x.pa % 2 ^ 39) n) (8 * n, sg)
      updMe fun x => { x with token := some [] }
      throw (.sleep .ack)
  else
    let (v, bad) ← readPiece p.x n false
    match bad with
    | some c => if d = 0 then trap c (dataVal 0x80 va)
    | none => pure ()
    let _ ← produce (.x d.toNat) [extend (8 * n) sg v] VReg.zero va p.x.pa (bad.map fun c => (c, va, 0)) (s.originOf p.x n) (64, false)
    acquireM sc 1023
    advance

/-- LDA (R225). -/
def execLda (z : MSize) (sc : Scope) (d : Reg) (a : Src) (off : BitVec 24) (s : State) :
    Host.Outcome State Fault Refusal :=
  issue (do
    if (← me).token = some [] then
      acquireM sc.code 1023
      advance
    else
      operands [srcX a] [.x d.toNat false]
      let va ← scalarAddr a off
      let (n, sg) := loadSize z
      trapIf (va % n ≠ 0) Cause.misalign va
      let ps ← span va n .load syncCheck
      baseGate ps
      match ps with
      | p :: _ => ldaInto d va n sg sc.code p
      | [] => advance) s

/-- A release, then a SYNC store of `n` bytes (R225, R234). -/
def syncStore (n sc : Nat) (a : Src) (off : BitVec 24) (x : Src) : M Unit := do
  operands [srcX a, srcX x] []
  let va ← scalarAddr a off
  trapIf (va % n ≠ 0) Cause.misalign va
  let ps ← span va n .store syncCheck
  baseGate ps
  blockGate (ps.map fun p => p.x)
  releaseM sc 1023
  waitPoint
  writePieces ps ((← readX x).toNat % 256 ^ n)
  advance

/-- STREL (R225). -/
def execStrel (z : SSize) (sc : Scope) (a : Src) (off : BitVec 24) (x : Src) (s : State) :
    Host.Outcome State Fault Refusal := issue (syncStore (storeSize z) sc.code a off x) s

/-- WMADV (R234). -/
def execWmadv (sc : Scope) (a : Src) (off : BitVec 24) (x : Src) (s : State) : Host.Outcome State Fault Refusal :=
  issue (syncStore 8 sc.code a off x) s

/-- Rewrite a word at its home and clear its poison mark (R237). What the issuing core and its cluster hold of it goes before, as before any access at home. -/
def scrubWord (x : Xl) (v : Word) : M Unit := do
  upd fun s => (s.setPoison (x.pa / 8) false).purgeBytes x 8
  if paClass x.pa = 2 then
    upd fun s => s.peerAcked (x.pa / 8) (.scrub (x.pa % 2 ^ 39) v) s.cur.key s.me.uid x.va
  else
    upd fun s => (s.homePut x.pa 8 v.toNat).2

/-- SCRUB (R237). DESIGN CHOICE (log 19): on a page with WB = 1 it waits as a store does (R145), though R381 lists no WRITE_BLOCKED for it. -/
def execScrub (a : Src) (off : BitVec 24) (x : Src) (s : State) : Host.Outcome State Fault Refusal :=
  issue (do
    operands [srcX a, srcX x] []
    let va ← scalarAddr a off
    trapIf (va % 8 ≠ 0) Cause.misalign va
    let ps ← span va 8 .store scrubCheck
    baseGate ps
    blockGate (ps.map fun p => p.x)
    let v ← readX x
    ps.forM fun p => scrubWord p.x v
    advance) s

end Sys2Proof.Machine
end

