-- ==== Sys2Proof/Machine/Sync.lean ====
section
/-! DEFINITION. Queue locks, versioned locks, fences, region operations and watermark bindings (R152, R228 to R236). -/
namespace Sys2Proof.Machine

/-- The identity of the acting context (R20). -/
def State.identMe (s : State) : Nat := identOf s.cur.kind s.pkgid s.me.tid

/-- The acting context as a waiter of a lock or a group. -/
def State.waiterMe (s : State) (second : Bool) : Waiter := ⟨false, s.cur.key, s.me.uid, second, s.identMe⟩

/-- The word that a lock or group instruction names: aligned, on a page that its check accepts, neither poisoned nor out of reach (R222, R392). -/
def syncWordAt (chk : Check) (a : Src) (off : BitVec 24) (align : Nat) : M Xl := do
  let va ← scalarAddr a off
  trapIf (va % align ≠ 0) Cause.misalign va
  let x ← xlateM va .atomic
  chk x align
  let s ← get
  wayGate [(s.cur.core, x.pa, align)]
  if paClass x.pa ≠ 2 then
    upd fun s => s.metBytes x.pa align
    match s.badIn x.pa align with
    | some c => trap c (dataVal 0x80 va)
    | none => pure ()
  return x

/-- The word that a lock instruction names (R222). -/
def lockWordAt (a : Src) (off : BitVec 24) (align : Nat) : M Xl := syncWordAt lockCheck a off align

/-- QACQ and QTRY refuse a word whose zero field is not zero (R230); a peer's home says so in its answer. -/
def lockField (x : Xl) : M Unit := do
  let s ← get
  trapIf (paClass x.pa ≠ 2 && bitsAt (s.homeBytes x.pa 8) 50 13 ≠ 0) Cause.protection x.va

/-- The offset of a class-010 address in its module (R122). -/
def Xl.off (x : Xl) : Nat := x.pa % 2 ^ 39

/-- QACQ and VLOCK: at home, or at the home module; the grant is the token (R229, R231). -/
def lockAcquireM (versioned : Bool) (sc : Scope) (d : Reg) (a : Src) (off : BitVec 24) : M Unit := do
  match (← me).token with
  | some (v :: _) => ends v
  | _ =>
    operands [srcX a] [.x d.toNat false]
    notHandler
    let x ← lockWordAt a off (if versioned then 16 else 8)
    lockField x
    let s ← get
    if paClass x.pa = 2 then
      ends (wd (← askPeer x.pa (.qacq x.off s.identMe versioned) x.va))
    else
      let (r, s') := s.lockAcquire x.pa (s.waiterMe versioned)
      set s'
      match r with
      | some v => ends (wd v)
      | none => throw (.sleep (.lock x.pa))
where
  /-- the grant: the result, then the acquire -/
  ends (v : Word) : M Unit := do
    writeX d v
    acquireM sc.code 1023
    advance

/-- QREL and VUNLOCK (R229, R231). -/
def lockReleaseM (versioned : Bool) (sc : Scope) (d : Reg) (a : Src) (off : BitVec 24) : M Unit := do
  operands [srcX a] [.x d.toNat false]
  let x ← lockWordAt a off (if versioned then 16 else 8)
  let op : PeerOp := .qrel x.off (← get).identMe versioned
  if !(← asked x.pa op) then
    releaseM sc.code 1023
    waitPoint
  let s ← get
  if paClass x.pa = 2 then
    writeX d (wd (← askPeer x.pa op x.va))
  else
    let (r, s') := s.lockRelease x.pa s.identMe versioned
    set s'
    writeX d (wd r)
  advance

/-- QACQ (R229). -/
def execQacq (sc : Scope) (d : Reg) (a : Src) (off : BitVec 24) (s : State) : Host.Outcome State Fault Refusal :=
  issue (lockAcquireM false sc d a off) s

/-- QREL (R229). -/
def execQrel (sc : Scope) (d : Reg) (a : Src) (off : BitVec 24) (s : State) : Host.Outcome State Fault Refusal :=
  issue (lockReleaseM false sc d a off) s

/-- QTRY (R229, R230). -/
def execQtry (sc : Scope) (d : Reg) (a : Src) (off : BitVec 24) (s : State) : Host.Outcome State Fault Refusal :=
  issue (do
    operands [srcX a] [.x d.toNat false]
    let x ← lockWordAt a off 8
    lockField x
    let s ← get
    let v ←
      if paClass x.pa = 2 then askPeer x.pa (.qtry x.off s.identMe) x.va
      else do
        let (r, s') := s.lockTry x.pa s.identMe
        set s'
        pure r
    writeX d (wd v)
    if v = 0 then acquireM sc.code 1023
    advance) s

/-- VLOCK (R231). -/
def execVlock (sc : Scope) (d : Reg) (a : Src) (off : BitVec 24) (s : State) : Host.Outcome State Fault Refusal :=
  issue (lockAcquireM true sc d a off) s

/-- VUNLOCK (R231). -/
def execVunlock (sc : Scope) (d : Reg) (a : Src) (off : BitVec 24) (s : State) : Host.Outcome State Fault Refusal :=
  issue (lockReleaseM true sc d a off) s

/-! ### Fences (R152, R156, R235, R236) -/

/-- ACQ (R235). -/
def execAcq (sc : Scope) (n : BitVec 10) (s : State) : Host.Outcome State Fault Refusal :=
  issue (do
    performed
    acquireM sc.code n.toNat
    advance) s

/-- REL (R235). -/
def execRel (sc : Scope) (n : BitVec 10) (s : State) : Host.Outcome State Fault Refusal :=
  issue (do
    releaseM sc.code n.toNat
    waitPoint
    advance) s

/-- ACQREL (R235). -/
def execAcqrel (sc : Scope) (n : BitVec 10) (s : State) : Host.Outcome State Fault Refusal :=
  issue (do
    releaseM sc.code n.toNat
    waitPoint
    acquireM sc.code n.toNat
    advance) s

/-- FENCE (R156). -/
def execFence (s : State) : Host.Outcome State Fault Refusal :=
  issue (do
    waitPoint
    advance) s

/-- RGNINV (R236). -/
def execRgninv (sc : Scope) (n : BitVec 10) (s : State) : Host.Outcome State Fault Refusal :=
  issue (do
    acquireM sc.code n.toNat
    advance) s

/-- RGNWB on the L1s that the acting context's words lie in. -/
def State.writeBackMine (s : State) (g : Nat) : State :=
  (s.me.l1s s.cur.core).foldl (fun (s : State) e => s.regionWriteBack e.1 e.2 g) s

/-- The words that RGNWB writes back: those of a release, and the registered ones. -/
def State.writeBackHomes (s : State) (g : Nat) : List (Nat × Nat × Nat) :=
  s.releaseHomes (s.me.l1s s.cur.core) g ++ (s.me.l1s s.cur.core).flatMap fun k =>
    (s.coreAt k.1).l1.filterMap fun e => if e.2.reg && covers g e.2.region then some (k.1, 8 * e.1, 8) else none

/-- RGNWB (R236). -/
def execRgnwb (n : BitVec 10) (s : State) : Host.Outcome State Fault Refusal :=
  issue (do
    performed
    wayGate ((← get).writeBackHomes n.toNat)
    upd fun s => s.writeBackMine n.toNat
    waitPoint
    advance) s

/-! ### Watermark bindings (R233) -/

/-- WMBIND (R233). -/
def execWmbind (n : BitVec 2) (sc : Scope) (a b : Src) (h : BitVec 6) (s : State) : Host.Outcome State Fault Refusal :=
  issue (do
    operands [srcX a, srcX b] []
    notService
    let _ ← vstate
    let w := (← readX a).toNat
    let k : Wm ← if a.r = 0 then pure Wm.none else do
      trapIf (w % 8 ≠ 0) Cause.misalign w
      pure ⟨true, w, (← readX b).toNat, h.toNat, sc⟩
    updMe fun x => x.updV fun v => { v with w := KMap.put Wm.none v.w n.toNat k }
    advance) s

end Sys2Proof.Machine
end

