-- ==== Sys2Proof/Machine/Vec.lean ====
section
/-! DEFINITION. Operands, tags, masks and results of vector instructions (R82 to R89, R186, R187, R240 to R243, R429). -/
namespace Sys2Proof.Machine

/-! ### Operands (R79, R86, R186) -/

/-- A vector source as an operand that may wait. -/
def vopd (a : VSrc) : Opd :=
  match a.op with
  | .v n => .v n.toNat a.f
  | .pop n | .peek n => .q n.toNat
  | .l0 => .l 0
  | .l1 => .l 1
  | .bc r => .x r.toNat a.f

/-- A vector destination as an operand: only a register is waited for (R80, R87). -/
def vdst : VDst → List Opd
  | .v n => [.v n.toNat false]
  | _ => []

/-- The specifier of a source (R186). -/
def vspec (a : VSrc) : Nat := a.op.code

/-- A tag (R82). -/
structure Tag where
  ty : Nat
  s : Bool
  deriving DecidableEq, Repr

/-- A source as it is read at issue: a vector with its tag, or a broadcast word. -/
structure VArg where
  tag : Option Tag
  r : VReg
  x : Word
  deriving DecidableEq, Repr

/-- A vector as an argument. -/
def VReg.arg (r : VReg) : VArg := ⟨some ⟨r.ty, r.s⟩, r, 0⟩

/-- Read a source. -/
def readV (v : VState) (c : Ctx) (a : VSrc) : VArg :=
  match a.op with
  | .v n => (v.getV n.toNat).arg
  | .pop n | .peek n => (((v.queue n.toNat).headD QEnt.zero).r).arg
  | .l0 => v.l0.r.arg
  | .l1 => v.l1.r.arg
  | .bc r => ⟨none, VReg.zero, c.getX r.toNat⟩

/-- The tag that a destination holds now; l0 without a register (R83). -/
def dstTag (v : VState) : VDst → Tag
  | .v n => ⟨(v.getV n.toNat).ty, (v.getV n.toNat).s⟩
  | _ => ⟨v.l0.r.ty, v.l0.r.s⟩

/-- TRAPVAL of a TAG trap (R241). -/
def tagVal (spec : Nat) (t : Tag) : Nat := spec + t.ty * 256 + (if t.s then 4096 else 0)

/-- A TAG trap about a source. -/
def badTag {α : Type} (a : VSrc) (t : Tag) : M α := trap Cause.tag (tagVal (vspec a) t)

/-- The queue that a source pops. -/
def popOf (a : VSrc) : List Nat :=
  match a.op with
  | .pop n => [n.toNat]
  | _ => []

/-- A queue read with no entry (R86). -/
def queueGate (v : VState) (a : VSrc) : M Unit :=
  match a.op with
  | .pop n | .peek n => trapIf (v.queue n.toNat).isEmpty Cause.vstate (vspec a)
  | _ => pure ()

/-- Pop every queue that a source pops, once (R86). -/
def popAll (l : List VSrc) : M Unit :=
  updMe fun x => x.updV fun v =>
    ((l.flatMap popOf).eraseDups).foldl (fun (v : VState) n => { v with q := KMap.ins v.q n (v.queue n).tail }) v

/-- The vector state of an instruction after its gates: operands arrived, a vector unit, no erg, vector state, queues with an entry (R240, R372 steps 5 to 9). `more` are scalar sources. -/
def vopen (op : Nat) (srcs : List VSrc) (more : List Opd) (dsts : List Opd) : M VState := do
  operands (srcs.map vopd ++ more) dsts
  let v ← vectorGate op
  srcs.forM (queueGate v)
  return v

/-- Widths of the vectors among some arguments. -/
def argWidths (l : List VArg) : List Nat := l.filterMap fun a => a.tag.map fun t => tyWidth t.ty

/-! ### Tags (R83) -/

/-- The tag that one source has, or takes from the destination. -/
def tag1 (v : VState) (a : VSrc) (x : VArg) (d : Option VDst) : M Tag :=
  match x.tag, d with
  | some t, _ => pure t
  | none, some d => pure ⟨(dstTag v d).ty, false⟩
  | none, none => badTag a ⟨0, false⟩

/-- The tags that two sources have or take. -/
def tag2 (v : VState) (a : VSrc) (x y : VArg) (d : Option VDst) : M (Tag × Tag) :=
  match x.tag, y.tag with
  | some t, some u => pure (t, u)
  | some t, none => pure (t, t)
  | none, some u => pure (u, u)
  | none, none => do
    let t ← tag1 v a x d
    return (t, t)

/-- An integer type. -/
def isInt (ty : Nat) : Bool := decide (ty < 8)
/-- A float type. -/
def isFlt (ty : Nat) : Bool := decide (8 ≤ ty) && decide (ty < 12)
/-- Integers and floats. -/
def isNum (ty : Nat) : Bool := decide (ty < 12)

/-- Equal tags of an accepted type (R83, R243). -/
def accept2 (a b : VSrc) (t u : Tag) (ok : Nat → Bool) : M Unit := do
  if !ok t.ty then badTag a t
  else if u ≠ t then badTag b u

/-! ### Elements -/

/-- Bits of element `k` at a width. -/
def VArg.bits (a : VArg) (w k : Nat) : Nat :=
  match a.tag with
  | some _ => bitsAt a.r.bits (k * w) w
  | none => a.x.toNat % 2 ^ w

/-- The OQ4 quad that holds element `k` (R108). DESIGN CHOICE (log 11): a broadcast read under OQ4 (R83) presents the low 16 bits of its register as every quad. -/
def VArg.quad (a : VArg) (k : Nat) : Nat :=
  match a.tag with
  | some _ => bitsAt a.r.bits (k / 4 * 16) 16
  | none => a.x.toNat % 65536

/-- The unscaled value of element `k` under a type; an OQ4 element is decoded from its quad (R429). -/
def VArg.value (a : VArg) (ty k : Nat) : Fv :=
  if ty = 15 then oq4Elem (a.quad k) (k % 4) else elemValue ty (a.bits (tyWidth ty) k)

/-- The scale code of element `k`'s block; 127 where S = 0, and for a broadcast (R83, R84). -/
def VArg.scale (a : VArg) (k : Nat) : Nat :=
  match a.tag with
  | some ⟨_, true⟩ => KMap.find 127 a.r.sc (k / 256)
  | _ => 127

/-- Is the argument scaled? -/
def VArg.scaled (a : VArg) : Bool :=
  match a.tag with
  | some ⟨_, s⟩ => s
  | none => false

/-- Element times scale (R107). -/
def VArg.scaledValue (a : VArg) (ty k : Nat) : Fv :=
  if a.scaled then withScale (a.value ty k) (a.scale k) else a.value ty k

/-- The exponent of the last bit of element `k`, its scale included (R113). -/
def VArg.lsb (a : VArg) (ty k : Nat) : Int :=
  let base : Int :=
    if ty = 15 then (if a.quad k % 16 = 8 && k % 4 = 0 then e4m3.lsb (a.quad k / 16 % 256) else 0)
    else elemLsb ty (a.bits (tyWidth ty) k)
  if a.scaled then base + ((a.scale k : Int) - 127) else base

/-! ### Masks (R85, R187) -/

/-- Bit `k` of a mask register; m0 reads all ones. -/
def VState.maskBit (v : VState) (m k : Nat) : Bool := m == 0 || bitAt (KMap.find 0 v.m m) k

/-- Is element `k` active? -/
def VState.active (v : VState) (me : Bool) (m : BitVec 3) (k : Nat) : Bool := !me || v.maskBit m.toNat k

/-- Write bits 0 to VL - 1 of a mask: masked-off bits stay or clear; m0 ignores writes (R85, R247, R259). -/
def VState.setMask (v : VState) (md : Nat) (m : MaskF) (bit : Nat → Bool) : VState :=
  if md = 0 then v
  else
    let new := (upTo v.vl).foldl (fun n k =>
      if v.active m.me m.mr k then setBit n k (bit k) else if m.mz then setBit n k false else n) (KMap.find 0 v.m md)
    { v with m := KMap.ins v.m md new }

/-- The active elements below VL as a bit set. -/
def VState.activeSet (v : VState) (me : Bool) (m : BitVec 3) : Nat :=
  (upTo v.vl).foldl (fun n k => setBit n k (v.active me m k)) 0

/-! ### Results (R87, R242) -/

/-- The bits that masked-off elements keep: those of vd, where the result goes there without MZ. -/
def keptBits (v : VState) (d : VDst) (mz : Bool) : Nat :=
  match d with
  | .v n => if mz then 0 else (v.getV n.toNat).bits
  | _ => 0

/-- Form a result of `w`-bit elements: bits and flags (R242). -/
def formBits (v : VState) (kept w : Nat) (act : Nat → Bool) (op : Nat → Nat × Nat) : Nat × Nat :=
  (upTo v.vl).foldl (fun acc k =>
    if act k then
      let r := op k
      (acc.1 + r.1 % 2 ^ w * 2 ^ (w * k), acc.2 ||| r.2)
    else (acc.1 + bitsAt kept (w * k) w * 2 ^ (w * k), acc.2)) (0, 0)

/-- Write a vector result to vd and l0 (R87). -/
def writeV (d : VDst) (r : VReg) : M Unit :=
  updMe fun x => x.updV fun v =>
    (match d with
      | .v n => v.setV n.toNat r
      | _ => v).pushL r

/-- End of an instruction with a vector result: flags, queues, the result with S = 0, the next head. -/
def vdone (srcs : List VSrc) (d : VDst) (ty : Nat) (r : Nat × Nat) : M Unit := do
  raise r.2
  popAll srcs
  writeV d ⟨ty, false, r.1, []⟩
  advance

/-- End of an instruction with a scalar result. -/
def vscalar (srcs : List VSrc) (d : Reg) (r : Word × Nat) : M Unit := do
  raise r.2
  popAll srcs
  writeX d r.1
  advance

/-- An element as a scalar: integers extended by their tag, floats by zeros (R253, R256). -/
def elemWord (ty bits : Nat) : Word :=
  if tySigned ty then extend (tyWidth ty) true bits else extend (tyWidth ty) false bits

/-! ### Shapes of instructions -/

/-- One result from two sources of equal tags. -/
def vec2 (op : Nat) (ok : Nat → Bool) (d : VDst) (a b : VSrc) (m : MaskF) (f : Nat → Nat → Nat → Nat → Nat × Nat) :
    M Unit := do
  let v ← vopen op [a, b] [] (vdst d)
  let c ← me
  let x := readV v c a
  let y := readV v c b
  let (t, u) ← tag2 v a x y (some d)
  limit v [tyWidth t.ty, tyWidth u.ty]
  accept2 a b t u ok
  let w := tyWidth t.ty
  vdone [a, b] d t.ty (formBits v (keptBits v d m.mz) w (v.active m.me m.mr) fun k => f t.ty c.fcsr (x.bits w k) (y.bits w k))

/-- One result from one source. -/
def vec1 (op : Nat) (ok : Nat → Bool) (d : VDst) (a : VSrc) (m : MaskF) (f : Nat → Nat → Nat → Nat × Nat) : M Unit := do
  let v ← vopen op [a] [] (vdst d)
  let c ← me
  let x := readV v c a
  let t ← tag1 v a x (some d)
  limit v [tyWidth t.ty]
  if !ok t.ty then badTag a t
  let w := tyWidth t.ty
  vdone [a] d t.ty (formBits v (keptBits v d m.mz) w (v.active m.me m.mr) fun k => f t.ty c.fcsr (x.bits w k))

end Sys2Proof.Machine
end

