-- ==== Sys2Proof/Machine/VecMem.lean ====
section
/-! DEFINITION. Vector memory instructions (R168, R261 to R271, R429) and WAITV (R232). -/
namespace Sys2Proof.Machine

/-! ### Elements (R263) -/

/-- An element that is accessed: its number, its virtual address, and for a 4-bit element whether it is the upper nibble. -/
structure VElem where
  k : Nat
  va : Nat
  high : Bool
  deriving DecidableEq, Repr

/-- An address reduced to 64 bits. -/
def addr64 (i : Int) : Nat := ofSigned 64 i

/-- Element `k` of a unit-stride form (R263). -/
def unitElem (base : Nat) (imm : Int) (w k : Nat) : VElem :=
  if w = 4 then ⟨k, addr64 (base + (imm + k) / 2), decide ((imm + k) % 2 = 1)⟩
  else ⟨k, addr64 (base + (imm + k) * (w / 8 : Nat)), false⟩

/-- Element `k` of a strided form. -/
def strideElem (base : Nat) (imm stride : Int) (w k : Nat) : VElem :=
  ⟨k, addr64 (base + imm * (w / 8 : Nat) + k * stride), false⟩

/-- Element `k` of an indexed form. -/
def indexElem (base : Nat) (imm : Int) (idx w k : Nat) : VElem :=
  ⟨k, addr64 (base + (imm + idx) * (w / 8 : Nat)), false⟩

/-- Bytes that an element of a width is accessed in. -/
def elemBytes (w : Nat) : Nat := max 1 (w / 8)

/-- Elements that an access of a type reaches: whole quads for OQ4 (R429). -/
def reach (ty n : Nat) : Nat := if ty = 15 then (n + 3) / 4 * 4 else n

/-- Activity of element `k`: by its quad's lead for OQ4 (R429). -/
def VState.activeOf (v : VState) (ty : Nat) (m : MaskF) (k : Nat) : Bool :=
  v.active m.me m.mr (if ty = 15 then k / 4 * 4 else k)

/-- The numbers of the active elements below a count. -/
def VState.actives (v : VState) (ty n : Nat) (m : MaskF) : List Nat := (upTo (reach ty n)).filter fun k => v.activeOf ty m k

/-- 4-bit elements are packed: no stride, no index (R263). -/
def packedGate (w : Nat) : M Unit := do
  let c ← me
  trapIf (w = 4) Cause.subbyteStride c.pc

/-- A packed access starts in a low nibble (R263, R266). -/
def nibbleGate (w base : Nat) (imm : Int) : M Unit := trapIf (w = 4 && imm % 2 = 1) Cause.misalign (addr64 (base + imm / 2))

/-- Every element aligned to its size (R266). -/
def alignGate (w : Nat) (l : List VElem) : M Unit :=
  match l.find? fun e => e.va % elemBytes w != 0 with
  | some e => trap Cause.misalign e.va
  | none => pure ()

/-- Checks of one translated element: page mode, class, window and the window's format (R264 to R267). -/
def elemCheck (ok : Nat → Bool) (w val : Nat) (x : Xl) : M Unit := do
  trapIf (x.mode = 3) Cause.protection x.va
  trapIf (paClass x.pa = 7) Cause.misalign x.va
  if behindWindow x.pa then
    match (← get).elemWindow x.pa with
    | none => trap Cause.protection x.va
    | some k => do
      trapIf (!ok k.dfmt) Cause.tag val
      trapIf (!k.aligned (spmAddr x.pa).off (w / 8)) Cause.misalign x.va

/-- Translated elements. -/
abbrev Elems := List (VElem × Xl)

/-- Translate and check every element, the lowest first (R267). -/
def xlElems (kind : Kind) (chk : Xl → M Unit) (l : List VElem) : M Elems :=
  l.mapM fun e => do
    let x ← xlateM e.va kind
    chk x
    return (e, x)

/-- Run a check: what it answers, or the trap that it would take. -/
def caught {α : Type} (m : M α) : M (Except (Nat × Nat × Nat) α) := do
  match m.go (← get) with
  | (.ok a, s) =>
    set s
    return .ok a
  | (.error (.trap c v k), s) =>
    set s
    return .error (c, v, k)
  | (.error e, s) =>
    set s
    throw e

/-- Does VLDFF truncate at a trap with this cause (R268)? -/
def truncates (cause : Nat) : Bool := cause == Cause.pageLoad || cause == Cause.protection || cause == Cause.misalign

/-- Elements of VLDFF up to the first that fails, and where VL then ends (R268, R429). -/
def firstFault (ty : Nat) (chk : Xl → M Unit) : List VElem → M (Elems × Option Nat)
  | [] => return ([], none)
  | e :: r => do
    let one : M Xl := do
      alignGate (tyWidth ty) [e]
      let x ← xlateM e.va .load
      chk x
      return x
    match ← caught one with
    | .ok x =>
      let l ← firstFault ty chk r
      return ((e, x) :: l.1, l.2)
    | .error (cause, val, mask) =>
      let j := if ty = 15 then e.k / 4 * 4 else e.k
      if j = 0 || !truncates cause then throw (.trap cause val mask)
      return ([], some j)

/-- Accesses to a line with an atomic of its base die outstanding wait (R358). -/
def elemGate (w : Nat) (l : Elems) : M Unit := baseGate (l.map fun e => ⟨e.2, 0, elemBytes w⟩)

/-! ### Watermark admission (R168, R269) -/

/-- The binding that a load names; unbound, VSTATE. -/
def wmGate (v : VState) (wm : Option (BitVec 2)) : M Unit :=
  match wm with
  | none => pure ()
  | some n => trapIf (!(KMap.find Wm.none v.w n.toNat).bound) Cause.vstate n.toNat

/-- The greatest block that a load names under a binding: the watermark must exceed it (R168). -/
def markLimit (b : Wm) (l : Elems) : Nat := l.foldl (fun m e => max m (addr64 ((e.1.va : Int) - b.base) / 2 ^ b.shift)) 0

/-- Wait until every element address is below the watermark, then acquire (R168, R269). An admission stands: its mark is the token, with the value that admitted the load until the acquire is done. At a home of this module the load is compared with every value written; a home module is asked again. A bad word answers its cause and address. DESIGN CHOICE (log 18): a load that waits has taken the issue opportunity at which it was tried. -/
def accept (v : VState) (wm : Option (BitVec 2)) (l : Elems) : M (Option (Nat × Nat)) :=
  match wm with
  | none => pure none
  | some n => do
    let b := KMap.find Wm.none v.w n.toNat
    match (← me).token with
    | some [] => return none
    | some _ => enter b
    | none =>
      let x ← xlateM b.addr .load
      syncCheck x 8
      baseGate [⟨x, 0, 8⟩]
      let (w, bad) ← readPiece x 8 true
      match bad with
      | some c => return some (c, b.addr)
      | none =>
        if l.isEmpty || markLimit b l < w then enter b
        else if paClass x.pa = 2 then
          -- read the word again at its home module
          let op : PeerOp := .read (x.pa % 2 ^ 39) 8
          forgetAnswer x.pa op
          let _ ← peerAnswer x.pa op b.addr
          return none
        else throw (.sleep (.mark x.pa (markLimit b l)))
where
  /-- the load is admitted: the acquire -/
  enter (b : Wm) : M (Option (Nat × Nat)) := do
    updMe fun c => { c with token := some [] }
    acquireM b.scope.code 1023
    return none

/-! ### Loads (R264, R265) -/

/-- The bits of an element, and why it is bad. -/
def readElem (w : Nat) (e : VElem × Xl) : M (Nat × Option Nat) := do
  let r ← readPiece e.2 (elemBytes w) false
  return (if w = 4 then (if e.1.high then r.1 / 16 % 16 else r.1 % 16) else r.1, r.2)

/-- The one window that every element lies behind. -/
def State.oneWindow (s : State) (l : Elems) : Option Window :=
  match l with
  | [] => none
  | (_, x) :: _ =>
    let a := spmAddr x.pa
    if l.all fun e => behindWindow e.2.pa && (spmAddr e.2.pa).core == a.core && (spmAddr e.2.pa).window == a.window then
      s.elemWindow x.pa
    else none

/-- The format that every element's window presents, if all lie behind windows of one format (R264). -/
def State.oneFormat (s : State) (l : Elems) : Option Nat :=
  match l with
  | [] => none
  | (_, x) :: _ =>
    match s.elemWindow x.pa with
    | none => none
    | some k =>
      if l.all fun e => behindWindow e.2.pa && ((s.elemWindow e.2.pa).map fun q => q.dfmt) == some k.dfmt then some k.dfmt
      else none

/-- What a load forms: bits, failing elements with their cause, scale codes by block. -/
structure Loaded where
  bits : Nat
  bad : List (VElem × Nat)
  deriving DecidableEq, Repr

/-- Read every element (R265). -/
def loadElems (w : Nat) (l : Elems) : M Loaded :=
  l.foldlM (fun (acc : Loaded) e => do
    let r ← readElem w e
    return ⟨acc.bits + r.1 % 2 ^ w * 2 ^ (w * e.1.k),
      match r.2 with
      | some c => acc.bad ++ [(e.1, c)]
      | none => acc.bad⟩) ⟨0, []⟩

/-- Read every element unscaled through its scaled window (R130). -/
def State.loadUnscaled (s : State) (q : Window) (w : Nat) (l : Elems) : Loaded :=
  l.foldl (fun (acc : Loaded) e =>
    let a := spmAddr e.2.pa
    ⟨acc.bits + s.windowRead1 a.core { q with scaled := false } (a.off / (w / 8)) % 2 ^ w * 2 ^ (w * e.1.k),
      match s.windowBad a.core q a.off (w / 8) with
      | some c => acc.bad ++ [(e.1, c)]
      | none => acc.bad⟩) ⟨0, []⟩

/-- Errors that those reads met poison their words (R395). -/
def State.metElems (s : State) (q : Window) (w : Nat) (l : Elems) : State :=
  l.foldl (fun (s : State) e => s.windowMet (spmAddr e.2.pa).core q (spmAddr e.2.pa).off (w / 8)) s

/-- Zero in every 8-byte lane of a failing element (R394). -/
def dropFailed (w bits : Nat) (bad : List (VElem × Nat)) : Nat :=
  ((bad.map fun e => e.1.k * w / 64).eraseDups).foldl (fun b lane =>
    b - b / 2 ^ (64 * lane) % 2 ^ 64 * 2 ^ (64 * lane)) bits

/-- How a vector result fails: by its lowest failing element, with the failing lanes of its row (R368, R392). -/
def failOf (w lanes : Nat) (bad : List (VElem × Nat)) : Option (Nat × Nat × Nat) :=
  match bad with
  | [] => none
  | (e, cause) :: _ =>
    let row := e.k * w / (64 * lanes)
    let m := bad.foldl (fun n q =>
      if q.1.k * w / (64 * lanes) = row then setBit n (q.1.k * w % (64 * lanes) / 64) true else n) 0
    some (cause, e.va, trapMask row m)

/-- A vector destination as the target of a result. -/
def vtarget : VDst → Dst
  | .v n => .v n.toNat
  | .q n => .q n.toNat
  | .last => .last

/-- A load queue that holds or awaits two entries makes its next load wait (R86); an entry that the load itself pops is gone. -/
def queueRoom (v : VState) (d : VDst) (popped : List Nat) : M Unit :=
  match d with
  | .q n => if 2 ≤ (v.queue n.toNat).length - (if popped.contains n.toNat then 1 else 0) then stall else pure ()
  | _ => pure ()

/-- What a load keeps of its elements: number, addresses, who returns each (R400). Found before anything is read. -/
def elemsOf (w : Nat) (l : Elems) : M (List Elem) := do
  let s ← get
  return l.map fun e => ⟨e.1.k, e.1.va, e.2.pa, s.originOf e.2 (elemBytes w)⟩

/-- Start the result of a load: its failing lanes zero, its elements kept (R78, R265, R394). -/
def startLoad (d : VDst) (r : VReg) (bad : List (VElem × Nat)) (l : List Elem) : M Unit := do
  let lanes ← lanesM
  let w := tyWidth r.ty
  let e := l.headD ⟨0, 0, 0, .here⟩
  let id ← produce (vtarget d) [] { r with bits := dropFailed w r.bits bad } e.va e.pa (failOf w lanes bad) e.src (64, false)
  upd fun s => { s with pend := s.pend.map fun p => if p.id = id then { p with elems := l } else p }

/-- Start the result of a load with a tag once it is admitted; under a bad watermark word every lane fails (R394, R404). -/
def admitted (v : VState) (wm : Option (BitVec 2)) (l : Elems) (d : VDst) (tag : Tag) (load : M Unit) : M Unit := do
  match ← accept v wm l with
  | none => load
  | some (cause, addr) =>
    let lanes ← lanesM
    let _ ← produce (vtarget d) [] ⟨tag.ty, tag.s, 0, []⟩ addr 0 (some (cause, addr, trapMask 0 (2 ^ lanes - 1))) .here (64, false)

/-- The bits that elements which are not accessed keep, below a count (R242, R265). -/
def restBits (v : VState) (d : VDst) (mz : Bool) (w n : Nat) (act : Nat → Bool) : Nat :=
  let kept := keptBits v d mz
  (upTo n).foldl (fun b k => if act k then b else b + bitsAt kept (w * k) w * 2 ^ (w * k)) 0

/-- The side array that a destination keeps above the blocks of a load (R84). DESIGN CHOICE (log 18): a result that goes to `l0` or a queue only has no older entries, and they read 127. -/
def oldScales (v : VState) (d : VDst) : KMap Nat :=
  match d with
  | .v n => if (v.getV n.toNat).s then (v.getV n.toNat).sc else []
  | _ => []

/-- The window element that an accessed element reads, by number. -/
def winIndex (w : Nat) (e : VElem × Xl) : Nat := (spmAddr e.2.pa).off / (w / 8)

/-- The source block of block `b` of a load through a scaled window: of the address of its first accessed element (R264). DESIGN CHOICE (log 18): for a block of which no element is accessed, the block that follows on from the first accessed element. -/
def sourceBlock (w : Nat) (l : Elems) (b : Nat) : Nat :=
  match l.find? fun e => e.1.k / 256 == b with
  | some e => winIndex w e / 256
  | none =>
    match l with
    | [] => b
    | e :: _ => (((winIndex w e / 256 : Nat) : Int) + b - ((e.1.k / 256 : Nat) : Int)).toNat

/-- A scaled window fills the side array: the entry of every block below the count takes the scale of its source block (R264). -/
def State.fillScales (s : State) (core : Nat) (q : Window) (w : Nat) (l : Elems) (n : Nat) (old : KMap Nat) : KMap Nat :=
  (upTo n).foldl (fun m b => KMap.put 127 m b (s.windowScale core q (sourceBlock w l b))) old

/-- The rest of VLD and VLDFF once the elements are translated: data, tag and side array (R130, R264, R265). `vl` is the count. -/
def finishUnit (ty : Nat) (d : VDst) (m : MaskF) (v : VState) (vl : Nat) (l : Elems) : M Unit := do
  let s ← get
  let w := tyWidth ty
  let el ← elemsOf w l
  let rest := restBits v d m.mz w (reach ty vl) fun k => v.activeOf ty m k
  match s.oneWindow l, l with
  | some q, (_, x) :: _ =>
    if q.scaled then
      let r := s.loadUnscaled q w l
      let sc := s.fillScales (spmAddr x.pa).core q w l ((vl + 255) / 256) (oldScales v d)
      upd fun s => s.metElems q w l
      startLoad d ⟨q.dfmt, true, rest + r.bits, sc⟩ r.bad el
    else plain w rest el
  | _, _ => plain w rest el
where
  /-- elements as their own addresses present them -/
  plain (w rest : Nat) (el : List Elem) : M Unit := do
    let r ← loadElems w l
    startLoad d ⟨ty, false, rest + r.bits, []⟩ r.bad el

/-- The tag that VLD and VLDFF set at issue (R264). -/
def State.unitTag (s : State) (ty : Nat) (l : Elems) : Tag :=
  match s.oneWindow l with
  | some q => if q.scaled then ⟨q.dfmt, true⟩ else ⟨ty, false⟩
  | none => ⟨ty, false⟩

/-- The scaled-window start of a load is checked before its admission (R130, R267). -/
def startGate (w start : Nat) (l : Elems) : M Unit := do
  let s ← get
  match s.oneWindow l, l with
  | some q, (e, x) :: _ =>
    let first : Int := ((spmAddr x.pa).off / (w / 8) : Nat) - (e.k : Int)
    trapIf (q.scaled && first % 256 ≠ 0) Cause.misalign start
  | _, _ => pure ()

/-- A vector result waits for its register (R80). -/
def loadOpen (op : Nat) (srcs : List Opd) (d : VDst) (wm : Option (BitVec 2)) : M VState := do
  operands srcs (vdst d)
  let v ← vectorGate op
  wmGate v wm
  return v

/-- VLD and VLDFF (R263 to R268). -/
def unitLoad (ff : Bool) (ty : BitVec 4) (d : VDst) (a : Src) (imm : BitVec 16) (m : MaskF) (wm : Option (BitVec 2)) : M Unit := do
  let v ← loadOpen 0x58 [srcX a] d wm
  let ty := ty.toNat
  let w := tyWidth ty
  limit v [w]
  queueRoom v d []
  let base := (← readX a).toNat
  let imm := imm.toInt
  nibbleGate w base imm
  let el := (v.actives ty v.vl m).map (unitElem base imm w)
  let chk := elemCheck (fun f => f == ty) w (tagVal 0x3F ⟨ty, false⟩)
  let start := (unitElem base imm w 0).va
  let (l, vl) ← if ff then do
      let (l, j) ← firstFault ty chk el
      pure (match j with
        | some j => (l.filter fun e => decide (e.1.k < j), j)
        | none => (l, v.vl))
    else do
      alignGate w el
      let l ← xlElems .load chk el
      pure (l, v.vl)
  startGate w start l
  elemGate w l
  admitted v wm l d ((← get).unitTag ty l) (finishUnit ty d m v vl l)
  updMe fun x => x.updV fun v => { v with vl := vl }
  advance

/-- VLD (R263 to R267). -/
def execVld (ty : BitVec 4) (d : VDst) (a : Src) (imm : BitVec 16) (m : MaskF) (wm : Option (BitVec 2)) (s : State) :
    Host.Outcome State Fault Refusal := issue (unitLoad false ty d a imm m wm) s

/-- VLDFF (R268). -/
def execVldff (ty : BitVec 4) (d : VDst) (a : Src) (imm : BitVec 16) (m : MaskF) (wm : Option (BitVec 2)) (s : State) :
    Host.Outcome State Fault Refusal := issue (unitLoad true ty d a imm m wm) s

/-- VLDS (R263). -/
def execVlds (ty : BitVec 4) (d : VDst) (a : Src) (imm : BitVec 16) (x : Src) (m : MaskF) (wm : Option (BitVec 2)) (s : State) :
    Host.Outcome State Fault Refusal :=
  issue (do
    let v ← loadOpen 0x58 [srcX a, srcX x] d wm
    let ty := ty.toNat
    let w := tyWidth ty
    limit v [w]
    queueRoom v d []
    packedGate w
    let base := (← readX a).toNat
    let stride := (← readX x).toInt
    let elem := strideElem base imm.toInt stride w
    let el := (v.actives ty v.vl m).map elem
    alignGate w el
    let l ← xlElems .load (elemCheck (fun f => f == ty) w (tagVal 0x3F ⟨ty, false⟩)) el
    elemGate w l
    let es ← elemsOf w l
    admitted v wm l d ⟨ty, false⟩ (do
      let r ← loadElems w l
      startLoad d ⟨ty, false, restBits v d m.mz w v.vl (v.activeOf ty m) + r.bits, []⟩ r.bad es)
    advance) s

/-- The index operand of an indexed form carries an N tag (R263). -/
def indexGate (spec : Nat) (x : VArg) : M Nat :=
  match x.tag with
  | some t => if 4 ≤ t.ty && t.ty < 8 then pure (tyWidth t.ty) else trap Cause.tag (tagVal spec t)
  | none => trap Cause.tag (tagVal spec ⟨0, false⟩)

/-- VLDX (R263, R264). -/
def execVldx (wc : BitVec 2) (d : VDst) (a : Src) (imm : BitVec 16) (b : VSrc) (m : MaskF) (wm : Option (BitVec 2)) (s : State) :
    Host.Outcome State Fault Refusal :=
  issue (do
    let v ← loadOpen 0x5A [srcX a, vopd b] d wm
    queueGate v b
    let c ← me
    let x := readV v c b
    let ty := 4 + wc.toNat
    let w := tyWidth ty
    limit v (w :: argWidths [x])
    queueRoom v d (popOf b)
    let iw ← indexGate (vspec b) x
    let base := (← readX a).toNat
    let elem (k : Nat) : VElem := indexElem base imm.toInt (x.bits iw k) w k
    let el := (v.actives ty v.vl m).map elem
    alignGate w el
    let l ← xlElems .load (elemCheck (fun f => tyWidth f == w) w (tagVal 0x3F ⟨ty, false⟩)) el
    elemGate w l
    let ty := ((← get).oneFormat l).getD ty
    let es ← elemsOf w l
    admitted v wm l d ⟨ty, false⟩ (do
      let r ← loadElems w l
      startLoad d ⟨ty, false, restBits v d m.mz w v.vl (v.activeOf 4 m) + r.bits, []⟩ r.bad es)
    popAll [b]
    advance) s

/-! ### Stores (R265, R266) -/

/-- Store one 4-bit element: a read-modify-write of its byte at home (R132, R172). -/
def writeNibble (e : VElem) (x : Xl) (v : Nat) : M Unit := do
  let s ← get
  if paClass x.pa = 2 then
    upd fun s => (s.purgeBytes x 1).peerAcked (x.pa / 8) (.nibble (x.pa % 2 ^ 39) e.high v) s.cur.key s.me.uid x.va
  else if paClass x.pa = 3 && s.cxlDown then noteError Cause.uncorrectable x.va
  else
    if paClass x.pa ≠ 1 then upd fun s => s.purgeBytes x 1
    let old := (← get).homeBytes x.pa 1
    storeByte x (if e.high then old % 16 + 16 * v else old / 16 * 16 + v)
where
  /-- the byte at its home -/
  storeByte (x : Xl) (b : Nat) : M Unit := do
    if paClass x.pa = 3 then upd fun s => s.hotUnit s.cur.core x 1
    let (bad, s) := (← get).homePut x.pa 1 b
    set s
    match bad with
    | some (_, c) => noteError c x.va
    | none => pure ()

/-- Store one element of scaled data through a window: the value element times scale (R265). -/
def writeScaled (x : Xl) (q : Window) (a : VArg) (ty k : Nat) : M Unit := do
  let c ← me
  let p := spmAddr x.pa
  let r : WrCtx := ⟨rmOfCode q.rm (bitsAt c.fcsr 5 3), fcsrSatn c.fcsr, c.seed⟩
  let (bad, s, fl, seed) := (← get).windowPutVal p.core q (p.off / (tyWidth ty / 8)) (a.scaledValue ty k) (a.lsb ty k) r
  set s
  updMe fun c => { c with seed := seed }
  raise fl
  match bad with
  | some (_, c) => noteError c x.va
  | none => pure ()

/-- Store one element (R265, R266). -/
def writeElem (a : VArg) (ty : Nat) (e : VElem × Xl) : M Unit := do
  let w := tyWidth ty
  let bits := a.bits w e.1.k
  let s ← get
  match (if behindWindow e.2.pa then s.elemWindow e.2.pa else none) with
  | some q => if a.scaled then writeScaled e.2 q a ty e.1.k else writePiece e.2 (w / 8) bits
  | none => if w = 4 then writeNibble e.1 e.2 bits else writePiece e.2 (w / 8) bits

/-- Check every element of a store, wait for its pages, then write in ascending order (R266, R267, R390). -/
def storeElems (b : VSrc) (t : Tag) (x : VArg) (el : List VElem) : M Unit := do
  let w := tyWidth t.ty
  alignGate w el
  let l ← xlElems .store (elemCheck (fun f => f == t.ty) w (tagVal (vspec b) t)) el
  elemGate w l
  blockGate (l.map fun e => e.2)
  l.forM (writeElem x t.ty)
  popAll [b]
  advance

/-- The data operand of a store with its tag. -/
def storeData (v : VState) (b : VSrc) : M (VArg × Tag) := do
  let c ← me
  let x := readV v c b
  match x.tag with
  | some t => return (x, t)
  | none => badTag b ⟨0, false⟩

/-- The gates of a store: operands in the order of R368, vector state, queues. -/
def storeOpen (op : Nat) (srcs : List Opd) (b : VSrc) : M VState := do
  operands srcs []
  let v ← vectorGate op
  queueGate v b
  return v

/-- VST (R263, R265). -/
def execVst (a : Src) (imm : BitVec 16) (b : VSrc) (m : MaskF) (s : State) : Host.Outcome State Fault Refusal :=
  issue (do
    let v ← storeOpen 0x59 [srcX a, vopd b] b
    let (x, t) ← storeData v b
    let w := tyWidth t.ty
    limit v [w]
    let base := (← readX a).toNat
    nibbleGate w base imm.toInt
    storeElems b t x ((v.actives t.ty v.vl m).map (unitElem base imm.toInt w))) s

/-- VSTS (R263, R265). -/
def execVsts (a : Src) (imm : BitVec 16) (b : VSrc) (x : Src) (m : MaskF) (s : State) : Host.Outcome State Fault Refusal :=
  issue (do
    let v ← storeOpen 0x59 [srcX a, srcX x, vopd b] b
    let (y, t) ← storeData v b
    let w := tyWidth t.ty
    limit v [w]
    packedGate w
    let base := (← readX a).toNat
    let stride := (← readX x).toInt
    storeElems b t y ((v.actives t.ty v.vl m).map (strideElem base imm.toInt stride w))) s

/-- VSTX: the index register is read with F = 1 (R261, R263). -/
def execVstx (a : Src) (imm : BitVec 16) (b : VSrc) (idx : BitVec 5) (m : MaskF) (s : State) :
    Host.Outcome State Fault Refusal :=
  issue (do
    let v ← storeOpen 0x5A [srcX a, vopd b, .v idx.toNat true] b
    let (y, t) ← storeData v b
    let w := tyWidth t.ty
    let i := (v.getV idx.toNat).arg
    limit v (w :: argWidths [i])
    let iw ← indexGate idx.toNat i
    packedGate w
    let base := (← readX a).toNat
    storeElems b t y ((v.actives t.ty v.vl m).map fun k => indexElem base imm.toInt (i.bits iw k) w k)) s

/-! ### Tensor access (R270, R271) -/

/-- Read and check the record in a vector register; for VSTT its data of width `w` must be readable at n' elements, a check of vector state that comes before those of the record's fields (R270, R271, R372). -/
def recordOf (v : VState) (n : Nat) (load : Bool) (w : Nat) : M Shape := do
  let r := v.getV n
  let lanes ← lanesM
  trapIf (r.ty ≠ 3 && r.ty ≠ 7) Cause.tag (tagVal n ⟨r.ty, r.s⟩)
  trapIf (vlmax v.g lanes 64 < 18) Cause.shape 18
  let h := Shape.of fun k => bitsAt r.bits (64 * k) 64
  trapIf (!load && vlmax v.g lanes w < h.reached) Cause.vstate h.reached
  match h.bad load false (vlmax v.g lanes h.width) with
  | some e => trap Cause.shape e
  | none => pure ()
  let c ← me
  trapIf h.splits Cause.subbyteStride c.pc
  return h

/-- The elements of a walk that lie in range, numbered (R271). -/
def boxElems (l : List WalkElem) : List VElem :=
  ((upTo l.length).zip l).filterMap fun e => if e.2.inr then some ⟨e.1, e.2.addr, e.2.nib == 1⟩ else none

/-- VLDT (R270, R271). -/
def execVldt (d : VDst) (vb : BitVec 5) (fb : Bool) (mem : Bool) (mk : BitVec 3) (wm : Option (BitVec 2)) (s : State) :
    Host.Outcome State Fault Refusal :=
  issue (do
    let v ← loadOpen 0x5B [.v vb.toNat fb] d wm
    queueRoom v d []
    let h ← recordOf v vb.toNat true 0
    let walk := h.walk h.inner
    let n := walk.length
    let w := h.width
    let el := boxElems walk
    alignGate w el
    let l ← xlElems .load (elemCheck (fun f => f == h.ty) w (tagVal 0x3F ⟨h.ty, false⟩)) el
    elemGate w l
    let es ← elemsOf w l
    admitted v wm l d ⟨h.ty, false⟩ (do
      let r ← loadElems w l
      startLoad d ⟨h.ty, false, r.bits, []⟩ r.bad es)
    updMe fun x => x.updV fun v =>
      let v := { v with vl := n }
      if mem then v.setMask mk.toNat ⟨false, 0, false⟩ fun k => (walk[k]?.map fun e => e.inr).getD false else v
    advance) s

/-- VSTT: an element is as wide as its data (R271); the data must be readable at n' elements. An OQ4 element is active with the lead of its quad (R429). -/
def execVstt (b : VSrc) (shape : BitVec 5) (m : MaskF) (s : State) : Host.Outcome State Fault Refusal :=
  issue (do
    let v ← storeOpen 0x5B [vopd b, .v shape.toNat true] b
    let (y, t) ← storeData v b
    let w := tyWidth t.ty
    let h ← recordOf v shape.toNat false w
    let walk := h.walk h.inner
    if h.lsz ≠ 255 then packedGate w
    storeElems b t y ((boxElems walk).filter fun e => v.activeOf t.ty m e.k)) s

/-! ### WAITV (R232) -/

/-- Translate one word of a WAITV (R222, R232). -/
def waitXl (va : Nat) : M Xl := do
  let x ← xlateM va .load
  syncCheck x 8
  return x

/-- The latest read of an address that a wake brought with it: pairs of an address and its value. -/
def latest (pa : Nat) : List Word → Option Word
  | n :: v :: r => if n.toNat = pa then some v else latest pa r
  | _ => none

/-- The latest read of a word of a peer module: its home is asked again after a zero, and an answer that is not there counts as zero. -/
def readPeerWait (x : Xl) : M Word := do
  let op : PeerOp := .read (x.pa % 2 ^ 39) 8
  let c ← me
  match c.asks.find? fun a => a.pkg == bitsAt x.pa 39 10 && a.op == op with
  | some ⟨_, _, some (.value v)⟩ =>
    if v ≠ 0 then return wd v
    forgetAnswer x.pa op
    send x op
  | some ⟨_, _, some (.bad e)⟩ => trap e (dataVal 0x80 x.va)
  | some ⟨_, _, none⟩ => return 0
  | none => send x op
where
  /-- ask, and go on -/
  send (x : Xl) (op : PeerOp) : M Word := do
    let _ ← caughtSleep (peerAnswer x.pa op x.va)
    return 0
  /-- run an ask for its request alone -/
  caughtSleep (m : M Reply) : M Unit := do
    let (_, s) := m.go (← get)
    set s

/-- The latest read of a word of a WAITV (R232). -/
def readWait (x : Xl) : M Word := do
  match latest x.pa ((← me).token.getD []) with
  | some v => return v
  | none =>
    if paClass x.pa = 2 then readPeerWait x
    else
      let (v, bad) ← readPiece x 8 true
      match bad with
      | some c => trap c (dataVal 0x80 x.va)
      | none => return wd v

/-- Wait at the homes of the words in this module, each once (R232); what an earlier wake brought is read again. -/
def waitAt (all : Bool) (l : List (Xl × Word)) : M Unit := do
  updMe fun c => { c with token := none }
  throw (.sleep (.words all ((l.filter fun e => paClass e.1.pa != 2).map fun e => (e.1.pa, e.2.toNat)).eraseDups))

/-- The broadcast form: one word (R232). -/
def waitvOne (d : Reg) (va : Nat) : M Unit := do
  trapIf (va % 8 ≠ 0) Cause.misalign va
  let l ← xlOnce [va] (do return [← waitXl va])
  baseGate (l.map fun x => ⟨x, 0, 8⟩)
  let vals ← l.mapM fun x => do
    let v ← readWait x
    return (x, v)
  match vals.find? fun e => e.2 != 0 with
  | none => waitAt false vals
  | some e =>
    writeX d e.2
    advance

/-- Insert an element by its address. -/
def insVa (e : VElem) : List VElem → List VElem
  | [] => [e]
  | a :: r => if e.va < a.va then e :: a :: r else a :: insVa e r

/-- Elements in ascending address order. -/
def byVa (l : List VElem) : List VElem := l.foldr insVa []

/-- The vector form: every address is checked, the lowest first (R232). -/
def waitvMany (all : Bool) (d : Reg) (sa : VSrc) (mem : Bool) (mk : BitVec 3) : M Unit := do
  let v ← vstate
  queueGate v sa
  let c ← me
  let y := readV v c sa
  limit v (argWidths [y])
  let act := (upTo v.vl).filter (v.active mem mk)
  trapIf (32 < act.length) Cause.vstate act.length
  match y.tag with
  | some t => if t.ty ≠ 7 then badTag sa t
  | none => pure ()
  let el : List VElem := byVa (act.map fun k => ⟨k, y.bits 64 k, false⟩)
  alignGate 64 el
  let xs ← xlOnce (el.map fun e => e.va) (do return (← xlElems .load (fun x => syncCheck x 8) el).map fun e => e.2)
  let l := el.zip xs
  elemGate 64 l
  let vals ← l.mapM fun e => do
    let r ← readWait e.2
    return (e, r)
  let hit := act.find? fun k => vals.any fun e => e.1.1.k == k && e.2 != 0
  let done := if all then vals.all fun e => e.2 != 0 else hit.isSome || vals.isEmpty
  if !done then waitAt all (vals.map fun e => (e.1.2, e.2))
  else
    popAll [sa]
    writeX d (if all then wd vals.length else match hit with
      | some k => wd k
      | none => BitVec.allOnes 64)
    advance

/-- WAITV: the gates, then its form (R222, R232). -/
def waitv (all : Bool) (d : Reg) (sa : VSrc) (mem : Bool) (mk : BitVec 3) : M Unit := do
  operands [vopd sa] [.x d.toNat false]
  match sa.op with
  | .bc r =>
    notHandler
    waitvOne d ((← me).getX r.toNat).toNat
  | _ =>
    notService
    notHandler
    notErg 0x3A
    waitvMany all d sa mem mk

/-- WAITV.ANY (R232). -/
def execWaitvAny (d : Reg) (sa : VSrc) (mem : Bool) (mk : BitVec 3) (s : State) : Host.Outcome State Fault Refusal :=
  issue (waitv false d sa mem mk) s

/-- WAITV.ALL (R232). -/
def execWaitvAll (d : Reg) (sa : VSrc) (mem : Bool) (mk : BitVec 3) (s : State) : Host.Outcome State Fault Refusal :=
  issue (waitv true d sa mem mk) s

end Sys2Proof.Machine
end

