-- ==== Sys2Proof/Machine/Array.lean ====
section
/-! DEFINITION. Instructions of the outer-product array: their checks at issue and the commands that they put into the thread's stream (R272 to R292). -/
namespace Sys2Proof.Machine

/-! ### Gates and the stream (R279, R283) -/

/-- Service cores and ergs have no array (R283). -/
def arrayGate (op : Nat) : M Unit := do
  notService
  notErg op

/-- In a handler slot every array instruction but MLEASE traps (R283). -/
def notInHandler : M Unit := do trapIf (← curId).isHandler Cause.lease 1

/-- Is an MFREE of the thread still on its way to the arbiter (R284)? -/
def Ctx.freeing (x : Ctx) : Bool := x.stream.any fun e => e.cmd == .mfree

/-- A leased command in state NONE, or after MFREE (R275, R284). -/
def leaseGate : M Unit := do
  let x ← me
  trapIf (decide (x.lease = .none) || x.freeing) Cause.lease 0

/-- Put a command into the stream, which holds 16 (R279). -/
def enterStream (cmd : OpaCmd) : M Unit := do
  if 16 ≤ (← me).stream.length then stall
  let t := (← get).fc
  updMe fun x => { x with stream := x.stream ++ [⟨cmd, false, t⟩] }

/-- The cluster of the acting core. -/
def myCluster : M Cluster := do
  let s ← get
  return s.clAt (clusterOf s.cur.core)

/-- TRAPVAL of SLOT and TILE traps (R283). -/
def ownVal (n reason : Nat) : Nat := n + reason * 256

/-- TRAPVAL with reason 4. -/
def rangeVal (n : Nat) (v : Word) : Nat := ownVal n 4 + v.toNat % 2 ^ 32 * 2 ^ 32

/-- Who owns a slot. -/
def slotOwner (n : Nat) : M (Option Nat) := do return ((← myCluster).slot n).owner

/-- The slot must be the thread's own. -/
def ownSlot (n : Nat) : M Unit := do
  let o ← slotOwner n
  trapIf (o ≠ some (← me).uid) Cause.slot (ownVal n 2)

/-- The tile must be the thread's own. -/
def ownTile (t : Nat) : M Unit := do
  let k ← myCluster
  trapIf ((k.tile t).owner ≠ some (← me).uid) Cause.tile (ownVal t 2)

/-- The type of a tile as an instruction finds it: the last ACLAIM of the stream gives it. -/
def tileI32 (t : Nat) : M Bool := do
  let k ← myCluster
  let c ← me
  return c.stream.foldl (fun b e => match e.cmd with
    | .aclaim u i => if u = t then i else b
    | _ => b) (k.tile t).i32

/-- Wait until every earlier command of the stream has completed. -/
def streamEmpty : M Unit := do if !(← me).stream.isEmpty then stall

/-! ### Leases (R284) -/

/-- MLEASE (R284): it enters the stream, and the thread sleeps until the grant that ends it. -/
def execMlease (k : Src) (s : State) : Host.Outcome State Fault Refusal :=
  issue (do
    if (← me).token.isSome then advance
    else
      operands [srcX k] []
      notService
      notHandler
      notErg 0x60
      let v := (← readX k).toNat
      let before := (← me).lease
      enterStream (.mlease (if v = 0 || 256 < v then 256 else v))
      upd fun s => s.opaTick (clusterOf s.cur.core)
      throw (.sleep (.lease before))) s

/-- MFREE (R284): it enters the stream, and the lease ends in its turn. -/
def execMfree (s : State) : Host.Outcome State Fault Refusal :=
  issue (do
    arrayGate 0x60
    notInHandler
    enterStream .mfree
    upd fun s => s.opaTick (clusterOf s.cur.core)
    advance) s

/-! ### Slots and tiles (R285, R286) -/

/-- The slots from A to B. -/
def slotRange (a b : BitVec 6) : List Nat := (upTo (b.toNat + 1 - a.toNat)).map fun k => a.toNat + k

/-- SLCLAIM (R285). -/
def execSlclaim (a b : BitVec 6) (s : State) : Host.Outcome State Fault Refusal :=
  issue (do
    arrayGate 0x61
    notInHandler
    let k ← myCluster
    let uid := (← me).uid
    match (slotRange a b).find? fun n => ((k.slot n).owner).isSome && (k.slot n).owner ≠ some uid with
    | some n => trap Cause.slot (ownVal n 1)
    | none =>
      let new := (slotRange a b).filter fun n => (k.slot n).owner ≠ some uid
      enterStream (.slclaim new)
      upd fun s => new.foldl (fun (s : State) n => s.updSlot (clusterOf s.cur.core) n fun x => { x with owner := some uid }) s
      advance) s

/-- SLFREE (R285). -/
def execSlfree (a b : BitVec 6) (s : State) : Host.Outcome State Fault Refusal :=
  issue (do
    arrayGate 0x61
    notInHandler
    streamEmpty
    let uid := (← me).uid
    upd fun s => (slotRange a b).foldl (fun (s : State) n =>
      s.updSlot (clusterOf s.cur.core) n fun x => if x.owner = some uid then { x with owner := none } else x) s
    advance) s

/-- ACLAIM (R286). -/
def execAclaim (i32 : Bool) (t : BitVec 2) (s : State) : Host.Outcome State Fault Refusal :=
  issue (do
    arrayGate 0x64
    notInHandler
    let n := t.toNat
    let o := ((← myCluster).tile n).owner
    let uid := (← me).uid
    trapIf (o.isSome && o ≠ some uid) Cause.tile (ownVal n 1)
    enterStream (.aclaim n i32)
    upd fun s => s.updTile (clusterOf s.cur.core) n fun x => { x with owner := some uid }
    advance) s

/-- AFREE (R286). -/
def execAfree (t : BitVec 2) (s : State) : Host.Outcome State Fault Refusal :=
  issue (do
    arrayGate 0x64
    notInHandler
    streamEmpty
    let uid := (← me).uid
    upd fun s => s.updTile (clusterOf s.cur.core) t.toNat fun x => if x.owner = some uid then { x with owner := none } else x
    advance) s

/-- MZERO (R286). -/
def execMzero (t : BitVec 2) (s : State) : Host.Outcome State Fault Refusal :=
  issue (do
    arrayGate 0x64
    notInHandler
    leaseGate
    ownTile t.toNat
    enterStream (.mzero t.toNat)
    advance) s

/-! ### SLLOAD (R287, R288) -/

/-- Pages that a command needs, with those that a store would wait for. -/
structure Runs where
  pages : Pages
  xls : List Xl
  deriving DecidableEq, Repr

/-- Translate a run of `n` elements `d` bytes apart, page by page: the first element that does not exist traps (R280, R123). -/
def runPages (kind : Kind) (chk : Xl → M Unit) (va d n : Nat) (acc : Runs) : M Runs :=
  (splitAt' 65536 (d * n / 65536 + 2) va 0 (d * n)).foldlM (fun (acc : Runs) p => do
    let at' := (va + p.1) % 2 ^ 64
    let x ← xlateM at' kind
    chk x
    let s ← get
    if !s.exists (x.pa + p.2 - 1) then
      match (upTo (p.2 / d)).find? fun k => !s.exists (x.pa + k * d) with
      | some k => trap Cause.protection (at' + k * d)
      | none => pure ()
    return ⟨KMap.ins acc.pages (at' / 65536) x.page, acc.xls ++ [x]⟩) acc

/-- The window that a base address lies behind, if it translates to one. -/
def baseWindow (va : Nat) (kind : Kind) : M (Option Window) := do
  match ← caught (xlateM va kind) with
  | .ok x =>
    let s ← get
    return (if behindWindow x.pa then s.elemWindow x.pa else none)
  | .error _ => return none

/-- Pages that SLLOAD may read, and the formats that it may convert (R287, R288). -/
def slCheck (fmt : Nat) (scale : Bool) (x : Xl) : M Unit := do
  trapIf (x.mode = 3 || paClass x.pa = 7) Cause.protection x.va
  if behindWindow x.pa then
    match (← get).elemWindow x.pa with
    | none => trap Cause.protection x.va
    | some w => trapIf (!scale && (tyIsInt fmt != tyIsInt w.dfmt)) Cause.tag (tagVal 0x3F ⟨fmt, false⟩)

/-- Slots that an 8-bit operand needs beyond its own (R287, R289). -/
def pairGate (slot : Nat) : M Unit := do
  trapIf (slot % 2 = 1) Cause.slot (ownVal slot 3)
  ownSlot (slot + 1)

/-- Slots of SLLOAD, in the order of R287. -/
def slSlots (fmt slot l0 n : Nat) (xc : Word) : M Unit := do
  let w := tyWidth fmt
  ownSlot slot
  trapIf (0 < n && (if w = 16 then 64 else if w = 4 then 128 else 256) < l0 + n) Cause.slot (rangeVal slot xc)
  if w = 8 && 128 < l0 + n then pairGate slot

/-- SLLOAD of lines, its checks in the order of R287 within the steps of R372. -/
def slload (col : Bool) (fmt slot : Nat) (a : Src) (imm : BitVec 16) (b c : Src) : M Unit := do
  operands [srcX a, srcX b, srcX c] []
  arrayGate 0x62
  let w := tyWidth fmt
  let base := ((← readX a) + imm.signExtend 64).toNat
  let st := (← readX b).toNat
  let xc ← readX c
  let l0 := bitsAt xc.toNat 0 9
  let n := bitsAt xc.toNat 16 9
  let pc := (← me).pc
  trapIf (col && w = 4) Cause.subbyteStride pc
  let y := match ← baseWindow base .load with
    | some q => tyWidth q.dfmt / 8
    | none => w / 8
  trapIf (base % max 1 y ≠ 0) Cause.misalign base
  trapIf (st % max 1 y ≠ 0) Cause.misalign st
  let e := if w = 4 then 256 else 128
  let runs := if col then upTo 128 else upTo n
  let len := if col then n else if y = 0 then 128 else e
  let r ← (if n = 0 then [] else runs).foldlM (fun (acc : Runs) k =>
    runPages .load (slCheck fmt false) ((base + k * st) % 2 ^ 64) (max 1 y) len acc) ⟨[], []⟩
  notInHandler
  slSlots fmt slot l0 n xc
  enterStream (.slload col fmt slot l0 n base st y r.pages)
  advance

/-- SLLOAD.ROW (R287). -/
def execSlloadRow (fmt : BitVec 4) (slot : BitVec 6) (a : Src) (imm : BitVec 16) (b c : Src) (s : State) :
    Host.Outcome State Fault Refusal := issue (slload false fmt.toNat slot.toNat a imm b c) s

/-- SLLOAD.COL (R287). -/
def execSlloadCol (fmt : BitVec 4) (slot : BitVec 6) (a : Src) (imm : BitVec 16) (b c : Src) (s : State) :
    Host.Outcome State Fault Refusal := issue (slload true fmt.toNat slot.toNat a imm b c) s

/-- The scale form of SLLOAD (R287). -/
def execSlloadScale (slot : BitVec 6) (a : Src) (imm : BitVec 16) (s : State) : Host.Outcome State Fault Refusal :=
  issue (do
    operands [srcX a] []
    arrayGate 0x62
    let base := ((← readX a) + imm.signExtend 64).toNat
    trapIf (base % 8 ≠ 0) Cause.misalign base
    let r ← runPages .load (slCheck 0 true) base 1 128 ⟨[], []⟩
    notInHandler
    ownSlot slot.toNat
    enterStream (.scale slot.toNat base r.pages)
    advance) s

/-! ### MOP and MOPS (R289) -/

/-- Ownership and the type of the tile (R289). -/
def mopGate (t sa sb fa fb : Nat) (scaled : Bool) : M Unit := do
  ownSlot sa
  ownSlot sb
  ownTile t
  let i ← tileI32 t
  trapIf (opaPair scaled fa fb ≠ some i) Cause.tile (ownVal t 5)

/-- The pair rule of an 8-bit operand in both slots: parity of both, then the upper slots (R289). -/
def pairsGate (sa sb : Nat) : M Unit := do
  trapIf (sa % 2 = 1) Cause.slot (ownVal sa 3)
  trapIf (sb % 2 = 1) Cause.slot (ownVal sb 3)
  ownSlot (sa + 1)
  ownSlot (sb + 1)

/-- MOP (R289). -/
def execMop (t : BitVec 2) (sa sb : BitVec 6) (fa fb : BitVec 4) (k : Src) (s : State) : Host.Outcome State Fault Refusal :=
  issue (do
    operands [srcX k] []
    arrayGate 0x63
    notInHandler
    leaseGate
    let v ← readX k
    let n := v.toNat % 512
    let w := tyWidth fa.toNat
    mopGate t.toNat sa.toNat sb.toNat fa.toNat fb.toNat false
    trapIf ((if w = 16 then 64 else 256) < n) Cause.slot (rangeVal sa.toNat v)
    if w = 8 && 128 < n then pairsGate sa.toNat sb.toNat
    enterStream (.mop t.toNat sa.toNat sb.toNat fa.toNat fb.toNat n)
    advance) s

/-- MOPS (R289). -/
def execMops (t : BitVec 2) (sa sb : BitVec 6) (fa fb : BitVec 4) (s : State) : Host.Outcome State Fault Refusal :=
  issue (do
    arrayGate 0x63
    notInHandler
    leaseGate
    mopGate t.toNat sa.toNat sb.toNat fa.toNat fb.toNat true
    if tyWidth fa.toNat = 8 then pairsGate sa.toNat sb.toNat
    enterStream (.mops t.toNat sa.toNat sb.toNat fa.toNat fb.toNat)
    advance) s

/-! ### MRD and MWR (R290) -/

/-- The tile and the first row that a register names. -/
def tilePlace (a : Src) : M (Nat × Nat × Word) := do
  let v ← readX a
  return (bitsAt v.toNat 8 2, bitsAt v.toNat 0 7, v)

/-- The vector state of MRD and MWR, VL fitting at the width of F32 (R283). -/
def tileOpen (srcs dsts : List Opd) : M VState := do
  operands srcs dsts
  let v ← vectorGate 0x65
  limit v [32]
  return v

/-- Lease, ownership and range (R283, R290). -/
def tileGate (v : VState) (t i0 : Nat) (x : Word) : M Unit := do
  notInHandler
  leaseGate
  ownTile t
  trapIf (16384 < i0 * 128 + v.vl) Cause.tile (rangeVal t x)

/-- MRD: the destination is empty until the command completes (R290). -/
def execMrd (d : VDst) (a : Src) (mem : Bool) (mk : BitVec 3) (s : State) : Host.Outcome State Fault Refusal :=
  issue (do
    let v ← tileOpen [srcX a] (vdst d)
    let (t, i0, x) ← tilePlace a
    tileGate v t i0 x
    let ty := if ← tileI32 t then 2 else 9
    let act := v.activeSet mem mk
    let id ← produce (vtarget d) [] ⟨ty, false, restBits v d false 32 v.vl (bitAt act), []⟩ 0 0 none .here (64, false)
    enterStream (.mrd id t i0 v.vl act)
    advance) s

/-- MWR: its register is read with F = 1 (R282, R290), and before SA where both have failed (R368). -/
def execMwr (a : Src) (vs : BitVec 5) (mem : Bool) (mk : BitVec 3) (s : State) : Host.Outcome State Fault Refusal :=
  issue (do
    let v ← tileOpen [.v vs.toNat true, srcX a] []
    let (t, i0, x) ← tilePlace a
    let r := v.getV vs.toNat
    let ty := if ← tileI32 t then 2 else 9
    trapIf (r.ty ≠ ty) Cause.tag (tagVal vs.toNat ⟨r.ty, r.s⟩)
    tileGate v t i0 x
    enterStream (.mwr t i0 v.vl (v.activeSet mem mk) r.bits)
    advance) s

/-! ### MST and MSYNC (R291, R292) -/

/-- Pages that MST may write (R291). -/
def mstCheck (x : Xl) : M Unit := do
  trapIf (paClass x.pa ≠ 1 || x.mode = 3) Cause.protection x.va
  if behindWindow x.pa then
    if ((← get).elemWindow x.pa).isNone then trap Cause.protection x.va

/-- Draws of SR that one row makes: 256 for each block of an OQ4 window, one for each element of another (R113). -/
def rowDraws (s : State) (pages : Pages) (dm : RMode) (va d : Nat) : Nat :=
  ((splitAt' 65536 3 va 0 (128 * d)).map fun p =>
    match pageXl pages ((va + p.1) % 2 ^ 64) with
    | none => 0
    | some x =>
      match (if behindWindow x.pa then s.elemWindow x.pa else none) with
      | none => 0
      | some w =>
        let i := (spmAddr x.pa).off / d
        let n := p.2 / d
        if w.mode dm ≠ .sr then 0
        else if w.sfmt = 15 then 256 * ((i + n + 255) / 256 - i / 256)
        else n).foldl (· + ·) 0

/-- Advance a generator. -/
def draws : Nat → Nat → Nat
  | 0, x => x
  | n + 1, x => draws n (srStep x)

/-- MST (R291), its checks in the steps of R372. -/
def execMst (t : BitVec 2) (a : Src) (imm : BitVec 16) (b c : Src) (s : State) : Host.Outcome State Fault Refusal :=
  issue (do
    operands [srcX a, srcX b, srcX c] []
    arrayGate 0x66
    let base := ((← readX a) + imm.signExtend 64).toNat
    let st := (← readX b).toNat
    let xc ← readX c
    let n := bitsAt xc.toNat 8 8
    let i0 := bitsAt xc.toNat 0 7
    let d := match ← baseWindow base .store with
      | some q => tyWidth q.dfmt / 8
      | none => 4
    let r ← (upTo n).foldlM (fun (acc : Runs) k => runPages .store mstCheck ((base + k * st) % 2 ^ 64) d 128 acc) ⟨[], []⟩
    trapIf (base % d ≠ 0) Cause.misalign base
    trapIf (st % d ≠ 0) Cause.misalign st
    notInHandler
    leaseGate
    ownTile t.toNat
    trapIf (128 < n || 128 < i0 + n) Cause.tile (rangeVal t.toNat xc)
    blockGate r.xls
    let k ← me
    let dm := fcsrMode k.fcsr
    enterStream (.mst t.toNat i0 n base st d dm (fcsrSatn k.fcsr) k.seed r.pages)
    let s ← get
    let m := ((upTo n).map fun i => rowDraws s r.pages dm ((base + i * st) % 2 ^ 64) d).foldl (· + ·) 0
    updMe fun x => { x with seed := draws m x.seed }
    advance) s

/-- MSYNC: every command of the stream completed, then a wait point with the stream's own errors (R292, R392, R393). -/
def execMsync (s : State) : Host.Outcome State Fault Refusal :=
  issue (do
    arrayGate 0x67
    notInHandler
    streamEmpty
    updMe fun x => { x with reports := x.reports ++ x.msyncReports, msyncReports := [] }
    waitPoint
    advance) s

end Sys2Proof.Machine
end

