-- ==== Sys2Proof/Machine/Atomic.lean ====
section
/-! DEFINITION. Atomics: the operations, where each is performed, and the base die's part in them (R226, R227, R358, R402). -/
namespace Sys2Proof.Machine

/-- The new value of a word of `w` bits; none leaves it as it is (R226). -/
def amoNew (op : AmoOp) (w old b c : Nat) : Option Nat :=
  let s (v : Nat) : Int := toSigned w v
  match op with
  | .add => some ((old + b) % 2 ^ w)
  | .and => some (old &&& b)
  | .or => some (old ||| b)
  | .xor => some (Nat.xor old b)
  | .min => some (if s b < s old then b else old)
  | .max => some (if s old < s b then b else old)
  | .minn => some (min old b)
  | .maxn => some (max old b)
  | .swap => some b
  | .cas => if old = c then some b else none
  | .fadd =>
    let f := if w = 64 then f64 else f32
    some (f.addOp (.plain .rne) (f.read old) (f.read b)).1

/-- Is the old value of a 32-bit operation extended with its sign? -/
def amoSigned : AmoOp → Bool
  | .minn | .maxn | .fadd => false
  | _ => true

/-- Bytes of an AMO. -/
def amoBytes (wide : Bool) : Nat := if wide then 8 else 4

/-- The scope of an ordering that acquires. -/
def ordAcq : AOrd → Option Nat
  | .acq s | .ar s => some s.code
  | _ => none

/-- The scope of an ordering that releases. -/
def ordRel : AOrd → Option Nat
  | .rel s | .ar s => some s.code
  | _ => none

/-- An AMO performed at a home: the value that was there. A bad word refuses it, with the cause (R395, R396). -/
def State.amoAt (s : State) (op : AmoOp) (pa : Nat) (wide : Bool) (b c : Nat) : Except Nat Nat × State :=
  let n := amoBytes wide
  if s.poisoned (pa / 8) then (.error (s.errCause (pa / 8)), s.met (pa / 8))
  else
    let s := if (s.holder (pa / 8)).isSome then s.recallWord (pa / 8) else s
    let old := s.homeBytes pa n
    match amoNew op (8 * n) old (b % 256 ^ n) (c % 256 ^ n) with
    | some v => (.ok old, (s.homePut pa n v).2)
    | none => (.ok old, s)

/-- Does the home slice hold the line of an address, or registrations on it (R227)? -/
def State.homeHolds (s : State) (pa : Nat) : Bool :=
  KMap.find false s.homeLines (pa / 64) || (upTo 8).any fun k => (s.holder (8 * (pa / 64) + k)).isSome

/-- The `n`-th outstanding atomic is performed: applied, or refused by an error in its data (R358, R402). -/
def State.baseResult (s : State) (n : Nat) (bad : Bool) : State :=
  match s.baseq[n]? with
  | none => s
  | some b =>
    let s := { s with baseq := s.baseq.eraseIdx n }
    let fail (s : State) (cause : Nat) : State :=
      match s.pendAt b.pend with
      | some p => s.failPend p cause
      | none => s
    if s.poisoned (b.pa / 8) then fail (s.met (b.pa / 8)) (s.errCause (b.pa / 8))
    else if bad then fail (s.setPoison (b.pa / 8) true) Cause.uncorrectable
    else
      let line := KMap.find false s.homeLines (b.pa / 64)
      let (old, s) := s.amoAt b.op b.pa b.wide b.b.toNat b.c.toNat
      let s := { s with homeLines := KMap.put false s.homeLines (b.pa / 64) line }
      match s.pendAt b.pend with
      | some p => s.settle p fun x =>
          x.writeResult { p with xs := [extend (8 * amoBytes b.wide) (amoSigned b.op) (old.toOption.getD 0)] }
      | none => s

/-- A result that arrives (R78): of an atomic behind a recall, once the holder has handed the word over, of any other as `deliver` says. -/
def State.resultIn (s : State) (p : Pend) (r : ResultIn) : State :=
  if p.origin.isRecall && r == .arrives && !s.resultHeld p then
    match s.baseq.findIdx? fun b => b.pend == p.id with
    | some n => s.baseResult n false
    | none => s
  else s.deliver p r

/-- The destination of an AMO: x0 takes no value (R227). -/
def amoDst (d : Reg) : Dst := if d = 0 then .none else .x d.toNat

/-- The acquire that ends an AMO with that ordering, and the move past it. -/
def amoEnd (o : AOrd) : M Unit := do
  match ordAcq o with
  | some sc => acquireM sc 1023
  | none => pure ()
  advance

/-- After an operation that another unit performs: with an acquire ordering the thread waits for the result, the token saying that the operation is on its way. -/
def amoLeft (o : AOrd) : M Unit := do
  match ordAcq o with
  | some _ =>
    updMe fun x => { x with token := some [] }
    throw (.sleep .ack)
  | none => advance

/-- An AMO ends with an error: its destination fails, or a wait point reports it (R392). -/
def amoFails (d : Reg) (va cause : Nat) (origin : Origin) : M Unit := do
  if d = 0 then noteError cause va
  else
    let _ ← produce (amoDst d) [0] VReg.zero va 0 (some (cause, va, 0)) origin (64, false)

/-- An AMO performed at once where the acting thread reaches the home. -/
def amoNow (op : AmoOp) (wide : Bool) (d : Reg) (x : Xl) (b c : Nat) (origin : Origin) : M Unit := do
  let (r, s) := (← get).amoAt op x.pa wide b c
  set s
  match r with
  | .error e => amoFails d x.va e origin
  | .ok old =>
    if d ≠ 0 then
      let _ ← produce (amoDst d) [extend (8 * amoBytes wide) (amoSigned op) old] VReg.zero x.va x.pa none origin (64, false)

/-- An AMO sent to a home module (R173). -/
def amoPeer (op : AmoOp) (wide : Bool) (o : AOrd) (d : Reg) (x : Xl) (b c : Word) : M Unit := do
  let n := amoBytes wide
  producePeer (amoDst d) x.va x.pa (.amo op (x.pa % 2 ^ 39) n b c) (8 * n, amoSigned op)
  amoLeft o

/-- An AMO that its home slice begins and ends later: forwarded to a base die (R227, R358), or behind the recall of its word from the holder (R159, R399). -/
def amoBegun (op : AmoOp) (wide : Bool) (o : AOrd) (d : Reg) (x : Xl) (b c : Word) (origin : Origin) : M Unit := do
  let id ← produce (amoDst d) [0] VReg.zero x.va x.pa none origin (64, false)
  upd fun s => { s with baseq := s.baseq ++ [⟨x.pa, op, wide, b, c, id, s.me.uid, s.cur.key, x.va⟩] }
  amoLeft o

/-- Perform an AMO whose page has passed its checks (R227). -/
def amoPerform (op : AmoOp) (wide : Bool) (o : AOrd) (d : Reg) (x : Xl) (b c : Word) : M Unit := do
  upd fun s => s.purgeBytes x (amoBytes wide)
  let s ← get
  match paClass x.pa with
  | 2 => amoPeer op wide o d x b c
  | 1 =>
    amoNow op wide d x b.toNat c.toNat (.spm (spmAddr x.pa).core)
    amoEnd o
  | 3 =>
    if s.cxlDown then amoFails d x.va (if d = 0 then Cause.uncorrectable else Cause.regEmpty) .here
    else
      upd fun s => s.hostLine (clusterOf (s.me.member s.cur.core x.va).1) (x.pa / 8) x.via
      amoNow op wide d x b.toNat c.toNat .here
    amoEnd o
  | _ =>
    match s.holder (x.pa / 8) with
    | some h => amoBegun op wide o d x b c (.recall h)
    | none =>
      if s.homeHolds x.pa || s.poisoned (x.pa / 8) then
        amoNow op wide d x b.toNat c.toNat (.home (bitsAt x.pa 37 2))
        amoEnd o
      else amoBegun op wide o d x b c (.base (bitsAt x.pa 37 2))

/-- An AMO (R222, R226, R227). `c` is AMOCAS's expected value. -/
def amo (op : AmoOp) (wide : Bool) (o : AOrd) (d : Reg) (a : Src) (off : BitVec 16) (b : Src) (c : Option Src) : M Unit := do
  if (← me).token = some [] then amoEnd o
  else
    operands ([srcX a, srcX b] ++ (c.map srcX).toList) [.x d.toNat false]
    let va := ((← readX a) + off.signExtend 64).toNat
    let n := amoBytes wide
    trapIf (va % n ≠ 0) Cause.misalign va
    let ps ← span va n .atomic amoCheck
    baseGate ps
    blockGate (ps.map fun p => p.x)
    match ordRel o with
    | some sc =>
      releaseM sc 1023
      waitPoint
    | none => pure ()
    let y ← readX b
    let z ← match c with
      | some e => readX e
      | none => pure 0
    match ps with
    | p :: _ => amoPerform op wide o d p.x y z
    | [] => advance

/-- AMOADD (R226). -/
def execAmoadd (w : Bool) (o : AOrd) (d : Reg) (a : Src) (off : BitVec 16) (b : Src) (s : State) :
    Host.Outcome State Fault Refusal := issue (amo .add w o d a off b none) s
/-- AMOAND (R226). -/
def execAmoand (w : Bool) (o : AOrd) (d : Reg) (a : Src) (off : BitVec 16) (b : Src) (s : State) :
    Host.Outcome State Fault Refusal := issue (amo .and w o d a off b none) s
/-- AMOOR (R226). -/
def execAmoor (w : Bool) (o : AOrd) (d : Reg) (a : Src) (off : BitVec 16) (b : Src) (s : State) :
    Host.Outcome State Fault Refusal := issue (amo .or w o d a off b none) s
/-- AMOXOR (R226). -/
def execAmoxor (w : Bool) (o : AOrd) (d : Reg) (a : Src) (off : BitVec 16) (b : Src) (s : State) :
    Host.Outcome State Fault Refusal := issue (amo .xor w o d a off b none) s
/-- AMOMIN (R226). -/
def execAmomin (w : Bool) (o : AOrd) (d : Reg) (a : Src) (off : BitVec 16) (b : Src) (s : State) :
    Host.Outcome State Fault Refusal := issue (amo .min w o d a off b none) s
/-- AMOMAX (R226). -/
def execAmomax (w : Bool) (o : AOrd) (d : Reg) (a : Src) (off : BitVec 16) (b : Src) (s : State) :
    Host.Outcome State Fault Refusal := issue (amo .max w o d a off b none) s
/-- AMOMINN (R226). -/
def execAmominn (w : Bool) (o : AOrd) (d : Reg) (a : Src) (off : BitVec 16) (b : Src) (s : State) :
    Host.Outcome State Fault Refusal := issue (amo .minn w o d a off b none) s
/-- AMOMAXN (R226). -/
def execAmomaxn (w : Bool) (o : AOrd) (d : Reg) (a : Src) (off : BitVec 16) (b : Src) (s : State) :
    Host.Outcome State Fault Refusal := issue (amo .maxn w o d a off b none) s
/-- AMOSWAP (R226). -/
def execAmoswap (w : Bool) (o : AOrd) (d : Reg) (a : Src) (off : BitVec 16) (b : Src) (s : State) :
    Host.Outcome State Fault Refusal := issue (amo .swap w o d a off b none) s
/-- AMOCAS (R226). -/
def execAmocas (w : Bool) (o : AOrd) (d : Reg) (a : Src) (off : BitVec 16) (b c : Src) (s : State) :
    Host.Outcome State Fault Refusal := issue (amo .cas w o d a off b (some c)) s
/-- AMOFADD (R226). -/
def execAmofadd (w : Bool) (o : AOrd) (d : Reg) (a : Src) (off : BitVec 16) (b : Src) (s : State) :
    Host.Outcome State Fault Refusal := issue (amo .fadd w o d a off b none) s

end Sys2Proof.Machine
end

