-- ==== Sys2Proof/Machine/Engine.lean ====
section
/-! DEFINITION. Instructions of the Ferry engines: commands, landing words, joins and rings (R295 to R304). -/
namespace Sys2Proof.Machine

/-- The registers of a quad as sources (R188). -/
def quadSrcs (q : QSrc) : List Opd := (upTo 4).map fun k => .x (q.q.code + k) q.f

/-- The registers of a quad as destinations. -/
def quadDsts (q : Quad) : List Opd := (upTo 4).map fun k => .x (q.code + k) false

/-- The words of a quad. -/
def readQuad (q : QSrc) : M (List Word) := do
  let c ← me
  return (upTo 4).map fun k => c.getX (q.q.code + k)

/-! ### FERRY (R295, R297, R298) -/

/-- A command of the acting context. -/
def State.ferryCmd (s : State) (w : List Word) : FerryCmd :=
  let sp := s.space
  let g (k : Nat) : Nat := (w.getD k 0).toNat
  ⟨s.nextUid, s.me.uid, s.me.tid, s.cur.key, sp.pl, sp.ptbase, sp.asid, s.me.inst, g 0, g 1, g 2, g 3, none⟩

/-- The checks of R297 in its order; the landing word of COMPL 00. -/
def ferryCheck (c : FerryCmd) : M (Option Nat) := do
  trapIf (c.op = 0 || 4 < c.op || bitsAt c.w0 12 4 ≠ 0 || (c.op = 2 && c.count ≠ 0) || (c.compl = 3 && c.w3 ≠ 0))
    Cause.ferryFault c.w0
  trapIf ((c.compl = 0 && c.w3 % 16 ≠ 0) || (c.rings && c.w3 % 64 ≠ 0)) Cause.ferryFault c.w3
  if c.compl = 3 then return none
  else
    let x ← xlateM c.w3 .store
    if c.compl = 0 then
      trapIf (paClass x.pa ≠ 1 || behindWindow x.pa) Cause.ferryFault c.w3
      return some x.pa
    else
      trapIf (!ringPlace x) Cause.ferryFault c.w3
      return none

/-- The fork and the FIFO (R163, R298). A fork at CL acts at DI: the engine reads at home, and R154 has it see what the issuer wrote (R158 allows more than its table; log 21). -/
def ferryAppend (c : FerryCmd) (land : Option Nat) : M Unit := do
  releaseM (max 1 c.scope) 1023
  waitPoint
  upd fun s =>
    let s := s.updCore s.cur.core fun k => { k with fifo := k.fifo ++ [{ c with land := land }] }
    let s := { s with nextUid := s.nextUid + 1 }
    match c.inst with
    | none => s
    | some i => { s with insts := s.insts.map fun e => if e.1 = i then (e.1, { e.2 with ferries := e.2.ferries + 1 }) else e }

/-- Does the core's FIFO hold 16 commands (R299)? -/
def fifoFull : M Bool := do
  let s ← get
  return decide (16 ≤ (s.coreAt s.cur.core).fifo.length)

/-- FERRY (R298): with no room in the FIFO it sleeps; a wake brings its landing word, found at its first try (R372). -/
def execFerry (q : QSrc) (s : State) : Host.Outcome State Fault Refusal :=
  issue (do
    operands (quadSrcs q) []
    let c := (← get).ferryCmd (← readQuad q)
    let land ← match (← me).token with
      | some l => pure (l.head?.map fun w => w.toNat)
      | none => ferryCheck c
    if ← fifoFull then
      notHandler
      updMe fun c => { c with token := none }
      throw (.sleep (.fifo land))
    ferryAppend c land
    advance) s

/-- FERRYNB (R298). -/
def execFerrynb (d : Reg) (q : QSrc) (s : State) : Host.Outcome State Fault Refusal :=
  issue (do
    operands (quadSrcs q) [.x d.toNat false]
    let c := (← get).ferryCmd (← readQuad q)
    let land ← ferryCheck c
    if ← fifoFull then writeX d 1
    else
      ferryAppend c land
      writeX d 0
    advance) s

/-! ### Landing words (R303, R304) -/

/-- The landing word that an instruction names (R304), where the way to its scratchpad is open (R417). -/
def landAt (a : Src) (imm : BitVec 16) (kind : Kind) : M Xl := do
  let va := ((← readX a) + imm.signExtend 64).toNat
  trapIf (va % 16 ≠ 0) Cause.misalign va
  let x ← xlateM va kind
  trapIf (paClass x.pa ≠ 1 || behindWindow x.pa) Cause.protection va
  baseGate [⟨x, 0, 16⟩]
  return x

/-- A bad landing word traps an instruction that waits for it, and is poisoned as a whole (R392, R404). -/
def landGate (x : Xl) (bad : Bool) : M Unit := do
  let cause := (← get).landCause x.pa
  if bad then
    upd fun s => s.landMet x.pa
    trap cause (dataVal 0x80 x.va)

/-- LWINIT (R304); of a word whose two words are good it restores the landing word (R404). -/
def execLwinit (d : Reg) (a : Src) (imm : BitVec 16) (b : Src) (s : State) : Host.Outcome State Fault Refusal :=
  issue (do
    operands [srcX a, srcX b] [.x d.toNat false]
    let x ← landAt a imm .store
    landGate x (!(← get).landReady x.pa)
    blockGate [x]
    let l := (← get).landing x.pa
    let t := (← readX b).toNat % 2 ^ 32
    upd fun s => (s.landRestore x.pa).setLanding x.pa { l with target := t, count := 0 }
    writeX d (wd l.gen)
    advance) s

/-- LWWAIT (R167, R304, R403). -/
def execLwwait (sc : Scope) (d : Reg) (a : Src) (imm : BitVec 16) (b : Src) (s : State) : Host.Outcome State Fault Refusal :=
  issue (do
    operands [srcX a, srcX b] [.x d.toNat false]
    notHandler
    let va := ((← readX a) + imm.signExtend 64).toNat
    let x := (← xlOnce [va] (do return [← landAt a imm .load])).headD ⟨va, 0, 3, 0, false, false, 0⟩
    landGate x ((← me).token.isNone && (← get).landPoison x.pa)
    let l := (← get).landing x.pa
    let g := (← readX b).toNat % 2 ^ 16
    if (← me).token.isNone && !landed l.gen g then
      upd fun s => s.setLanding x.pa { l with waiters := l.waiters + 1 }
      throw (.sleep (.landing x.pa g))
    acquireM sc.code 1023
    writeX d (wd l.gen)
    advance) s

/-- LWREAD (R304). -/
def execLwread (d : Reg) (a : Src) (imm : BitVec 16) (s : State) : Host.Outcome State Fault Refusal :=
  issue (do
    operands [srcX a] [.x d.toNat false]
    let x ← landAt a imm .load
    let s ← get
    let l := s.landing x.pa
    let fail := if s.landPoison x.pa then some (s.landCause x.pa, x.va, 0) else none
    upd fun s => s.landMet x.pa
    let _ ← produce (.x d.toNat) [wd (l.count * 2 ^ 32 + l.waiters * 2 ^ 16 + l.gen)] VReg.zero x.va x.pa fail
      (.spm (spmAddr x.pa).core) (64, false)
    advance) s

/-! ### Joins (R301, R302) -/

/-- FJOIN (R302). -/
def execFjoin (sc : Scope) (d : Reg) (a : Src) (s : State) : Host.Outcome State Fault Refusal :=
  issue (do
    operands [srcX a] [.x d.toNat false]
    notHandler
    let t := (← readX a).toNat % 2 ^ 16
    let s ← get
    if s.unjoined s.cur.core s.me.uid t then throw (.sleep (.join t))
    acquireM sc.code 1023
    writeX d (if s.me.fbad then 1 else 0)
    updMe fun x => { x with fbad := false }
    advance) s

/-- A word of a ring header or of a record: at home, or at the home module; and why it is bad. -/
def ringWord (x : Xl) (o : Nat) : M (Nat × Option Nat) := readPiece { x with va := x.va + o, pa := x.pa + o } 8 true

/-- Take record `i` at the header's home: CONS goes up, unless another poll took it before (R301). -/
def ringTake (h : Xl) (i : Nat) : M Bool := do
  let pa := h.pa + 24
  if paClass pa = 2 then
    let op : PeerOp := .amo .cas (pa % 2 ^ 39) 8 (wd (i + 1)) (wd i)
    match ← peerAnswer pa op h.va with
    | .value v => return decide (v = i)
    | .bad _ => return false
  else
    upd fun s => (s.homePut pa 8 ((i + 1) % 2 ^ 64)).2
    return true

/-- The four words of a record, and why one is bad. -/
def ringRead (x : Xl) : M (List Word × Option Nat) :=
  (upTo 4).foldlM (fun (acc : List Word × Option Nat) k => do
    let (v, bad) ← ringWord x (8 * k)
    return (acc.1 ++ [wd v], acc.2.or bad)) ([], none)

/-- End an FCPOLL: the quad filled, or failed. -/
def pollEnd (q : Quad) (v : List Word) (va : Nat) (fail : Option Nat) (x : Xl) : M Unit := do
  let s ← get
  let _ ← produce (.quad q.code) v VReg.zero va x.pa (fail.map fun c => (c, va, 0)) (s.originOf x 8) (64, false)
  advance

/-- FCPOLL (R300, R301): a record whose address is refused or does not exist, here or at its home module, is not taken. -/
def execFcpoll (sc : Scope) (q : Quad) (a : Src) (imm : BitVec 16) (s : State) : Host.Outcome State Fault Refusal :=
  issue (do
    operands [srcX a] (quadDsts q)
    let va := ((← readX a) + imm.signExtend 64).toNat
    trapIf (va % 64 ≠ 0) Cause.misalign va
    let h ← xlateM va .atomic
    trapIf (!ringPlace h) Cause.protection va
    baseGate [⟨h, 0, 64⟩]
    blockGate [h]
    let (base, e0) ← ringWord h 0
    let (lg, e1) ← ringWord h 8
    let (prod, e2) ← ringWord h 16
    let (cons, e3) ← ringWord h 24
    match ((e0.or e1).or e2).or e3 with
    | some c => pollEnd q [0, 0, 0, 0] va (some c) h
    | none =>
      if prod = cons then pollEnd q [0, 0, 0, 0] va none h
      else
        let at' := (base + 32 * (cons % 2 ^ (lg % 32))) % 2 ^ 64
        match ← caught (xlateM at' .load) with
        | .error _ => pollEnd q [0, 0, 0, 0] at' (some Cause.regEmpty) h
        | .ok x =>
          let (v, bad) ← ringRead x
          if bad = some Cause.regEmpty then pollEnd q [0, 0, 0, 0] at' bad h
          else if ← ringTake h cons then
            if v.getD 0 0 ≠ 0 && bad.isNone then acquireM sc.code 1023
            pollEnd q v at' bad x
          else
            -- another poll took the record: read the header again
            updMe fun c => { c with asks := [] }
            let _ ← peerAnswer (h.pa + 24) (.read ((h.pa + 24) % 2 ^ 39) 8) va) s

end Sys2Proof.Machine
end

