-- ==== Sys2Proof/Machine/Batch.lean ====
section
/-! DEFINITION. Instructions of the conflict batching unit (R323 to R331). -/
namespace Sys2Proof.Machine

/-- CBOPEN (R326). -/
def execCbopen (d : Reg) (a : Src) (s : State) : Host.Outcome State Fault Refusal :=
  issue (do
    operands [srcX a] [.x d.toNat false]
    notService
    let h ← cbOpen (← readX a)
    writeX d h
    advance) s

/-- CBPOST (R327). -/
def execCbpost (q : QSrc) (s : State) : Host.Outcome State Fault Refusal :=
  issue (do
    operands (quadSrcs q) []
    notService
    notHandler
    cbPost (← readQuad q)
    advance) s

/-- CBTAKE (R328): all ones is the drained result. While it waits its destination is empty (R78). -/
def execCbtake (d : Reg) (h : Src) (s : State) : Host.Outcome State Fault Refusal :=
  issue (do
    let c ← me
    let l ← match c.token with
      | some tok => takeAnswer tok
      | none => do
        operands [srcX h] [.x d.toNat false]
        notService
        notHandler
        cbTakeItems (.x d.toNat) (c.stX d.toNat) (← readX h) 1
    match l with
    | [] => writeX d (BitVec.allOnes 64)
    | (w, false) :: _ => writeX d w
    | (_, true) :: _ => updMe fun c => c.markX d.toNat (.failed Cause.uncorrectable 0 0)
    advance) s

/-- The items of a caravan as elements of a vector (R328). -/
def caravan (l : List Word) : VReg := ⟨7, false, l.foldr (fun w n => w.toNat + n * 2 ^ 64) 0, []⟩

/-- A caravan some of whose payloads were lost on the way: the register fails in their lanes (R394, R422). -/
def caravanFails (vd : BitVec 5) (r : VReg) (l : List Elem) : M Unit := do
  let lanes ← lanesM
  upd fun s =>
    let p : Pend := ⟨s.nextPend, s.cur.key, s.me.uid, .v vd.toNat, [], r, 0, none, .here, (64, false), l, 0, s.fc⟩
    let q := p.loseElems lanes Cause.uncorrectable l
    match q.fail with
    | some f => ({ s with nextPend := s.nextPend + 1 }).updMe fun x => x.failResult q f.1 f.2.1 f.2.2
    | none => s

/-- Write what CBTAKEV took: the vector and VL (R328). -/
def caravanTaken (vd : BitVec 5) (l : List (Word × Bool)) : M Unit := do
  let r := caravan (l.map (·.1))
  let bad : List Elem := ((upTo l.length).zip l).filterMap fun e => if e.2.2 then some ⟨e.1, 0, 0, .here⟩ else none
  if bad.isEmpty then writeV (.v vd) r else caravanFails vd r bad
  updMe fun x => x.updV fun v => { v with vl := l.length }
  advance

/-- CBTAKEV (R328). While it waits its destination is empty (R78). -/
def execCbtakev (vd : BitVec 5) (h : Src) (s : State) : Host.Outcome State Fault Refusal :=
  issue (do
    match (← me).token with
    | some tok => caravanTaken vd (← takeAnswer tok)
    | none =>
      operands [srcX h] [.v vd.toNat false]
      notService
      notHandler
      notErg 0x76
      let v ← vstate
      limit v [64]
      if v.vl = 0 then
        writeV (.v vd) (caravan [])
        advance
      else caravanTaken vd (← cbTakeItems (.v vd.toNat) (v.stV vd.toNat) (← readX h) (min v.vl 256))) s

/-- CBDONE (R330): the scalar form frees one token, the vector form one for each active element. -/
def execCbdone (a : VSrc) (h : Src) (me : Bool) (mk : BitVec 3) (s : State) : Host.Outcome State Fault Refusal :=
  issue (do
    operands [vopd a, srcX h] []
    notService
    match a.op with
    | .bc r =>
      let t ← readX ⟨r, a.f⟩
      cbDone [bitsAt t.toNat 32 32] (← readX h)
    | _ =>
      trapIf (← curId).isHandler Cause.vstate 0
      notErg 0x76
      let v ← vstate
      queueGate v a
      let x := readV v (← Sys2Proof.Machine.me) a
      limit v [64]
      match x.tag with
      | some ⟨7, false⟩ => pure ()
      | some t => badTag a t
      | none => pure ()
      let toks := ((upTo v.vl).filter fun k => v.active me mk k).map fun k => bitsAt (x.bits 64 k) 32 32
      cbDone toks (← readX h)
      popAll [a]
    advance) s

/-- CBCLOSE (R331). -/
def execCbclose (h : Src) (s : State) : Host.Outcome State Fault Refusal :=
  issue (do
    operands [srcX h] []
    notService
    cbClose (← readX h)
    advance) s

end Sys2Proof.Machine
end

