-- ==== Sys2Proof/Machine/Threads.lean ====
section
/-! DEFINITION. Threads, groups and messages (R26 to R37, R44 to R49, R305 to R309, R312). -/
namespace Sys2Proof.Machine

/-! ### Creating a thread (R28, R29, R70) -/

/-- The lowest-numbered FREE berth of a core. -/
def State.freeBerth (s : State) (core : Nat) : Option Nat :=
  if s.coreDead core then none else (upTo 8).find? fun b => (s.ctxAt ⟨core, b⟩).occ == .free

/-- What a new thread starts with. -/
structure Start where
  entry : Nat
  pl : Nat
  ptbase : Nat
  asid : Nat
  inst : Option Nat
  x1 : Word
  x2 : Word
  x3 : Word
  deriving DecidableEq, Repr

/-- The context of a new thread (R29). -/
def Start.ctx (t : Start) (c : CtxId) (uid : Nat) : Ctx :=
  { Ctx.reset with
    occ := .occupied, uid := uid, tid := c.tid, x := [(1, t.x1), (2, t.x2), (3, t.x3)], pc := t.entry + 2, pl := t.pl,
    ptbase := t.ptbase, asid := t.asid, seed := c.tid + 1, inst := t.inst, order := uid }

/-- Create a thread in a berth; its first instruction is an acquire at PK (R28). -/
def State.startThread (s : State) (c : CtxId) (t : Start) : State :=
  let nopre := match t.inst with
    | some i => (s.insts.find? fun e => e.1 == i).any fun e => e.2.nopre
    | none => false
  let by' := s.cur
  let s := { s with nextUid := s.nextUid + 1, cur := c }.updCtx c fun b => { (t.ctx c s.nextUid).inBerth b with nopre := nopre }
  let s := { s.acquire [(c.core, none)] 2 1023 with cur := by' }
  match t.inst with
  | none => s
  | some i => { s with insts := s.insts.map fun e => if e.1 = i then (e.1, { e.2 with threads := e.2.threads + 1 }) else e }

/-- The berth that SPAWN takes (R28), and the rotation after it. -/
def State.spawnPlace (s : State) (any : Bool) (core : Nat) : Option CtxId :=
  if any then
    let cl := core / 4
    let k := s.clAt cl
    let l := (upTo 4).map fun i => 4 * cl + (k.spawnLast + 1 + i) % 4
    match l.find? fun n => (s.freeBerth n).isSome with
    | some n => (s.freeBerth n).map fun b => ⟨n, b⟩
    | none => none
  else (s.freeBerth core).map fun b => ⟨core, b⟩

/-- cat(kind, thread ID) of a context (R29, R312). -/
def kindTid (c : CtxId) (tid : Nat) : Nat := c.kind * 2 ^ 13 + tid

/-- SPAWN (R305). -/
def execSpawn (d : Reg) (a b c : Src) (s : State) : Host.Outcome State Fault Refusal :=
  issue (do
    operands [srcX a, srcX b, srcX c] [.x d.toNat false]
    let entry ← readX a
    let t ← readX c
    trapIf (entry.toNat % 64 ≠ 0) Cause.badTarget entry.toNat
    let any := bitAt t.toNat 10
    let core := t.toNat % 1024
    let s ← get
    trapIf (decide (2 ^ 11 ≤ t.toNat) || (any && core % 4 ≠ 0) || !s.corePresent core) Cause.badTarget t.toNat
    edgeGate (dieOf core)
    releaseM Scope.pk.code 1023
    waitPoint
    let s ← get
    match s.spawnPlace any core with
    | none => writeX d (BitVec.allOnes 64)
    | some at' =>
      let sp := s.space
      let x1 ← readX b
      let t : Start := ⟨entry.toNat, sp.pl, sp.ptbase, sp.asid, if s.cur.isHandler then none else s.me.inst, x1,
        wd (kindTid s.cur s.me.tid), 0⟩
      upd fun s => s.startThread at' t
      if any then upd fun s => s.updCl (core / 4) fun k => { k with spawnLast := at'.core % 4 }
      writeX d (wd at'.tid)
    advance) s

/-! ### Ending and yielding (R30, R48, R306) -/

/-- End a handler: no release, its reports go to the fault log, the slot drains, every berth of the core has its wake bit set (R48, R207, R392). -/
def State.endHandler (s : State) (c : CtxId) : State :=
  let s := s.drainComb c 1023 true
  let s := s.logReports c.core (s.ctxAt c).reports
  let s := (upTo 8).foldl (fun (s : State) b => s.updCtx ⟨c.core, b⟩ fun x => { x with wake := true }) s
  s.updCtx c fun x => { x with occ := .draining, reports := [], wait := none, token := none, asks := [], pas := [], line := none }

/-- What has been combined and commanded leaves as the thread ends, once its way is open (R30, R358, R417). -/
def endGate : M Unit := do
  let s ← get
  let l := s.endLacks s.cur
  if !l.isEmpty then waitLacks l

/-- EXIT (R30, R306): an erg ends once its results have returned and its accesses are performed (R343). -/
def execExit (s : State) : Host.Outcome State Fault Refusal :=
  issue (do
    let s ← get
    if s.ergWaits s.cur then stall
    endGate
    upd fun s => if s.cur.isHandler then s.endHandler s.cur else s.endThread s.cur) s

/-- HRET (R48, R309). -/
def execHret (s : State) : Host.Outcome State Fault Refusal :=
  issue (do
    trapIf (!(← curId).isHandler) Cause.priv 0
    endGate
    upd fun s => s.endHandler s.cur) s

/-- YIELD (R306): the hold lasts 8 fc at most. -/
def execYield (s : State) : Host.Outcome State Fault Refusal :=
  issue (do
    let c ← curId
    let t := (← get).fc + 8
    if !c.isHandler then updMe fun x => { x with hold := some t }
    advance) s

/-! ### Groups (R32, R33, R307) -/

/-- The group record that an instruction names. -/
def groupAt (a : Src) (imm : BitVec 16) : M Xl := syncWordAt groupCheck a (imm.signExtend 24) 16

/-- JOIN (R33, R307): one that waits is held at the home slice. -/
def execJoin (d : Reg) (a : Src) (imm : BitVec 16) (s : State) : Host.Outcome State Fault Refusal :=
  issue (do
    match (← me).token with
    | some (v :: _) => writeX d v
    | _ =>
      operands [srcX a] [.x d.toNat false]
      notHandler
      let x ← groupAt a imm
      let s ← get
      if paClass x.pa = 2 then writeX d (wd (← askPeer x.pa (.group 0 x.off) x.va))
      else
        let (r, s') := s.groupJoin x.pa (s.waiterMe true)
        set s'
        match r with
        | some v => writeX d (wd v)
        | none => throw (.sleep (.group x.pa))
    advance) s

/-- LEAVE (R33, R307). -/
def execLeave (sc : Scope) (d : Reg) (a : Src) (imm : BitVec 16) (s : State) : Host.Outcome State Fault Refusal :=
  issue (do
    operands [srcX a] [.x d.toNat false]
    notHandler
    let x ← groupAt a imm
    let op : PeerOp := .group 1 x.off
    if !(← asked x.pa op) then
      releaseM sc.code 1023
      waitPoint
    if paClass x.pa = 2 then writeX d (wd (← askPeer x.pa op x.va))
    else
      let (v, s') := (← get).groupLeave x.pa
      set s'
      writeX d (wd v)
    advance) s

/-- GBAR (R33, R307): the arrival, then the wait for the phase, then the acquire. -/
def execGbar (sc : Scope) (d : Reg) (a : Src) (imm : BitVec 16) (s : State) : Host.Outcome State Fault Refusal :=
  issue (do
    match (← me).token with
    | some (v :: _) => writeX d v
    | _ =>
      operands [srcX a] [.x d.toNat false]
      notHandler
      let x ← groupAt a imm
      let op : PeerOp := .group 2 x.off
      if !(← asked x.pa op) then
        releaseM sc.code 1023
        waitPoint
      if paClass x.pa = 2 then writeX d (wd (← askPeer x.pa op x.va))
      else
        let s ← get
        let (r, s') := s.groupBar x.pa (s.waiterMe false)
        set s'
        match r with
        | some v => writeX d (wd v)
        | none => throw (.sleep (.group x.pa))
    acquireM sc.code 1023
    advance) s

/-! ### Messages (R35 to R37, R308) -/

/-- A message destination (R308). -/
structure Dest where
  pkg : Nat
  core : Nat
  chan : Nat
  deriving DecidableEq, Repr

/-- Decode a destination word: none where a reserved bit is set, a core is absent or dead, or a package is not reached (R308, R411, R430). -/
def State.dest (s : State) (v : Nat) : Option Dest :=
  let svc := bitAt v 16
  let core := bitsAt v 6 10
  let pkg := bitsAt v 32 10
  if decide (2 ^ 42 ≤ v) || bitsAt v 17 15 ≠ 0 || (svc && decide (16 ≤ core)) then none
  else
    let core := if svc then 1024 + core else core
    if (if pkg = s.pkgid then s.corePresent core && !s.coreDead core else s.reached pkg) then some ⟨pkg, core, v % 64⟩ else none

/-- Is the send queue of a network full (R36)? -/
def State.sendFull (s : State) (rep : Bool) : Bool :=
  let k := s.coreAt s.cur.core
  decide (16 ≤ if rep then k.repOut else k.reqOut)

/-- SEND and SENDNB up to the full queue; `full` says what happens there (R308). -/
def sendM (rep : Bool) (sc : Scope) (q : QSrc) (b : Src) (dsts : List Opd) (full : Nat → M Unit) (sent : M Unit) : M Unit := do
  operands (quadSrcs q ++ [srcX b]) dsts
  let h := (← curId).isHandler
  trapIf (h && !rep) Cause.handlerBlock 0
  let v := (← readX b).toNat
  let s ← get
  match s.dest v with
  | none => trap Cause.badTarget v
  | some t =>
    trapIf (h && s.sendFull true) Cause.handlerBlock 0
    if t.pkg ≠ s.pkgid && s.outHeld (dieOf s.cur.core) t.pkg (Nat.xor s.cur.core t.core) then stall
    if s.sendFull rep then full v
    else
      releaseM sc.code 1023
      waitPoint
      let p ← readQuad q
      upd fun s =>
        let m : Msg := ⟨rep, t.core, t.pkg, t.chan, s.pkgid, s.cur.kind, s.me.tid, s.cur.core, p, false, wd sc.code, false, false⟩
        (s.updCore s.cur.core fun k => if rep then { k with repOut := k.repOut + 1 } else { k with reqOut := k.reqOut + 1 }).post m
      sent
    advance

/-- SEND (R308). -/
def execSend (rep : Bool) (sc : Scope) (q : QSrc) (b : Src) (s : State) : Host.Outcome State Fault Refusal :=
  issue (sendM rep sc q b [] (fun v => trap Cause.sendqFull v) (pure ())) s

/-- SENDNB (R308). -/
def execSendnb (rep : Bool) (sc : Scope) (d : Reg) (q : QSrc) (b : Src) (s : State) : Host.Outcome State Fault Refusal :=
  issue (sendM rep sc q b [.x d.toNat false] (fun _ => writeX d 1) (writeX d 0)) s

/-- Does the channel ask for SUP: its entry has SUP = 1 and is honoured (R44, R309)? -/
def State.supChannel (s : State) (core ch : Nat) : Bool × State :=
  if (s.coreAt core).htab = 0 then (false, s)
  else match s.handlerEntry core ch with
    | (.ok e, s) => (e.sup, s)
    | (.error _, s) => (false, s)

/-- HMASK and HUNMASK (R309). The entry of the channel is read once its word is within reach (R174, R358, R417). -/
def hmaskM (on : Bool) (d : Reg) (a : Src) : M Unit := do
  operands [srcX a] [.x d.toNat false]
  let v := (← readX a).toNat
  let ch := v % 64
  let sup ← wholeM fun s => s.supChannel s.cur.core ch
  trapIf (sup && (← me).pl = 0) Cause.priv ch
  trapIf (64 ≤ v) Cause.badTarget v
  let s ← get
  let k := s.coreAt s.cur.core
  upd fun s => s.updCore s.cur.core fun k => { k with chmask := setBit k.chmask ch on }
  writeX d (if bitAt k.chmask ch then 1 else 0)
  advance

/-- HMASK (R309). -/
def execHmask (d : Reg) (a : Src) (s : State) : Host.Outcome State Fault Refusal := issue (hmaskM true d a) s

/-- HUNMASK (R309). -/
def execHunmask (d : Reg) (a : Src) (s : State) : Host.Outcome State Fault Refusal := issue (hmaskM false d a) s

/-! ### GETID (R312) -/

/-- The value of a kind of GETID (R312). -/
def State.getId (s : State) (k : IdKind) : Nat :=
  let c := s.cur
  match k with
  | .tid => kindTid c s.me.tid
  | .core => c.core
  | .clus => if isSvc c.core then 2 ^ 64 - 1 else clusterOf c.core
  | .pkg => s.pkgid
  | .quad => svcOfCore c.core % 4
  | .berth => c.idx % 8
  | .ident => s.identMe

/-- GETID (R312). -/
def execGetid (k : IdKind) (d : Reg) (s : State) : Host.Outcome State Fault Refusal :=
  issue (do
    operands [] [.x d.toNat false]
    writeX d (wd ((← get).getId k))
    advance) s

end Sys2Proof.Machine
end

