-- ==== Sys2Proof/Machine/Tasks.lean ====
section
/-! DEFINITION. Task instances, their dispatchers, watchpoints (R56 to R71, R310, R311, R404, R412, R420). -/
namespace Sys2Proof.Machine

/-! ### Records and pushes (R56, R57, R61, R67) -/

/-- Is a field of a record that must be zero not zero, or an address misaligned (R57)? -/
def recordBad (w : Nat → Nat) : Bool :=
  w 0 % 64 != 0 || bitsAt (w 3) 50 14 != 0 || bitsAt (w 5) 17 47 != 0 || bitsAt (w 7) 18 46 != 0 || w 4 % 8 != 0 || w 6 % 16 != 0

/-- The enabled set: present clusters in quadrants that both masks enable (R57). -/
def State.enabledSet (s : State) (qmask diemask : Nat) : List Nat :=
  (upTo 256).filter fun cl => bitAt diemask (cl / 64) && bitAt qmask (quadOfCluster cl) && s.clusterPresent cl

/-- The owning dispatcher: the first of the hint's quadrant, the origin's, and every quadrant in order that holds a cluster of the enabled set (R67). -/
def ownerOf (set : List Nat) (hint : Option Nat) (origin : Nat) : Option Nat :=
  ((hint.map svcOfCluster).toList ++ [origin] ++ upTo 16).find? fun q => set.any fun cl => svcOfCluster cl == q

/-- A push: the address space, privilege and quadrant that it comes from, and what was read for it. -/
structure Push where
  ptbase : Nat
  asid : Nat
  sup : Bool
  origin : Nat
  record : Nat
  words : List Nat
  /-- the dependence pair, where the record names one -/
  pair : Nat × Nat
  deriving DecidableEq, Repr

/-- The address space in which the dispatcher works for a push (R61). -/
def pushSpace (ptbase asid : Nat) (sup : Bool) (svc : Nat) : Space := ⟨ptbase, asid, if sup then 1 else 0, 1024 + svc, true⟩

/-- Where the completion word lies, when it translates as R57 asks. -/
def State.complXl (s : State) (sp : Space) (va : Nat) : Option Xl × State :=
  match s.xlateUnit sp va .store with
  | (.ok x, s) =>
    let c := paClass x.pa
    (if c = 3 || ((c = 0 || c = 2) && 2 ≤ x.mode) then some x else none, s)
  | (_, s) => (none, s)

/-- The physical address of a watermark word of this module's HBM (R57). -/
def State.depXl (s : State) (sp : Space) (va : Nat) : Option Nat × State :=
  if va % 8 ≠ 0 then (none, s)
  else match s.xlateUnit sp va .load with
    | (.ok x, s) => (if paClass x.pa = 0 then some x.pa else none, s)
    | (_, s) => (none, s)

/-- The instance that a push makes, where its record is not malformed (R57). -/
def State.instOf (s : State) (p : Push) : Option Inst × State :=
  let w (k : Nat) : Nat := p.words.getD k 0
  if recordBad w || p.record % 64 ≠ 0 then (none, s)
  else
    let sp := pushSpace p.ptbase p.asid p.sup p.origin
    let qmask := bitsAt (w 5) 4 4
    let diemask := bitsAt (w 5) 0 4
    let hintv := bitAt (w 5) 16
    let hint := bitsAt (w 5) 8 8
    let (complOk, s) := if w 4 = 0 then (true, s) else ((s.complXl sp (w 4)).1.isSome, (s.complXl sp (w 4)).2)
    let (dep, s) := if w 6 = 0 then (some 0, s) else s.depXl sp p.pair.1
    match complOk, dep, ownerOf (s.enabledSet qmask diemask) (if hintv then some hint else none) p.origin with
    | true, some depPa, some owner =>
      (some
        { record := p.record, ptbase := p.ptbase, asid := p.asid, entry := w 0, argp := wd (w 1), rows := bitsAt (w 2) 0 32,
          cols := bitsAt (w 2) 32 32, prio := bitsAt (w 3) 48 2, grain := bitsAt (w 3) 32 16, compl := w 4, hintv := hintv,
          hint := hint, qmask := qmask, diemask := diemask, nopre := bitAt (w 7) 17 && p.sup, sup := bitAt (w 7) 16 && p.sup, psup := p.sup,
          maxthr := bitsAt (w 7) 0 16, depVa := if w 6 = 0 then 0 else p.pair.1, depPa := depPa,
          depThr := if w 6 = 0 then 0 else p.pair.2, owner := owner, rb := 0, c := 0, started := 0, threads := 0, ferries := 0,
          lost := 0, since := s.fc, st := if w 6 = 0 then .queued else .pending }, s)
    | _, _, _ => (none, s)

/-- Instances that a dispatcher holds in its pending table (R62). -/
def State.pendingCount (s : State) (svc : Nat) : Nat :=
  (s.insts.filter fun e => e.2.owner == svc && (e.2.st == .pending || e.2.st == .satisfied)).length

/-- Discard a pending instance whose word is poisoned (R404, R412, R420 kind 6). -/
def State.dropDepend (s : State) (i : Nat) (v : Inst) : State :=
  { s with insts := KMap.del s.insts i }.logFault (1024 + v.owner) ⟨6, 0, 0, none, 0, v.record, v.depVa⟩

/-- The home slice registers the watermark word and compares it in the same step (R62). -/
def State.registerDepend (s : State) (i : Nat) (v : Inst) : State :=
  let s := (s.setInst i v).reach (1024 + v.owner) v.depPa 8
  let r := s.homeWord (v.depPa / 8)
  if r.2 then s.dropDepend i v
  else if decide (v.depThr ≤ r.1.toNat) then (s.satisfy i v).enterQueue v.owner
  else s

/-- Push an instance (R60 to R62, R68): where it fails, why (1 malformed, 2 ready queue full, 3 pending table full) and the service core that logs it (R412). -/
def State.pushInst (s : State) (p : Push) : Except (Nat × Nat) Unit × State :=
  match s.instOf p with
  | (none, s) => (.error (1, p.origin), s)
  | (some v, s) =>
    let s := s.cross (p.origin / 4) (v.owner / 4)
    let i := s.nextInst
    if v.st = .queued then
      if (s.dispAt v.owner).full v.prio then (.error (2, v.owner), s)
      else (.ok (), { s with nextInst := i + 1 }.makeReady i v)
    else if 256 ≤ s.pendingCount v.owner then (.error (3, v.owner), s)
    else (.ok (), { s with nextInst := i + 1 }.registerDepend i v)

/-- An instance leaves its queue when enough threads have started, or its cursor has reached the end after at least one (R68); one that waits for room enters at once (R62). -/
def State.leaveQueue (s : State) (i : Nat) : State :=
  match s.instAt i with
  | none => s
  | some v =>
    if v.st = .queued && decide (0 < v.started) && (decide (max v.maxthr 1 ≤ v.started) || decide (v.rows ≤ v.rb)) then
      ((s.setInst i { v with st := .live }).updDisp v.owner fun d => d.dequeue i).enterQueue v.owner
    else s

/-! ### TSPAWN (R310) -/

/-- A word that a push reads for the issuer: its faults are the issuer's traps (R385). -/
def pushWord (va : Nat) : M Nat := do
  let x ← xlateM va .load
  baseGate [⟨x, 0, 8⟩]
  if paClass x.pa = 2 then askPeer x.pa (.read (x.pa % 2 ^ 39) 8) va
  else
    match ← wholeM fun s => s.unitBytes s.cur.core x.pa 8 with
    | .error c => trap c (if c = Cause.uncorrectable then dataVal 0x80 va else va)
    | .ok (_, some c) => trap c (dataVal 0x80 va)
    | .ok (v, none) => return v

/-- TSPAWN (R310). -/
def execTspawn (a : Src) (imm : BitVec 16) (s : State) : Host.Outcome State Fault Refusal :=
  issue (do
    operands [srcX a] []
    let va := ((← readX a) + imm.signExtend 64).toNat
    if (← me).asks.isEmpty then
      releaseM Scope.pk.code 1023
      waitPoint
    trapIf (va % 64 ≠ 0) Cause.badTarget va
    let words ← (upTo 8).mapM fun k => pushWord (va + 8 * k)
    let dep := words.getD 6 0
    trapIf (recordBad fun k => words.getD k 0) Cause.badTarget va
    let pair ← if dep = 0 then pure (0, 0) else do
      let p ← pushWord dep
      let t ← pushWord (dep + 8)
      pure (p, t)
    match ← wholeM fun s => s.pushInst ⟨s.space.ptbase, s.space.asid, s.space.pl != 0, svcOfCore s.cur.core, va, words, pair⟩ with
    | .ok () => advance
    | .error (1, _) => trap Cause.badTarget va
    | .error _ => trap Cause.taskQueueFull va) s

/-! ### GRANT (R58) -/

/-- One GRANT of an instance for a thread of vector length `vl`: the rectangle, and the cursor after it (R58). -/
def Inst.grant (v : Inst) (vl : Nat) : List Word × Inst :=
  if v.rows ≤ v.rb || v.cols = 0 then ([0, 0, 0, 0], v)
  else
    let n := min (max v.grain 1) (v.rows - v.rb)
    let w := min (max vl 1) (v.cols - v.c)
    let l : List Word := [wd v.rb, wd n, wd v.c, wd w]
    if v.c + w = v.cols then (l, { v with c := 0, rb := v.rb + n }) else (l, { v with c := v.c + w })

/-- GRANT (R58): it takes effect in the order of issue (log 6), and its result returns later. -/
def execGrant (q : Quad) (s : State) : Host.Outcome State Fault Refusal :=
  issue (do
    operands [] (quadDsts q)
    let s ← get
    let x := s.me
    let vl := match x.vs with
      | some v => v.vl
      | none => 0
    match x.inst.bind fun i => (s.instAt i).map fun v => (i, v) with
    | none =>
      let _ ← produce (.quad q.code) [0, 0, 0, 0] VReg.zero 0 0 none .here (64, false)
    | some (i, v) =>
      edgeGate (v.owner / 4)
      let (r, v) := v.grant vl
      upd fun s => (s.setInst i v).leaveQueue i
      let _ ← produce (.quad q.code) r VReg.zero 0 0 none (.home (v.owner / 4)) (64, false)
    advance) s

/-! ### Watchpoints (R63, R64, R311) -/

/-- The watchpoint of a slice with an index. -/
def State.watchAt (s : State) (cl f : Nat) : Option Watch := KMap.find none (s.clAt cl).watch f

/-- The handle of a watchpoint (R311). -/
def watchHandle (seq cl f : Nat) : Nat := seq % 2 ^ 16 * 2 ^ 16 + cl * 16 + f

/-- WATCH (R311). DESIGN CHOICE (log 44): for a push that it makes, the agent whose level decides SUP and NOPRE (R57) is the thread that issued the WATCH, at its level then, as its address space is the one captured then (R61). -/
def execWatch (once : Bool) (n : BitVec 3) (d : Reg) (q : QSrc) (s : State) : Host.Outcome State Fault Refusal :=
  issue (do
    operands (quadSrcs q) [.x d.toNat false]
    let w ← readQuad q
    let range := (w.getD 0 0).toNat
    let n := n.toNat + 1
    trapIf (range % 8 ≠ 0 || 8 < range / 8 % 8 + n) Cause.misalign range
    let x ← xlateM range .load
    trapIf (paClass x.pa ≠ 0) Cause.badTarget range
    let s ← get
    let cl := s.homeSlice x.pa
    edgeGate (cl / 64)
    match (upTo 16).find? fun f => (s.watchAt cl f).isNone with
    | none => trap Cause.watchFull range
    | some f =>
      let sp := s.space
      let h := watchHandle (s.clAt cl).watchSeq cl f
      let k : Watch := ⟨h, x.pa, n, w.getD 1 0, w.getD 2 0, (w.getD 3 0).toNat, once, sp.ptbase, sp.asid, sp.pl != 0⟩
      upd fun s => s.updCl cl fun c =>
        { c with watch := KMap.ins c.watch f (some k), watchSeq := (c.watchSeq + 1) % 2 ^ 16 }
      writeX d (wd h)
    advance) s

/-- UNWATCH (R311). -/
def execUnwatch (d : Reg) (a : Src) (s : State) : Host.Outcome State Fault Refusal :=
  issue (do
    operands [srcX a] [.x d.toNat false]
    let h := (← readX a).toNat
    let cl := bitsAt h 4 8
    let s ← get
    trapIf (decide (2 ^ 32 ≤ h) || bitsAt h 12 4 ≠ 0 || !s.clusterPresent cl) Cause.badTarget h
    edgeGate (cl / 64)
    match s.watchAt cl (h % 16) with
    | none => writeX d 1
    | some k =>
      if k.handle = h then
        upd fun s => s.updCl cl fun c => { c with watch := KMap.ins c.watch (h % 16) none }
        writeX d 0
      else writeX d 1
    advance) s

end Sys2Proof.Machine
end

