-- ==== Sys2Proof/Machine/VecFun.lean ====
section
/-! DEFINITION. Correctly rounded reciprocals, square roots, powers and logarithms of one element (R246). -/
namespace Sys2Proof.Machine

/-- 1.0. -/
def fvOne : Fv := .fin false 1 0

/-- 1 / sqrt a (R246). -/
def Fmt.rsqOp (f : Fmt) (r : Rnd) (a : Fv) : Nat × Nat :=
  match a with
  | .nan s => (f.qnan, if s then flNV else 0)
  | .inf neg => if neg then (f.qnan, flNV) else (0, 0)
  | .fin neg m e =>
    if m = 0 then (f.signed neg f.infCode, flDZ)
    else if neg then (f.qnan, flNV)
    else
      let odd := e % 2 != 0
      let m := if odd then 2 * m else m
      let e := if odd then e - 1 else e
      -- q * 2^(-140) is the floor of 1 / sqrt m
      let q := isqrt 142 (2 ^ 280 / m)
      f.round false q (-(e / 2) - 140) (decide (q * q * m ≠ 2 ^ 280)) r .ieee

/-- Working precision of the power and the logarithm, in bits after the point. Its error stays far below the distance at which it could reach a rounding boundary of any format. -/
def workBits : Nat := 480

/-- ln 2 in units of 2^(-n), rounded down: the sum of 1 / (k 2^k). -/
def ln2 (n : Nat) : Nat := (upTo n).foldl (fun acc k => acc + 2 ^ n / ((k + 1) * 2 ^ (k + 1))) 0

/-- exp x in units of 2^(-n) for 0 ≤ x < 1, by its series. -/
def expFix (n x : Nat) : Nat :=
  ((upTo 140).foldl (fun acc k =>
    let t := acc.2 * x / 2 ^ n / (k + 1)
    (acc.1 + t, t)) ((2 ^ n, 2 ^ n) : Nat × Nat)).1

/-- log2 x in units of 2^(-n) for 1 ≤ x < 2 given in the same units: 2 artanh((x - 1) / (x + 1)) / ln 2. -/
def log2Fix (n x : Nat) : Nat :=
  let z := (x - 2 ^ n) * 2 ^ n / (x + 2 ^ n)
  let z2 := z * z / 2 ^ n
  let s := (upTo 200).foldl (fun acc k =>
    (acc.1 + acc.2 / (2 * k + 1), acc.2 * z2 / 2 ^ n)) ((0, z) : Nat × Nat)
  2 * s.1 * 2 ^ n / ln2 n

/-- 2^a (R246). -/
def Fmt.exp2Op (f : Fmt) (r : Rnd) (a : Fv) : Nat × Nat :=
  match a with
  | .nan s => (f.qnan, if s then flNV else 0)
  | .inf neg => (if neg then 0 else f.infCode, 0)
  | .fin neg m e =>
    if m = 0 then f.put fvOne r .ieee
    else if 20 < topExp m e then f.round false 1 (if neg then -70000 else 70000) true r .ieee
    else
      let n := workBits
      -- a in units of 2^(-n), rounded down; exact where nothing is lost
      let scaled : Int := if neg then -(m : Int) else m
      let x : Int := if 0 ≤ e + n then scaled * 2 ^ (e + n).toNat else scaled / 2 ^ (-(e + n)).toNat
      let i := x / 2 ^ n
      let fr := (x % 2 ^ n).toNat
      if 0 ≤ e || (m % 2 ^ (-e).toNat = 0) then f.round false 1 i false r .ieee
      else f.round false (expFix n (fr * ln2 n / 2 ^ n)) (i - n) true r .ieee

/-- log2 a (R246). -/
def Fmt.log2Op (f : Fmt) (r : Rnd) (a : Fv) : Nat × Nat :=
  match a with
  | .nan s => (f.qnan, if s then flNV else 0)
  | .inf neg => if neg then (f.qnan, flNV) else (f.infCode, 0)
  | .fin neg m e =>
    if m = 0 then (f.signed true f.infCode, flDZ)
    else if neg then (f.qnan, flNV)
    else
      let n := workBits
      let t := topExp m e
      if m = 2 ^ Nat.log2 m then f.put (Fv.ofInt t 0) r .ieee
      else
        let l := log2Fix n (m * 2 ^ n / 2 ^ Nat.log2 m)
        let v : Int := t * 2 ^ n + l
        if v < 0 then f.round true (v.natAbs - 1) (-(n : Int)) true r .ieee
        else f.round false v.natAbs (-(n : Int)) true r .ieee

end Sys2Proof.Machine
end

