-- ==== Sys2Proof/Machine/VecArith.lean ====
section
/-! DEFINITION. Element-wise vector arithmetic, comparison, selection and multiply-add (R246 to R250). -/
namespace Sys2Proof.Machine

/-! ### Elements of OP 0x42 (R246) -/

/-- An operation on integers or floats of a type: bits and flags. -/
def elem2 (int : Bool → Nat → Nat → Nat → Nat) (flt : Fmt → Rnd → Nat → Nat → Nat × Nat) (ty fcsr a b : Nat) : Nat × Nat :=
  match fmtOf ty with
  | some f => flt f (arith fcsr .dyn) a b
  | none => (int (tySigned ty) (tyWidth ty) a b, 0)

/-- A float operation on values. -/
def onValues (g : Fmt → Rnd → Fv → Fv → Nat × Nat) (f : Fmt) (r : Rnd) (a b : Nat) : Nat × Nat := g f r (f.read a) (f.read b)

/-- An integer operation alone. -/
def int2 (int : Bool → Nat → Nat → Nat → Nat) : Nat → Nat → Nat → Nat → Nat × Nat := elem2 int fun _ _ _ _ => (0, 0)

/-- Division of R103 at a width. -/
def intDiv (sg : Bool) (w a b : Nat) : Nat :=
  if b = 0 then 2 ^ w - 1
  else if sg then ofSigned w ((toSigned w a).tdiv (toSigned w b)) else a / b

/-- Smaller or larger by the type's order. -/
def intPick (isMax sg : Bool) (w a b : Nat) : Nat :=
  let less := if sg then decide (toSigned w a < toSigned w b) else decide (a < b)
  if less != isMax then a else b

/-- Shift right with sign bits. -/
def intShra (w a b : Nat) : Nat := ofSigned w (toSigned w a / 2 ^ (b % w))

/-- High half of a product. -/
def intMulh (sg : Bool) (w a b : Nat) : Nat :=
  if sg then ofSigned w (toSigned w a * toSigned w b / 2 ^ w) else a * b / 2 ^ w

/-- A saturating sum or difference (R102). -/
def intSat (sub sg : Bool) (w a b : Nat) : Nat :=
  let x := intOf sg w a
  let y := intOf sg w b
  ofSigned w (clampInt (intLo sg w) (intHi sg w) (if sub then x - y else x + y))

/-- VADD (R246). -/
def execVadd (d : VDst) (a b : VSrc) (m : MaskF) (s : State) : Host.Outcome State Fault Refusal :=
  issue (vec2 0x42 isNum d a b m (elem2 (fun _ _ x y => x + y) (onValues Fmt.addOp))) s

/-- VSUB (R246). -/
def execVsub (d : VDst) (a b : VSrc) (m : MaskF) (s : State) : Host.Outcome State Fault Refusal :=
  issue (vec2 0x42 isNum d a b m (elem2 (fun _ w x y => x + 2 ^ w - y) (onValues fun f r x y => f.addOp r x y.neg))) s

/-- VMUL (R246). -/
def execVmul (d : VDst) (a b : VSrc) (m : MaskF) (s : State) : Host.Outcome State Fault Refusal :=
  issue (vec2 0x42 isNum d a b m (elem2 (fun _ _ x y => x * y) (onValues Fmt.mulOp))) s

/-- VDIV (R246). -/
def execVdiv (d : VDst) (a b : VSrc) (m : MaskF) (s : State) : Host.Outcome State Fault Refusal :=
  issue (vec2 0x42 isNum d a b m (elem2 intDiv (onValues Fmt.divOp))) s

/-- VMIN (R246). -/
def execVmin (d : VDst) (a b : VSrc) (m : MaskF) (s : State) : Host.Outcome State Fault Refusal :=
  issue (vec2 0x42 isNum d a b m (elem2 (intPick false) (fun f _ x y => f.minmax false x y))) s

/-- VMAX (R246). -/
def execVmax (d : VDst) (a b : VSrc) (m : MaskF) (s : State) : Host.Outcome State Fault Refusal :=
  issue (vec2 0x42 isNum d a b m (elem2 (intPick true) (fun f _ x y => f.minmax true x y))) s

/-- VAND (R246). -/
def execVand (d : VDst) (a b : VSrc) (m : MaskF) (s : State) : Host.Outcome State Fault Refusal :=
  issue (vec2 0x42 isInt d a b m (int2 fun _ _ x y => x &&& y)) s

/-- VOR (R246). -/
def execVor (d : VDst) (a b : VSrc) (m : MaskF) (s : State) : Host.Outcome State Fault Refusal :=
  issue (vec2 0x42 isInt d a b m (int2 fun _ _ x y => x ||| y)) s

/-- VXOR (R246). -/
def execVxor (d : VDst) (a b : VSrc) (m : MaskF) (s : State) : Host.Outcome State Fault Refusal :=
  issue (vec2 0x42 isInt d a b m (int2 fun _ _ x y => Nat.xor x y)) s

/-- VSHL (R246). -/
def execVshl (d : VDst) (a b : VSrc) (m : MaskF) (s : State) : Host.Outcome State Fault Refusal :=
  issue (vec2 0x42 isInt d a b m (int2 fun _ w x y => x * 2 ^ (y % w))) s

/-- VSHR (R246). -/
def execVshr (d : VDst) (a b : VSrc) (m : MaskF) (s : State) : Host.Outcome State Fault Refusal :=
  issue (vec2 0x42 isInt d a b m (int2 fun _ w x y => x / 2 ^ (y % w))) s

/-- VSHRA (R246). -/
def execVshra (d : VDst) (a b : VSrc) (m : MaskF) (s : State) : Host.Outcome State Fault Refusal :=
  issue (vec2 0x42 isInt d a b m (int2 fun _ w x y => intShra w x y)) s

/-- VSADD (R246). -/
def execVsadd (d : VDst) (a b : VSrc) (m : MaskF) (s : State) : Host.Outcome State Fault Refusal :=
  issue (vec2 0x42 isInt d a b m (int2 (intSat false))) s

/-- VSSUB (R246). -/
def execVssub (d : VDst) (a b : VSrc) (m : MaskF) (s : State) : Host.Outcome State Fault Refusal :=
  issue (vec2 0x42 isInt d a b m (int2 (intSat true))) s

/-- VMULH (R246). -/
def execVmulh (d : VDst) (a b : VSrc) (m : MaskF) (s : State) : Host.Outcome State Fault Refusal :=
  issue (vec2 0x42 isInt d a b m (int2 intMulh)) s

/-! ### Elements of OP 0x44 (R246) -/

/-- An operation on one integer or float. -/
def elem1 (int : Nat → Nat → Nat) (flt : Fmt → Rnd → Nat → Nat × Nat) (ty fcsr a : Nat) : Nat × Nat :=
  match fmtOf ty with
  | some f => flt f (arith fcsr .dyn) a
  | none => (int (tyWidth ty) a, 0)

/-- A float operation on a value. -/
def onValue (g : Fmt → Rnd → Fv → Nat × Nat) (f : Fmt) (r : Rnd) (a : Nat) : Nat × Nat := g f r (f.read a)

/-- An integer operation alone. -/
def int1 (int : Nat → Nat → Nat) : Nat → Nat → Nat → Nat × Nat := elem1 int fun _ _ _ => (0, 0)

/-- A float operation alone. -/
def flt1 (flt : Fmt → Rnd → Nat → Nat × Nat) : Nat → Nat → Nat → Nat × Nat := elem1 (fun _ a => a) flt

/-- |a| at a width; the least value maps to itself. -/
def intAbs (sg : Bool) (w a : Nat) : Nat := if sg && decide (toSigned w a < 0) then 2 ^ w - a else a

/-- VNEG (R246). -/
def execVneg (d : VDst) (a : VSrc) (m : MaskF) (s : State) : Host.Outcome State Fault Refusal :=
  issue (vec1 0x44 isNum d a m (elem1 (fun w x => 2 ^ w - x) fun f _ x => (Nat.xor x (2 ^ (f.ex + f.fr)), 0))) s

/-- VABS (R246). -/
def execVabs (d : VDst) (a : VSrc) (m : MaskF) (s : State) : Host.Outcome State Fault Refusal :=
  issue (vec1 0x44 isNum d a m (fun ty => elem1 (intAbs (tySigned ty)) (fun f _ x => (x % 2 ^ (f.ex + f.fr), 0)) ty)) s

/-- VSQRT (R246). -/
def execVsqrt (d : VDst) (a : VSrc) (m : MaskF) (s : State) : Host.Outcome State Fault Refusal :=
  issue (vec1 0x44 isFlt d a m (flt1 (onValue Fmt.sqrtOp))) s

/-- VRCP (R246). -/
def execVrcp (d : VDst) (a : VSrc) (m : MaskF) (s : State) : Host.Outcome State Fault Refusal :=
  issue (vec1 0x44 isFlt d a m (flt1 (onValue fun f r x => f.divOp r fvOne x))) s

/-- VRSQ (R246). -/
def execVrsq (d : VDst) (a : VSrc) (m : MaskF) (s : State) : Host.Outcome State Fault Refusal :=
  issue (vec1 0x44 isFlt d a m (flt1 (onValue Fmt.rsqOp))) s

/-- VEXP2 (R246). -/
def execVexp2 (d : VDst) (a : VSrc) (m : MaskF) (s : State) : Host.Outcome State Fault Refusal :=
  issue (vec1 0x44 isFlt d a m (flt1 (onValue Fmt.exp2Op))) s

/-- VLOG2 (R246). -/
def execVlog2 (d : VDst) (a : VSrc) (m : MaskF) (s : State) : Host.Outcome State Fault Refusal :=
  issue (vec1 0x44 isFlt d a m (flt1 (onValue Fmt.log2Op))) s

/-- VNOT (R246). -/
def execVnot (d : VDst) (a : VSrc) (m : MaskF) (s : State) : Host.Outcome State Fault Refusal :=
  issue (vec1 0x44 isInt d a m (int1 fun w x => 2 ^ w - 1 - x)) s

/-- VCLZ (R246). -/
def execVclz (d : VDst) (a : VSrc) (m : MaskF) (s : State) : Host.Outcome State Fault Refusal :=
  issue (vec1 0x44 isInt d a m (int1 clzN)) s

/-- VPOPC (R246). -/
def execVpopc (d : VDst) (a : VSrc) (m : MaskF) (s : State) : Host.Outcome State Fault Refusal :=
  issue (vec1 0x44 isInt d a m (int1 popN)) s

/-! ### Comparison and selection (R247, R248) -/

/-- The orderings that FEQ, FLT and FLE and their integer forms accept. -/
inductive Cmp | eq | ne | lt | le
  deriving DecidableEq, Repr

/-- Does an ordering satisfy the comparison? -/
def Cmp.holds : Cmp → Ordering → Bool
  | .eq, o => o == .eq
  | .ne, o => o != .eq
  | .lt, o => o == .lt
  | .le, o => o != .gt

/-- Compare two elements of a type: the bit and the flags (R217, R247). -/
def Cmp.elem (q : Cmp) (ty a b : Nat) : Bool × Nat :=
  match fmtOf ty with
  | some f =>
    let x := f.read a
    let y := f.read b
    if x.isNan || y.isNan then
      (decide (q = Cmp.ne), if q = Cmp.lt || q = Cmp.le || x.isSnan || y.isSnan then flNV else 0)
    else (q.holds (x.cmp y), 0)
  | none =>
    let w := tyWidth ty
    (q.holds (compare (intOf (tySigned ty) w a) (intOf (tySigned ty) w b)), 0)

/-- VCMP with its condition (R247). -/
def vcmp (q : Cmp) (md : BitVec 3) (a b : VSrc) (m : MaskF) : M Unit := do
  let v ← vopen 0x45 [a, b] [] []
  let c ← me
  let x := readV v c a
  let y := readV v c b
  limit v (argWidths [x, y])
  let (t, u) ← tag2 v a x y none
  accept2 a b t u isNum
  let w := tyWidth t.ty
  let r (k : Nat) : Bool × Nat := q.elem t.ty (x.bits w k) (y.bits w k)
  let fl := (upTo v.vl).foldl (fun n k => if v.active m.me m.mr k then n ||| (r k).2 else n) 0
  raise fl
  popAll [a, b]
  updMe fun x => x.updV fun v => v.setMask md.toNat m fun k => (r k).1
  advance

/-- VCMP.EQ (R247). -/
def execVcmpEq (md : BitVec 3) (a b : VSrc) (m : MaskF) (s : State) : Host.Outcome State Fault Refusal := issue (vcmp .eq md a b m) s

/-- VCMP.NE (R247). -/
def execVcmpNe (md : BitVec 3) (a b : VSrc) (m : MaskF) (s : State) : Host.Outcome State Fault Refusal := issue (vcmp .ne md a b m) s

/-- VCMP.LT (R247). -/
def execVcmpLt (md : BitVec 3) (a b : VSrc) (m : MaskF) (s : State) : Host.Outcome State Fault Refusal := issue (vcmp .lt md a b m) s

/-- VCMP.LE (R247). -/
def execVcmpLe (md : BitVec 3) (a b : VSrc) (m : MaskF) (s : State) : Host.Outcome State Fault Refusal := issue (vcmp .le md a b m) s

/-- VSEL (R248). -/
def execVsel (d : VDst) (a b : VSrc) (mk : BitVec 3) (s : State) : Host.Outcome State Fault Refusal :=
  issue (do
    let v ← vopen 0x46 [a, b] [] (vdst d)
    let c ← me
    let x := readV v c a
    let y := readV v c b
    let (t, u) ← tag2 v a x y (some d)
    limit v [tyWidth t.ty, tyWidth u.ty]
    accept2 a b t u isNum
    let w := tyWidth t.ty
    vdone [a, b] d t.ty (formBits v 0 w (fun _ => true) fun k =>
      (if v.maskBit mk.toNat k then x.bits w k else y.bits w k, 0))) s

/-! ### Multiply-add (R249, R250) -/

/-- The kinds of OP 0x43. -/
inductive Madd | madd | msub | nmadd
  deriving DecidableEq, Repr

/-- Is a pair of types in the widening table (R250)? -/
def widens (a c : Nat) : Bool :=
  match c with
  | 9 => decide (10 ≤ a) && decide (a ≤ 15)
  | 8 => a == 9
  | 2 => a == 0 || a == 1
  | 6 => a == 4 || a == 5
  | 3 => a == 2
  | 7 => a == 6
  | _ => false

/-- A result of integer type modulo 2^w, from the exact value; a value that is no integer has no stated result (R250; log 5). -/
def wrapValue (w free : Nat) (v : Fv) : Nat :=
  match v with
  | .fin neg m e =>
    if 0 ≤ e then ofSigned w (if neg then -((m * 2 ^ e.toNat : Nat) : Int) else ((m * 2 ^ e.toNat : Nat) : Int))
    else if m % 2 ^ (-e).toNat = 0 then
      ofSigned w (if neg then -((m / 2 ^ (-e).toNat : Nat) : Int) else ((m / 2 ^ (-e).toNat : Nat) : Int))
    else Config.freeBits free
  | _ => Config.freeBits free

/-- One element: floats rounded once, integers modulo 2^w. -/
def Madd.elem (q : Madd) (ty fcsr : Nat) (rm : RMode) (free : Nat) (a b c : Fv) : Nat × Nat :=
  let c := if q = Madd.msub then c.neg else c
  match fmtOf ty with
  | some f => f.fmaOp (arith fcsr rm) a b c (decide (q = Madd.nmadd))
  | none =>
    let v := ((a.mul b).1.add c false).1
    (wrapValue (tyWidth ty) free (if q = Madd.nmadd then v.neg else v), 0)

/-- Types of the multiplicands and of the addend: the tags that R249 and R250 give. -/
def maddTags (v : VState) (d : VDst) (a b c : VSrc) (x y z : VArg) : M (Tag × Tag) := do
  let both := x.tag.isNone && y.tag.isNone
  let (t, u) ← tag2 v a x y (some d)
  let tz : Tag := match z.tag with
    | some t => t
    | none => t
  let dt := dstTag v d
  limit v [tyWidth t.ty, tyWidth u.ty, tyWidth tz.ty]
  if z.tag.isNone && !(dt.ty == t.ty && (both || dt.s == t.s)) then
    if u ≠ t then badTag b u else badTag c t
  else if tz.ty = t.ty then
    if !isNum t.ty then badTag a t
    else if u ≠ t then badTag b u
    else if tz ≠ t && !both then badTag c tz
    else return (t, tz)
  else if u ≠ t then badTag b u
  else if !widens t.ty tz.ty then badTag c tz
  else return (t, tz)

/-- VMADD, VMSUB, VNMADD. The widening form reads scaled values; the other reads elements (R243). -/
def vmaddM (q : Madd) (rm : RMode) (d : VDst) (a b c : VSrc) (m : MaskF) : M Unit := do
  let v ← vopen 0x43 [a, b, c] [] (vdst d)
  let k ← me
  let x := readV v k a
  let y := readV v k b
  let z := readV v k c
  let (t, u) ← maddTags v d a b c x y z
  let free ← do
    let s ← get
    set { s with freeN := s.freeN + v.vl }
    pure s.freeN
  let wide := decide (t.ty ≠ u.ty)
  let get (g : VArg) (ty n : Nat) : Fv := if wide then g.scaledValue ty n else g.value ty n
  vdone [a, b, c] d u.ty (formBits v (keptBits v d m.mz) (tyWidth u.ty) (v.active m.me m.mr) fun n =>
    q.elem u.ty k.fcsr rm (free + n) (get x t.ty n) (get y t.ty n) (get z u.ty n))

/-- VMADD (R249, R250). -/
def execVmadd (rm : RMode) (d : VDst) (a b c : VSrc) (m : MaskF) (s : State) : Host.Outcome State Fault Refusal :=
  issue (vmaddM .madd rm d a b c m) s

/-- VMSUB (R249, R250). -/
def execVmsub (rm : RMode) (d : VDst) (a b c : VSrc) (m : MaskF) (s : State) : Host.Outcome State Fault Refusal :=
  issue (vmaddM .msub rm d a b c m) s

/-- VNMADD (R249, R250). -/
def execVnmadd (rm : RMode) (d : VDst) (a b c : VSrc) (m : MaskF) (s : State) : Host.Outcome State Fault Refusal :=
  issue (vmaddM .nmadd rm d a b c m) s

end Sys2Proof.Machine
end

