-- ==== Sys2Proof/Machine/VecMove.lean ====
section
/-! DEFINITION. Vector conversion, quantisation, reductions, permutation, element moves, mask operations and side arrays (R117 to R119, R251 to R260). -/
namespace Sys2Proof.Machine

/-! ### Conversion (R251, R252) -/

/-- One element of VCVT: code, flags, generator after it. DESIGN CHOICE (log 11): a scaled integer source to an integer type is rounded (nearest bound with NV, NX), R115's integer-to-integer point being read of unscaled elements. -/
def cvtElem (t : Tag) (dt : Nat) (mode : RMode) (satn : Bool) (x : VArg) (k seed : Nat) : Nat × Nat × Nat :=
  let isSr := decide (mode = .sr) && narrowing t.ty dt t.s
  if !t.s && isInt t.ty && isInt dt then
    (convInt t.ty dt (x.bits (tyWidth t.ty) k) satn, 0, if isSr then srStep seed else seed)
  else
    let v := x.scaledValue t.ty k
    let seed := if isSr && v.isFin then srStep seed else seed
    let r : Rnd := if isSr then ⟨.sr, seed, x.lsb t.ty k⟩ else .plain mode
    let (c, fl) := putValue dt v r (.convert (satn || dt == 14))
    (c, fl, seed)

/-- VCVT (R251). -/
def execVcvt (dt : BitVec 4) (rm : RMode) (d : VDst) (a : VSrc) (m : MaskF) (s : State) :
    Host.Outcome State Fault Refusal :=
  issue (do
    let v ← vopen 0x47 [a] [] (vdst d)
    let c ← me
    let x := readV v c a
    let t ← tag1 v a x (some d)
    let w := tyWidth dt.toNat
    limit v [tyWidth t.ty, w]
    let act := v.active m.me m.mr
    let kept := keptBits v d m.mz
    if dt.toNat = t.ty && !t.s then vdone [a] d dt.toNat (formBits v kept w act fun k => (x.bits w k, 0))
    else
      let mode := resolveMode c.fcsr rm
      let r := (upTo v.vl).foldl (fun (acc : Nat × Nat × Nat) k =>
        if act k then
          let e := cvtElem t dt.toNat mode (fcsrSatn c.fcsr) x k acc.2.2
          (acc.1 + e.1 % 2 ^ w * 2 ^ (w * k), acc.2.1 ||| e.2.1, e.2.2)
        else (acc.1 + bitsAt kept (w * k) w * 2 ^ (w * k), acc.2.1, acc.2.2)) (0, 0, c.seed)
      updMe fun x => { x with seed := r.2.2 }
      vdone [a] d dt.toNat (r.1, r.2.1)) s

/-- VQNT (R109, R252, R429). -/
def execVqnt (dt : BitVec 4) (rm : RMode) (d : VDst) (a : VSrc) (s : State) : Host.Outcome State Fault Refusal :=
  issue (do
    let v ← vopen 0x48 [a] [] (vdst d)
    let c ← me
    let x := readV v c a
    let t ← tag1 v a x (some d)
    let ty := dt.toNat
    let w := tyWidth ty
    limit v [tyWidth t.ty, w]
    if !(isFlt t.ty && !t.s) then badTag a t
    let mode := resolveMode c.fcsr rm
    let old : KMap Nat := match d with
      | .v n => if (v.getV n.toNat).s then (v.getV n.toNat).sc else []
      | _ => []
    let r := (upTo ((v.vl + 255) / 256)).foldl (fun (acc : Nat × KMap Nat × Nat × Nat) b =>
      let n := min 256 (v.vl - 256 * b)
      let ins : List OqIn := (upTo 256).map fun j =>
        if j < n then (x.value t.ty (256 * b + j), x.lsb t.ty (256 * b + j)) else (.fin false 0 0, 0)
      let (bits, code, fl, seed) :=
        if ty = 15 then oq4Encode ins mode acc.2.2.2 else quantBlock ty ins n mode acc.2.2.2
      let bits := if ty = 15 then bits % 2 ^ (16 * ((n + 3) / 4)) else bits
      (acc.1 + bits * 2 ^ (256 * w * b), KMap.put 127 acc.2.1 b code, acc.2.2.1 ||| fl, seed)) (0, old, 0, c.seed)
    updMe fun x => { x with seed := r.2.2.2 }
    raise r.2.2.1
    popAll [a]
    writeV d ⟨ty, true, r.1, r.2.1⟩
    advance) s

/-! ### Reductions (R117 to R119, R253) -/

/-- One level of the tree of R117: pairs combined, a single present child kept. -/
def treeLevel (op : Nat → Nat → Nat × Nat) : List (Option Nat) → List (Option Nat) × Nat
  | some a :: some b :: r =>
    let c := op a b
    let l := treeLevel op r
    (some c.1 :: l.1, l.2 ||| c.2)
  | some a :: none :: r =>
    let l := treeLevel op r
    (some a :: l.1, l.2)
  | none :: b :: r =>
    let l := treeLevel op r
    (b :: l.1, l.2)
  | l => (l, 0)

/-- The tree of R117 over its leaves: the root, if present, and the flags. -/
def tree (op : Nat → Nat → Nat × Nat) : Nat → List (Option Nat) → Option Nat × Nat
  | 0, l => (l.headD none, 0)
  | n + 1, l =>
    match l with
    | [] => (none, 0)
    | [x] => (x, 0)
    | _ =>
      let a := treeLevel op l
      let b := tree op n a.1
      (b.1, a.2 ||| b.2)

/-- Levels enough for 8,192 leaves. -/
def treeFuel : Nat := 16

/-- The accumulation format of a float type (R118). -/
def accFmt (ty : Nat) : Fmt := if ty = 8 then f64 else f32

/-- An element converted exactly to its accumulation format, or extended to 64 bits (R118). -/
def accLeaf (ty : Nat) (x : VArg) (k : Nat) : Nat × Nat :=
  if isInt ty then ((elemWord ty (x.bits (tyWidth ty) k)).toNat, 0)
  else if ty = 8 || ty = 9 then (x.bits (tyWidth ty) k, 0)
  else f32.put (x.value ty k) (.plain .rne) .ieee

/-- Addition in the accumulation format. -/
def accAdd (ty fcsr : Nat) (rm : RMode) (a b : Nat) : Nat × Nat :=
  if isInt ty then ((a + b) % 2 ^ 64, 0)
  else
    let f := accFmt ty
    f.addOp (arith fcsr rm) (f.read a) (f.read b)

/-- Leaves of active elements, with their flags. -/
def leaves (v : VState) (me : Bool) (mk : BitVec 3) (f : Nat → Nat × Nat) : List (Option Nat) × Nat :=
  let l := (upTo v.vl).map fun k => if v.active me mk k then some (f k) else none
  (l.map fun e => e.map fun r => r.1, l.foldl (fun n e => n ||| (e.getD (0, 0)).2) 0)

/-- The kinds of VRED. -/
inductive Red | sum | max | min | and | or
  deriving DecidableEq, Repr

/-- The types that a kind accepts (R243). -/
def Red.ok : Red → Nat → Bool
  | .sum, ty | .max, ty | .min, ty => isNum ty
  | .and, ty | .or, ty => isInt ty

/-- A leaf of a kind. -/
def Red.leaf (q : Red) (ty : Nat) (x : VArg) (k : Nat) : Nat × Nat :=
  if q = Red.sum then accLeaf ty x k else (x.bits (tyWidth ty) k, 0)

/-- A node of a kind. -/
def Red.node (q : Red) (ty fcsr : Nat) (rm : RMode) (a b : Nat) : Nat × Nat :=
  match q with
  | .sum => accAdd ty fcsr rm a b
  | .max | .min =>
    match fmtOf ty with
    | some f => f.minmax (decide (q = Red.max)) a b
    | none => (intPick (decide (q = Red.max)) (tySigned ty) (tyWidth ty) a b, 0)
  | .and => (a &&& b, 0)
  | .or => (a ||| b, 0)

/-- The identity of a kind at the source width, or in the accumulation format (R117). -/
def Red.identity (q : Red) (ty : Nat) : Nat :=
  let w := tyWidth ty
  match q with
  | .sum | .or => 0
  | .and => 2 ^ w - 1
  | .max =>
    match fmtOf ty with
    | some f => f.signed true f.infCode
    | none => ofSigned w (intLo (tySigned ty) w)
  | .min =>
    match fmtOf ty with
    | some f => f.infCode
    | none => ofSigned w (intHi (tySigned ty) w)

/-- The scalar of a kind's root. -/
def Red.word (q : Red) (ty v : Nat) : Word :=
  match q with
  | .max | .min => elemWord ty v
  | _ => wd v

/-- VRED (R253). -/
def vred (q : Red) (rm : RMode) (d : Reg) (a : VSrc) (me' : Bool) (mk : BitVec 3) : M Unit := do
  let v ← vopen 0x49 [a] [] [.x d.toNat false]
  let c ← me
  let x := readV v c a
  limit v (argWidths [x])
  let t ← tag1 v a x none
  if !q.ok t.ty then badTag a t
  let l := leaves v me' mk (q.leaf t.ty x)
  let r := tree (q.node t.ty c.fcsr rm) treeFuel l.1
  vscalar [a] d (q.word t.ty (r.1.getD (q.identity t.ty)), l.2 ||| r.2)

/-- VRED.SUM (R253). -/
def execVredSum (rm : RMode) (d : Reg) (a : VSrc) (me : Bool) (mk : BitVec 3) (s : State) :
    Host.Outcome State Fault Refusal := issue (vred .sum rm d a me mk) s
/-- VRED.MAX (R253). -/
def execVredMax (rm : RMode) (d : Reg) (a : VSrc) (me : Bool) (mk : BitVec 3) (s : State) :
    Host.Outcome State Fault Refusal := issue (vred .max rm d a me mk) s
/-- VRED.MIN (R253). -/
def execVredMin (rm : RMode) (d : Reg) (a : VSrc) (me : Bool) (mk : BitVec 3) (s : State) :
    Host.Outcome State Fault Refusal := issue (vred .min rm d a me mk) s
/-- VRED.AND (R253). -/
def execVredAnd (rm : RMode) (d : Reg) (a : VSrc) (me : Bool) (mk : BitVec 3) (s : State) :
    Host.Outcome State Fault Refusal := issue (vred .and rm d a me mk) s
/-- VRED.OR (R253). -/
def execVredOr (rm : RMode) (d : Reg) (a : VSrc) (me : Bool) (mk : BitVec 3) (s : State) :
    Host.Outcome State Fault Refusal := issue (vred .or rm d a me mk) s

/-- A block's sum times its scale, in F32 (R119). -/
def blockValue (code sum : Nat) : Nat × Nat :=
  if code = 255 then (f32.qnan, 0) else f32.put ((f32.read sum).scale ((code : Int) - 127)) (.plain .rne) .ieee

/-- VREDS (R119, R253). -/
def execVreds (rm : RMode) (d : Reg) (a : VSrc) (me' : Bool) (mk : BitVec 3) (s : State) :
    Host.Outcome State Fault Refusal :=
  issue (do
    let v ← vopen 0x4A [a] [] [.x d.toNat false]
    let c ← me
    let x := readV v c a
    limit v (argWidths [x])
    let t ← tag1 v a x none
    if !(10 ≤ t.ty && t.s) then badTag a t
    let add := accAdd 9 c.fcsr rm
    let blocks := (upTo ((v.vl + 255) / 256)).map fun b =>
      let l := (upTo (min 256 (v.vl - 256 * b))).map fun j =>
        if v.active me' mk (256 * b + j) then some (accLeaf t.ty x (256 * b + j)) else none
      let fl := l.foldl (fun n e => n ||| (e.getD (0, 0)).2) 0
      let r := tree add treeFuel (l.map fun e => e.map fun r => r.1)
      match r.1 with
      | none => (none, fl ||| r.2)
      | some n =>
        let k := blockValue (x.scale (256 * b)) n
        (some k.1, fl ||| r.2 ||| k.2)
    let fl := blocks.foldl (fun n e => n ||| e.2) 0
    let r := tree add treeFuel (blocks.map fun e => e.1)
    vscalar [a] d (wd (r.1.getD 0), fl ||| r.2)) s

/-- A product of VDOT in the accumulation format: rounded once, or an integer modulo 2^64. A product of scaled integers that is a NaN has no stated integer (log 5). -/
def dotLeaf (ty fcsr : Nat) (rm : RMode) (free : Nat) (x y : VArg) (k : Nat) : Nat × Nat :=
  let p := (x.scaledValue ty k).mul (y.scaledValue ty k)
  if isInt ty then
    match p.1 with
    | .fin neg m e =>
      let i := (roundAt neg m e 0 false (arith fcsr rm)).1
      (ofSigned 64 (if neg then -(i : Int) else i), 0)
    | _ => (Config.freeBits free % 2 ^ 64, 0)
  else
    let f := accFmt ty
    let r := f.put p.1 (arith fcsr rm) .ieee
    (r.1, p.2 ||| r.2)

/-- VDOT (R117, R118, R253). -/
def execVdot (rm : RMode) (d : Reg) (a b : VSrc) (me' : Bool) (mk : BitVec 3) (s : State) :
    Host.Outcome State Fault Refusal :=
  issue (do
    let v ← vopen 0x4B [a, b] [] [.x d.toNat false]
    let c ← me
    let x := readV v c a
    let y := readV v c b
    limit v (argWidths [x, y])
    let (t, u) ← tag2 v a x y none
    accept2 a b t u fun _ => true
    let free := (← get).freeN
    upd fun s => { s with freeN := s.freeN + v.vl }
    let l := leaves v me' mk fun k => dotLeaf t.ty c.fcsr rm (free + k) x y k
    let r := tree (accAdd t.ty c.fcsr rm) treeFuel l.1
    vscalar [a, b] d (wd (r.1.getD 0), l.2 ||| r.2)) s

/-! ### Permutation and element moves (R254 to R258) -/

/-- VPERM (R254). -/
def execVperm (d : VDst) (a b : VSrc) (m : MaskF) (s : State) : Host.Outcome State Fault Refusal :=
  issue (do
    let v ← vopen 0x4C [a, b] [] (vdst d)
    let c ← me
    let x := readV v c a
    let y := readV v c b
    let (t, u) ← tag2 v a x y (some d)
    limit v [tyWidth t.ty, tyWidth u.ty]
    if !isNum t.ty then badTag a t
    if !(4 ≤ u.ty && u.ty < 8) then badTag b u
    let w := tyWidth t.ty
    vdone [a, b] d t.ty (formBits v (keptBits v d m.mz) w (v.active m.me m.mr) fun k =>
      let i := y.bits (tyWidth u.ty) k
      (if i < v.vl then x.bits w i else 0, 0))) s

/-- VSLIDE in one direction (R255): `pick n k` is the source element of element `k`. -/
def vslide (d : VDst) (a : VSrc) (n : Src) (m : MaskF) (pick : Nat → Nat → Nat → Option Nat) : M Unit := do
  let v ← vopen 0x4D [a] [srcX n] (vdst d)
  let c ← me
  let x := readV v c a
  let t ← tag1 v a x (some d)
  limit v [tyWidth t.ty]
  if !isNum t.ty then badTag a t
  let w := tyWidth t.ty
  let by' := (c.getX n.r.toNat).toNat
  vdone [a] d t.ty (formBits v (keptBits v d m.mz) w (v.active m.me m.mr) fun k =>
    match pick v.vl by' k with
    | some j => (x.bits w j, 0)
    | none => (0, 0))

/-- VSLIDE.UP (R255). -/
def execVslideUp (d : VDst) (a : VSrc) (n : Src) (m : MaskF) (s : State) : Host.Outcome State Fault Refusal :=
  issue (vslide d a n m fun _ n k => if n ≤ k then some (k - n) else none) s

/-- VSLIDE.DN (R255). -/
def execVslideDn (d : VDst) (a : VSrc) (n : Src) (m : MaskF) (s : State) : Host.Outcome State Fault Refusal :=
  issue (vslide d a n m fun vl n k => if k + n < vl then some (k + n) else none) s

/-- VEXT (R256). -/
def execVext (d : Reg) (a : VSrc) (i : Src) (s : State) : Host.Outcome State Fault Refusal :=
  issue (do
    let v ← vopen 0x4E [a] [srcX i] [.x d.toNat false]
    let c ← me
    let x := readV v c a
    limit v (argWidths [x])
    let t ← tag1 v a x none
    if !isNum t.ty then badTag a t
    let n := (c.getX i.r.toNat).toNat
    vscalar [a] d (if n < v.vl then elemWord t.ty (x.bits (tyWidth t.ty) n) else 0, 0)) s

/-- VINS (R256). -/
def execVins (d : VDst) (a : VSrc) (e i : Src) (s : State) : Host.Outcome State Fault Refusal :=
  issue (do
    let v ← vopen 0x4E [a] [srcX e, srcX i] (vdst d)
    let c ← me
    let x := readV v c a
    let t ← tag1 v a x (some d)
    limit v [tyWidth t.ty]
    if !isNum t.ty then badTag a t
    let w := tyWidth t.ty
    let n := (c.getX i.r.toNat).toNat
    vdone [a] d t.ty (formBits v 0 w (fun _ => true) fun k =>
      (if k = n then (c.getX e.r.toNat).toNat % 2 ^ w else x.bits w k, 0))) s

/-- VBCAST (R257). -/
def execVbcast (vd : BitVec 5) (a : VSrc) (me' : Bool) (mk : BitVec 3) (s : State) : Host.Outcome State Fault Refusal :=
  issue (do
    let d : VDst := .v vd
    let v ← vopen 0x4F [a] [] (vdst d)
    let c ← me
    let x := readV v c a
    let t := dstTag v d
    limit v (tyWidth t.ty :: argWidths [x])
    match x.tag with
    | some u => if !isNum u.ty || u ≠ t then badTag a u
    | none => pure ()
    trapIf (!isNum t.ty) Cause.tag (tagVal 0x3F t)
    let w := tyWidth t.ty
    vdone [a] d t.ty (formBits v (keptBits v d false) w (v.active me' mk) fun _ => (x.bits w 0, 0))) s

/-- Active elements below `k`. -/
def VState.below (v : VState) (me : Bool) (mk : BitVec 3) (k : Nat) : Nat := ((upTo k).filter (v.active me mk)).length

/-- VIOTA (R257). -/
def execViota (vd : BitVec 5) (me' : Bool) (mk : BitVec 3) (s : State) : Host.Outcome State Fault Refusal :=
  issue (do
    let d : VDst := .v vd
    let v ← vopen 0x4F [] [] (vdst d)
    let t := dstTag v d
    let w := tyWidth t.ty
    limit v [w]
    trapIf (!isInt t.ty) Cause.tag (tagVal 0x3F t)
    vdone [] d t.ty (formBits v 0 w (fun _ => true) fun k => (v.below me' mk k, 0))) s

/-- VCOMPRESS and VEXPAND: the source element of element `k` (R258). -/
def vpack (d : VDst) (a : VSrc) (pick : VState → Nat → Option Nat) : M Unit := do
  let v ← vopen 0x52 [a] [] (vdst d)
  let c ← me
  let x := readV v c a
  let t ← tag1 v a x (some d)
  limit v [tyWidth t.ty]
  if !isNum t.ty then badTag a t
  let w := tyWidth t.ty
  vdone [a] d t.ty (formBits v 0 w (fun _ => true) fun k =>
    match pick v k with
    | some j => (x.bits w j, 0)
    | none => (0, 0))

/-- VCOMPRESS (R258). -/
def execVcompress (d : VDst) (a : VSrc) (me : Bool) (mk : BitVec 3) (s : State) : Host.Outcome State Fault Refusal :=
  issue (vpack d a fun v k => ((upTo v.vl).filter (v.active me mk))[k]?) s

/-- VEXPAND (R258). -/
def execVexpand (d : VDst) (a : VSrc) (me : Bool) (mk : BitVec 3) (s : State) : Host.Outcome State Fault Refusal :=
  issue (vpack d a fun v k => if v.active me mk k then some (v.below me mk k) else none) s

/-! ### Masks (R259) -/

/-- A mask operation on bits below VL. -/
def maskOp (md : BitVec 3) (m : MaskF) (more : List Opd) (bit : VState → Ctx → Nat → Bool) : M Unit := do
  let _ ← vopen 0x50 [] more []
  updMe fun x => x.updV fun v => v.setMask md.toNat m (bit v x)
  advance

/-- MAND (R259). -/
def execMand (md ma mb : BitVec 3) (m : MaskF) (s : State) : Host.Outcome State Fault Refusal :=
  issue (maskOp md m [] fun v _ k => v.maskBit ma.toNat k && v.maskBit mb.toNat k) s
/-- MOR (R259). -/
def execMor (md ma mb : BitVec 3) (m : MaskF) (s : State) : Host.Outcome State Fault Refusal :=
  issue (maskOp md m [] fun v _ k => v.maskBit ma.toNat k || v.maskBit mb.toNat k) s
/-- MXOR (R259). -/
def execMxor (md ma mb : BitVec 3) (m : MaskF) (s : State) : Host.Outcome State Fault Refusal :=
  issue (maskOp md m [] fun v _ k => v.maskBit ma.toNat k != v.maskBit mb.toNat k) s
/-- MNOT (R259). -/
def execMnot (md ma : BitVec 3) (m : MaskF) (s : State) : Host.Outcome State Fault Refusal :=
  issue (maskOp md m [] fun v _ k => !v.maskBit ma.toNat k) s
/-- MSET (R259). -/
def execMset (md : BitVec 3) (x : Src) (m : MaskF) (s : State) : Host.Outcome State Fault Refusal :=
  issue (maskOp md m [srcX x] fun _ c k => decide (k < (c.getX x.r.toNat).toNat)) s

/-- The active elements below VL whose bit of a mask is set. -/
def VState.setBits (v : VState) (me : Bool) (mk ma : BitVec 3) : List Nat :=
  (upTo v.vl).filter fun k => v.active me mk k && v.maskBit ma.toNat k

/-- MPOP (R259). -/
def execMpop (d : Reg) (ma : BitVec 3) (me : Bool) (mk : BitVec 3) (s : State) : Host.Outcome State Fault Refusal :=
  issue (do
    let v ← vopen 0x50 [] [] [.x d.toNat false]
    vscalar [] d (wd (v.setBits me mk ma).length, 0)) s

/-- MFIRST (R259). -/
def execMfirst (d : Reg) (ma : BitVec 3) (me : Bool) (mk : BitVec 3) (s : State) : Host.Outcome State Fault Refusal :=
  issue (do
    let v ← vopen 0x50 [] [] [.x d.toNat false]
    vscalar [] d (match (v.setBits me mk ma).head? with
      | some k => wd k
      | none => BitVec.allOnes 64, 0)) s

/-! ### Side arrays (R260) -/

/-- VSCGET (R260). -/
def execVscget (d : VDst) (va : BitVec 5) (fa : Bool) (s : State) : Host.Outcome State Fault Refusal :=
  issue (do
    let a : VSrc := ⟨.v va, fa⟩
    let v ← vopen 0x51 [a] [] (vdst d)
    let r := v.getV va.toNat
    limit v [tyWidth r.ty, 8]
    let bits := (upTo 32).foldl (fun n b => n + (if r.s then KMap.find 127 r.sc b else 127) * 256 ^ b) 0
    vdone [] d 4 (bits, 0)) s

/-- VSCSET (R260). -/
def execVscset (vd va : BitVec 5) (fa : Bool) (s : State) : Host.Outcome State Fault Refusal :=
  issue (do
    let a : VSrc := ⟨.v va, fa⟩
    let v ← vopen 0x51 [a] [] [.v vd.toNat false]
    let r := v.getV va.toNat
    let t := v.getV vd.toNat
    limit v [tyWidth r.ty, tyWidth t.ty]
    if r.ty ≠ 4 then badTag a ⟨r.ty, r.s⟩
    let sc := (upTo 32).foldl (fun (m : KMap Nat) b => KMap.put 127 m b (bitsAt r.bits (8 * b) 8)) []
    updMe fun x => x.updV fun v => v.setV vd.toNat { t with s := true, sc := sc }
    advance) s

end Sys2Proof.Machine
end

