-- ==== Sys2Proof/Machine/Encoded.lean ====
section
/-! DEFINITION. The meanings of the encoded instructions, for the units that look at what a context would issue next (R52). -/
namespace Sys2Proof.Machine

/-- What an encoded instruction does; an event is no instruction of a line. -/
def encoded (i : Instr) (s : State) : Host.Outcome State Fault Refusal :=
  match i with
  | .nop => execNop s
  | .br imm => execBr imm s
  | .call imm => execCall imm s
  | .jr a => execJr a s
  | .callr a => execCallr a s
  | .ret => execRet s
  | .bccEq a b imm => execBccEq a b imm s
  | .bccNe a b imm => execBccNe a b imm s
  | .bccLt a b imm => execBccLt a b imm s
  | .bccGe a b imm => execBccGe a b imm s
  | .bccLtn a b imm => execBccLtn a b imm s
  | .bccGen a b imm => execBccGen a b imm s
  | .bz a imm => execBz a imm s
  | .bnz a imm => execBnz a imm s
  | .trap imm => execTrap imm s
  | .brk imm => execBrk imm s
  | .tret => execTret s
  | .sysr d n => execSysr d n s
  | .sysw n a => execSysw n a s
  | .halt => execHalt s
  | .ifence => execIfence s
  | .add d a b => execAdd d a b s
  | .sub d a b => execSub d a b s
  | .and d a b => execAnd d a b s
  | .or d a b => execOr d a b s
  | .xor d a b => execXor d a b s
  | .andn d a b => execAndn d a b s
  | .shl d a b => execShl d a b s
  | .shr d a b => execShr d a b s
  | .shra d a b => execShra d a b s
  | .min d a b => execMin d a b s
  | .max d a b => execMax d a b s
  | .minn d a b => execMinn d a b s
  | .maxn d a b => execMaxn d a b s
  | .slt d a b => execSlt d a b s
  | .sltn d a b => execSltn d a b s
  | .seq d a b => execSeq d a b s
  | .mul d a b => execMul d a b s
  | .mulh d a b => execMulh d a b s
  | .mulhn d a b => execMulhn d a b s
  | .div d a b => execDiv d a b s
  | .divn d a b => execDivn d a b s
  | .rem d a b => execRem d a b s
  | .remn d a b => execRemn d a b s
  | .clz d a => execClz d a s
  | .ctz d a => execCtz d a s
  | .popc d a => execPopc d a s
  | .brev d a => execBrev d a s
  | .bswap d a => execBswap d a s
  | .sext w d a => execSext w d a s
  | .addi d a imm => execAddi d a imm s
  | .andi d a imm => execAndi d a imm s
  | .ori d a imm => execOri d a imm s
  | .xori d a imm => execXori d a imm s
  | .shli d a sh => execShli d a sh s
  | .shri d a sh => execShri d a sh s
  | .shrai d a sh => execShrai d a sh s
  | .slti d a imm => execSlti d a imm s
  | .sltni d a imm => execSltni d a imm s
  | .li d imm => execLi d imm s
  | .lea k d a imm => execLea k d a imm s
  | .addpc d imm => execAddpc d imm s
  | .sel d a b c => execSel d a b c s
  | .fadd t rm d a b => execFadd t rm d a b s
  | .fsub t rm d a b => execFsub t rm d a b s
  | .fmul t rm d a b => execFmul t rm d a b s
  | .fdiv t rm d a b => execFdiv t rm d a b s
  | .fmin t d a b => execFmin t d a b s
  | .fmax t d a b => execFmax t d a b s
  | .fsqrt t rm d a => execFsqrt t rm d a s
  | .fsgnj t d a b => execFsgnj t d a b s
  | .fsgnjn t d a b => execFsgnjn t d a b s
  | .fsgnjx t d a b => execFsgnjx t d a b s
  | .feq t d a b => execFeq t d a b s
  | .flt t d a b => execFlt t d a b s
  | .fle t d a b => execFle t d a b s
  | .fclass t d a => execFclass t d a s
  | .fmadd t rm d a b c => execFmadd t rm d a b c s
  | .fmsub t rm d a b c => execFmsub t rm d a b c s
  | .fnmadd t rm d a b c => execFnmadd t rm d a b c s
  | .fcvt dt st rm d a => execFcvt dt st rm d a s
  | .ld z d a off => execLd z d a off s
  | .st z a off x => execSt z a off x s
  | .lda z sc d a off => execLda z sc d a off s
  | .strel z sc a off x => execStrel z sc a off x s
  | .amoadd w o d a off b => execAmoadd w o d a off b s
  | .amoand w o d a off b => execAmoand w o d a off b s
  | .amoor w o d a off b => execAmoor w o d a off b s
  | .amoxor w o d a off b => execAmoxor w o d a off b s
  | .amomin w o d a off b => execAmomin w o d a off b s
  | .amomax w o d a off b => execAmomax w o d a off b s
  | .amominn w o d a off b => execAmominn w o d a off b s
  | .amomaxn w o d a off b => execAmomaxn w o d a off b s
  | .amoswap w o d a off b => execAmoswap w o d a off b s
  | .amocas w o d a off b c => execAmocas w o d a off b c s
  | .amofadd w o d a off b => execAmofadd w o d a off b s
  | .qacq sc d a off => execQacq sc d a off s
  | .qrel sc d a off => execQrel sc d a off s
  | .qtry sc d a off => execQtry sc d a off s
  | .vlock sc d a off => execVlock sc d a off s
  | .vunlock sc d a off => execVunlock sc d a off s
  | .waitvAny d sa me mk => execWaitvAny d sa me mk s
  | .waitvAll d sa me mk => execWaitvAll d sa me mk s
  | .wmbind n sc a b h => execWmbind n sc a b h s
  | .wmadv sc a off x => execWmadv sc a off x s
  | .acq sc n => execAcq sc n s
  | .rel sc n => execRel sc n s
  | .acqrel sc n => execAcqrel sc n s
  | .fence => execFence s
  | .rgninv sc n => execRgninv sc n s
  | .rgnwb n => execRgnwb n s
  | .scrub a off x => execScrub a off x s
  | .vcfg ty k0 vd => execVcfg ty k0 vd s
  | .setvl w g d a => execSetvl w g d a s
  | .setvlFree d => execSetvlFree d s
  | .vadd d a b m => execVadd d a b m s
  | .vsub d a b m => execVsub d a b m s
  | .vmul d a b m => execVmul d a b m s
  | .vdiv d a b m => execVdiv d a b m s
  | .vmin d a b m => execVmin d a b m s
  | .vmax d a b m => execVmax d a b m s
  | .vand d a b m => execVand d a b m s
  | .vor d a b m => execVor d a b m s
  | .vxor d a b m => execVxor d a b m s
  | .vshl d a b m => execVshl d a b m s
  | .vshr d a b m => execVshr d a b m s
  | .vshra d a b m => execVshra d a b m s
  | .vsadd d a b m => execVsadd d a b m s
  | .vssub d a b m => execVssub d a b m s
  | .vmulh d a b m => execVmulh d a b m s
  | .vmadd rm d a b c m => execVmadd rm d a b c m s
  | .vmsub rm d a b c m => execVmsub rm d a b c m s
  | .vnmadd rm d a b c m => execVnmadd rm d a b c m s
  | .vneg d a m => execVneg d a m s
  | .vabs d a m => execVabs d a m s
  | .vsqrt d a m => execVsqrt d a m s
  | .vrcp d a m => execVrcp d a m s
  | .vrsq d a m => execVrsq d a m s
  | .vexp2 d a m => execVexp2 d a m s
  | .vlog2 d a m => execVlog2 d a m s
  | .vnot d a m => execVnot d a m s
  | .vclz d a m => execVclz d a m s
  | .vpopc d a m => execVpopc d a m s
  | .vcmpEq md a b m => execVcmpEq md a b m s
  | .vcmpNe md a b m => execVcmpNe md a b m s
  | .vcmpLt md a b m => execVcmpLt md a b m s
  | .vcmpLe md a b m => execVcmpLe md a b m s
  | .vsel d a b mk => execVsel d a b mk s
  | .vcvt dt rm d a m => execVcvt dt rm d a m s
  | .vqnt dt rm d a => execVqnt dt rm d a s
  | .vredSum rm d a me mk => execVredSum rm d a me mk s
  | .vredMax rm d a me mk => execVredMax rm d a me mk s
  | .vredMin rm d a me mk => execVredMin rm d a me mk s
  | .vredAnd rm d a me mk => execVredAnd rm d a me mk s
  | .vredOr rm d a me mk => execVredOr rm d a me mk s
  | .vreds rm d a me mk => execVreds rm d a me mk s
  | .vdot rm d a b me mk => execVdot rm d a b me mk s
  | .vperm d a b m => execVperm d a b m s
  | .vslideUp d a n m => execVslideUp d a n m s
  | .vslideDn d a n m => execVslideDn d a n m s
  | .vext d a ix => execVext d a ix s
  | .vins d a x ix => execVins d a x ix s
  | .vbcast vd a me mk => execVbcast vd a me mk s
  | .viota vd me mk => execViota vd me mk s
  | .mand md ma mb m => execMand md ma mb m s
  | .mor md ma mb m => execMor md ma mb m s
  | .mxor md ma mb m => execMxor md ma mb m s
  | .mnot md ma m => execMnot md ma m s
  | .mpop d ma me mk => execMpop d ma me mk s
  | .mfirst d ma me mk => execMfirst d ma me mk s
  | .mset md x m => execMset md x m s
  | .vscget d va fa => execVscget d va fa s
  | .vscset vd va fa => execVscset vd va fa s
  | .vcompress d a me mk => execVcompress d a me mk s
  | .vexpand d a me mk => execVexpand d a me mk s
  | .vld ty d a imm m wm => execVld ty d a imm m wm s
  | .vlds ty d a imm x m wm => execVlds ty d a imm x m wm s
  | .vldff ty d a imm m wm => execVldff ty d a imm m wm s
  | .vst a imm b m => execVst a imm b m s
  | .vsts a imm b x m => execVsts a imm b x m s
  | .vldx wc d a imm b m wm => execVldx wc d a imm b m wm s
  | .vstx a imm b idx m => execVstx a imm b idx m s
  | .vldt d vb fb me mk wm => execVldt d vb fb me mk wm s
  | .vstt b shape m => execVstt b shape m s
  | .mlease k => execMlease k s
  | .mfree => execMfree s
  | .slclaim a b => execSlclaim a b s
  | .slfree a b => execSlfree a b s
  | .slloadRow fmt slot a imm b c => execSlloadRow fmt slot a imm b c s
  | .slloadCol fmt slot a imm b c => execSlloadCol fmt slot a imm b c s
  | .slloadScale slot a imm => execSlloadScale slot a imm s
  | .mop t sa sb fa fb k => execMop t sa sb fa fb k s
  | .mops t sa sb fa fb => execMops t sa sb fa fb s
  | .aclaim i32 t => execAclaim i32 t s
  | .afree t => execAfree t s
  | .mzero t => execMzero t s
  | .mrd d a me mk => execMrd d a me mk s
  | .mwr a vs me mk => execMwr a vs me mk s
  | .mst t a imm b c => execMst t a imm b c s
  | .msync => execMsync s
  | .ferry q => execFerry q s
  | .ferrynb d q => execFerrynb d q s
  | .lwinit d a imm b => execLwinit d a imm b s
  | .lwwait sc d a imm b => execLwwait sc d a imm b s
  | .lwread d a imm => execLwread d a imm s
  | .fjoin sc d a => execFjoin sc d a s
  | .fcpoll sc q a imm => execFcpoll sc q a imm s
  | .spawn d a b c => execSpawn d a b c s
  | .exit => execExit s
  | .yield => execYield s
  | .join d a imm => execJoin d a imm s
  | .leave sc d a imm => execLeave sc d a imm s
  | .gbar sc d a imm => execGbar sc d a imm s
  | .send rep sc q b => execSend rep sc q b s
  | .sendnb rep sc d q b => execSendnb rep sc d q b s
  | .hret => execHret s
  | .hmask d a => execHmask d a s
  | .hunmask d a => execHunmask d a s
  | .tspawn a imm => execTspawn a imm s
  | .grant q => execGrant q s
  | .watch once n d q => execWatch once n d q s
  | .unwatch d a => execUnwatch d a s
  | .getid k d => execGetid k d s
  | .cbopen d a => execCbopen d a s
  | .cbpost q => execCbpost q s
  | .cbtake d h => execCbtake d h s
  | .cbtakev vd h => execCbtakev vd h s
  | .cbdone a h me mk => execCbdone a h me mk s
  | .cbclose h => execCbclose h s
  | .compose nowait four d => execCompose nowait four d s
  | .decomp d => execDecomp d s
  | .erginfo d => execErginfo d s
  | _ => .next s

end Sys2Proof.Machine
end

