-- ==== Sys2Proof/Machine/Saves.lean ====
section
/-! DEFINITION. Saving a preempted thread and bringing it back (R72 to R74, R329, R343 to R345, R367, R371, R373, R421). -/
namespace Sys2Proof.Machine

/-! ### The save slot (R74) -/

/-- Bytes of a save slot. -/
def slotBytes : Nat := 0x60000

/-- A tag as a byte: type and S. -/
def tagByte (r : VReg) : Nat := r.ty + (if r.s then 16 else 0)

/-- Rows that a register's data takes in a slot. -/
def slotRows (g vl : Nat) (r : VReg) : Nat := min g ((vl * tyWidth r.ty + 2047) / 2048)

/-- A watermark binding as its 32 bytes. -/
def Wm.image (w : Wm) : Nat :=
  w.addr % 2 ^ 64 + w.base % 2 ^ 64 * 2 ^ 64 +
    (w.shift % 64 + w.scope.code * 64 + (if w.bound then 256 else 0)) * 2 ^ 128

/-- The operands with rows, in the order of R74: registers, queue entries, the last results that were produced. -/
def VState.rowed (v : VState) : List VReg :=
  ((upTo 32).map fun n => v.getV n) ++ ((upTo 4).flatMap fun n => (v.queue n).map fun e => e.r) ++
    (if 1 ≤ v.used then [v.l0.r] else []) ++ (if 2 ≤ v.used then [v.l1.r] else [])

/-- Numbers laid one after another, each of `w` bits. -/
def layOut (w : Nat) (l : List Nat) : Nat := l.foldr (fun a n => a % 2 ^ w + n * 2 ^ w) 0

/-- The packed rows of some operands from an offset: offset, length and value of each. -/
def rowImages (g vl : Nat) : Nat → List VReg → List (Nat × Nat × Nat) × Nat
  | o, [] => ([], o)
  | o, r :: l =>
    let n := 256 * slotRows g vl r
    let rest := rowImages g vl (o + n) l
    ((o, n, r.bits % 2 ^ (8 * n)) :: rest.1, rest.2)

/-- The scale arrays of some operands from an offset, each padded to 8 bytes. -/
def scaleImages (vl : Nat) : Nat → List VReg → List (Nat × Nat × Nat) × Nat
  | o, [] => ([], o)
  | o, r :: l =>
    if r.s then
      let n := (vl + 255) / 256
      let k := (n + 7) / 8 * 8
      let rest := scaleImages vl (o + k) l
      ((o, k, layOut 8 ((upTo n).map fun b => KMap.find 127 r.sc b)) :: rest.1, rest.2)
    else scaleImages vl o l

/-- The first 0x200 bytes and the masks of a slot; a mask is kept up to VLMAX(8) of the saved grant, for a core with `lanes` lanes. -/
def Ctx.slotHead (x : Ctx) (berth lanes : Nat) : List (Nat × Nat × Nat) :=
  let g := match x.vs with
    | some v => log2G v.g
    | none => 0
  let v := x.vs.getD (VState.init 1 0)
  let w0 := x.tid % 2 ^ 13 + berth * 2 ^ 13 + (if x.vs.isSome then 2 ^ 16 else 0) + g * 2 ^ 17 + (if x.fbad then 2 ^ 20 else 0)
  [(0, 8, w0), (8, 8, x.pc), (0x10, 8, statusOf ⟨0, berth⟩ x), (0x18, 8, x.fcsr), (0x20, 8, x.seed),
   (0x28, 8, if x.vs.isSome then v.vl else 0), (0x30, 8, 2 ^ 16 - 1), (0x38, 8, 2 ^ 32 - 1),
   (0x40, 128, layOut 64 ((upTo 16).map fun r => (x.getX r).toNat)),
   (0xC0, 32, layOut 8 ((upTo 32).map fun n => tagByte (v.getV n))),
   (0xE0, 4, layOut 8 ((upTo 4).map fun n => tagByte (((v.queue n).headD QEnt.zero).r))),
   (0xE4, 2, layOut 8 [tagByte v.l0.r, tagByte v.l1.r]),
   (0xE6, 4, layOut 8 ((upTo 4).map fun n => (v.queue n).length)), (0xEA, 22, 0),
   (0x100, 128, layOut 256 ((upTo 4).map fun n => (KMap.find Wm.none v.w n).image)), (0x180, 128, 0),
   (0x200, 7168, layOut 8192 ((upTo 7).map fun n => KMap.find 0 v.m (n + 1) % 2 ^ vlmax v.g lanes 8))]

/-- Everything that a save writes: offset, length, value (R74). -/
def Ctx.slotImage (x : Ctx) (berth lanes : Nat) : List (Nat × Nat × Nat) :=
  match x.vs with
  | none => x.slotHead berth lanes
  | some v =>
    let rows := rowImages v.g v.vl 0x2000 v.rowed
    x.slotHead berth lanes ++ rows.1 ++ (scaleImages v.vl rows.2 v.rowed).1

/-- The physical address of a save slot: one of the module's own package is its class-000 address (R74, R124). -/
def State.slotAt (s : State) (core slot : Nat) : Nat := s.ownPa ((s.coreAt core).saveBase + slot * slotBytes)

/-- Does the whole slot exist (R123)? -/
def State.slotExists (s : State) (pa : Nat) : Bool := s.exists pa && s.exists (pa + slotBytes - 1)

/-- Write a slot at its home as uncached physical accesses (R74); where the address does not exist, nothing is written. -/
def State.writeSlot (s : State) (core pa : Nat) (l : List (Nat × Nat × Nat)) : State :=
  if s.slotExists pa then l.foldl (fun (s : State) e => (s.unitPut core (pa + e.1) e.2.1 e.2.2).2) s else s

/-- How a slot reads back: as it was written; with an uncorrectable error or poison in it; or so that PC and STATUS are lost (R421). -/
inductive SlotRead | good | bad | lost
  deriving DecidableEq, Repr

/-- Read a slot (R73, R392, R421); how a peer module's slot reads is as its home answers (log 5). -/
def State.readSlot (s : State) (core pa : Nat) (l : List (Nat × Nat × Nat)) : SlotRead × State :=
  let s := if s.slotExists pa then l.foldl (fun (s : State) e => s.reach core (pa + e.1) e.2.1) s else s
  if !s.slotExists pa || (paClass pa = 3 && s.cxlDown) then (.lost, s)
  else if paClass pa = 2 then
    match s.peerFree with
    | (.ok _, s) => (.good, s)
    | (.error c, s) => (if c = Cause.regEmpty then .lost else .bad, s)
  else
    let r := if (s.poisonIn pa 0x18).isSome then .lost
      else if l.any fun e => (s.poisonIn (pa + e.1) e.2.1).isSome then .bad else .good
    (r, l.foldl (fun (s : State) e => s.metBytes (pa + e.1) e.2.1) s)

/-! ### Victims (R72) -/

/-- Does a request to a peer wait at a lock or a group record there (R33, R229)? -/
def peerQueues : PeerOp → Bool
  | .qacq _ _ _ => true
  | .group k _ => k != 1
  | _ => false

/-- Is the thread in no wait, or in one that is restartable (R72)? GBAR, JOIN, QACQ, VLOCK and COMPOSE are not. -/
def Ctx.restartable (x : Ctx) : Bool :=
  match x.wait with
  | some (.lock _) | some (.group _) | some .compose => false
  | some .peer => !x.asks.any fun a => a.ans.isNone && peerQueues a.op
  | _ => true

/-- Has the instruction already done what it cannot do again: its wait has ended, or it has asked a peer for more than data? It then completes before the thread stops (R73). -/
def Ctx.midway (x : Ctx) : Bool :=
  (x.asks.any fun a => match a.op with
    | .read _ _ => false
    | _ => true) ||
    x.token.isSome && match x.wait with
      | some (.writeBlock _ _ _) => false
      | _ => true

/-- The free save slot of a core that a save takes (R73). DESIGN CHOICE (log 13): the lowest-numbered one. -/
def State.saveSlot (s : State) (core : Nat) : Option Nat :=
  let k := s.coreAt core
  (upTo k.saveN).find? fun n => !k.saved.any fun v => v.slot == n

/-- Threads of a core that are being preempted. -/
def State.savingOn (s : State) (core : Nat) : Nat := ((upTo 8).filter fun b => (s.ctxAt ⟨core, b⟩).saving).length

/-- Has a core a save slot that no thread is on its way to? -/
def State.saveRoom (s : State) (core : Nat) : Bool :=
  decide ((s.coreAt core).saved.length + s.savingOn core < (s.coreAt core).saveN)

/-- The priority of the thread in a context, when it may be a victim for priority `p` (R72). -/
def State.victimPrio (s : State) (c : CtxId) (p : Nat) : Option Nat :=
  let x := s.ctxAt c
  match x.inst.bind s.instAt with
  | none => none
  | some v =>
    if x.occ == .occupied && !x.saving && decide (v.prio < p) && !v.nopre && x.pl == 0 && s.saveRoom c.core &&
        x.restartable && !s.coreDead c.core then
      some v.prio
    else none

/-- The victim among some contexts: lowest priority, then the most recently started (R72). -/
def State.victim (s : State) (p : Nat) (l : List CtxId) : Option CtxId :=
  (l.foldl (fun (acc : Option (CtxId × Nat)) c =>
    match s.victimPrio c p, acc with
    | none, _ => acc
    | some q, none => some (c, q)
    | some q, some (d, r) =>
      if q < r || (q == r && decide ((s.ctxAt d).order < (s.ctxAt c).order)) then some (c, q) else acc) none).map (·.1)

/-- The berths of a cluster's cores. -/
def clusterBerths (cl : Nat) : List CtxId := (upTo 4).flatMap fun i => (upTo 8).map fun b => ⟨4 * cl + i, b⟩

/-- The berths that an instance may have in its owning quadrant. -/
def State.berthsFor (s : State) (svc : Nat) (v : Inst) : List CtxId :=
  ((s.enabledSet v.qmask v.diemask).filter fun cl => svcOfCluster cl == svc).flatMap clusterBerths

/-- A thread being preempted whose instruction went to sleep before its boundary: it is abandoned there (R73). -/
def State.sleepingVictim (s : State) (svc : Nat) : Option CtxId :=
  (s.ctx.map fun e => CtxId.ofKey e.1).find? fun c =>
    let x := s.ctxAt c
    svcOfCore c.core == svc && x.saving && x.occ == .occupied && x.wait.isSome && x.restartable && !x.midway

/-- The victim of a dispatcher: for the highest priority whose head has no FREE berth in its enabled set within the quadrant, one for each berth that the head needs (R72). -/
def State.newVictim (s : State) (svc : Nat) : Option CtxId :=
  [3, 2, 1].foldl (fun acc p =>
    match acc, (((s.dispAt svc).queue p).head?).bind s.instAt with
    | some c, _ => some c
    | none, none => none
    | none, some v =>
      let berths := s.berthsFor svc v
      let coming := (berths.filter fun c => (s.ctxAt c).saving).length
      if (berths.any fun c => (s.ctxAt c).occ == .free && !s.coreDead c.core) || decide (max v.maxthr 1 ≤ v.started + coming) then none
      else s.victim p berths) none

/-- The thread that a dispatcher's preemption stops next. -/
def State.dispVictim (s : State) (svc : Nat) : Option CtxId := (s.sleepingVictim svc).or (s.newVictim svc)

/-! ### Stopping a thread (R73, R329, R367, R373) -/

/-- The first failed register of a context, in the order of the codes of R368. -/
def Ctx.firstFailed (x : Ctx) : Option (Nat × Nat × Nat) :=
  let entry (n : Nat) : Option (Nat × Nat × Nat) :=
    match x.vs with
    | none => none
    | some v => (v.queue n).findSome? fun e => match e.st with
      | .failed cause addr mask => some (cause, dataVal (0x40 + n) addr, mask)
      | _ => none
  (x.failedSrc (((upTo 16).map fun r => Opd.x r true) ++ (upTo 32).map fun n => Opd.v n true)).or ((upTo 4).findSome? entry)

/-- MLEASE is abandoned before its grant: the berth asks for no lease (R72, R73). -/
def Ctx.unasked (x : Ctx) (before : Lease) : Ctx :=
  { x with lease := (if x.lease = .waiting then (if before = .none then .none else .lapsed) else x.lease),
           stream := x.stream.filter fun e => match e.cmd with
             | .mlease _ => false
             | _ => true }

/-- An abandoned wait is withdrawn where it stands, and leaves no effect (R72, R73, R329, R403). -/
def State.withdraw (s : State) (c : CtxId) : State :=
  let x := s.ctxAt c
  match x.wait with
  | some (.take dst before) => (s.withdrawCbu c.key x.uid).updCtx c fun x => x.markDst before dst
  | some .post => s.withdrawCbu c.key x.uid
  | some (.lease before) => s.updCtx c fun x => x.unasked before
  | some (.landing pa _) =>
    let l := s.landing pa
    s.setLanding pa { l with waiters := l.waiters - 1 }
  | _ => s

/-- The instruction at PC is abandoned with no effect: its requests to peers concern nobody any more. The berth drains (R26, R73). -/
def State.abandon (s : State) (c : CtxId) : State :=
  let s := s.withdraw c
  let uid := (s.ctxAt c).uid
  let s := { s with pend := s.pend.filter fun p => !(p.uid == uid && match p.dst with
    | .ask _ _ => true
    | _ => false) }
  s.updCtx c fun x => { x with saving := true, occ := .draining, wait := none, token := none, asks := [], pas := [] }

/-- Does a saved thread come back composed? -/
def Ctx.recomposes (x : Ctx) : Bool := x.ergBit && !x.trapBit && x.ergSize != 0

/-- What a context keeps when it is saved: what its slot and the machine hold of it. Members that it only holds leave with the save (R344, R345). -/
def Ctx.saved (x : Ctx) (lanes : Nat) : Ctx :=
  { x with line := none, wait := none, token := none, asks := [], pas := [], hold := none, short := false, stream := [], comb := [], saving := false,
           ergSize := (if x.recomposes then x.ergSize else 0), ergHeld := false,
           lease := (if x.lease = .none then .none else .lapsed), leaseUsed := 0,
           vs := x.vs.map fun (v : VState) => { v with m := v.m.map fun e => (e.1, e.2 % 2 ^ vlmax v.g lanes 8) } }

/-- Have the results of a stopped thread returned, its OPA commands completed, and for an erg its accesses been performed (R73, step 3; R343)? -/
def State.saveReady (s : State) (c : CtxId) : Bool :=
  let x := s.ctxAt c
  x.saving && x.occ == .draining && x.stream.isEmpty && x.moving.isNone && !s.resultsDue x.uid && !s.ergWaits c

/-- Save a stopped thread in a slot, or let it take the trap of its first failed register (R73, R367, R373). -/
def State.saveNow (s : State) (c : CtxId) : State :=
  let x := s.ctxAt c
  let stays := s.updCtx c fun x => { x with occ := .occupied, saving := false }
  match x.regErr, x.firstFailed, s.saveSlot c.core with
  | some code, _, _ => stays.lostRegister c (1 + code * 256)
  | none, some (cause, val, mask), _ => stays.takeTrap c cause val mask x.pc
  | none, none, none => stays
  | none, none, some slot =>
    let s := s.handBack c
    let s := if x.ergSize ≠ 0 then s.freeLent c.core x.ergSize else s
    let s := s.drainComb c 1023 true
    let x := s.ctxAt c
    let lanes := (s.coreAt c.core).vlanes
    let s := s.writeSlot c.core (s.slotAt c.core slot) (x.slotImage c.idx lanes)
    let s := s.updCore c.core fun k => { k with saved := k.saved ++ [⟨slot, x.saved lanes, c.idx, lanes⟩] }
    s.updCtx c Ctx.vacate

/-- Stop a thread at its next instruction boundary (R73): at once, where its instruction can be abandoned; else where that instruction completes. -/
def State.preemptAt (s : State) (c : CtxId) : State :=
  if (s.ctxAt c).midway then s.updCtx c fun x => { x with saving := true }
  else
    let s := s.abandon c
    if s.saveReady c then s.whole fun s => s.saveNow c else s

/-- PREEMPT (R72, R73). -/
def State.preempt (s : State) (svc : Nat) : State :=
  match s.dispVictim svc with
  | some c => s.preemptAt c
  | none => s

/-! ### Resuming (R73, R345) -/

/-- The priority of a saved thread: that of its instance. -/
def State.savedPrio (s : State) (v : Saved) : Nat :=
  match v.ctx.inst.bind s.instAt with
  | some i => i.prio
  | none => 0

/-- Does work of a priority above `p` wait for a core: a queued instance whose enabled set holds its cluster? -/
def State.higherWork (s : State) (core p : Nat) : Bool :=
  s.insts.any fun e => e.2.st == .queued && decide (p < e.2.prio) &&
    (s.enabledSet e.2.qmask e.2.diemask).contains (clusterOf core)

/-- Rows that a saved thread needs, and the banks that must move for them. -/
def State.rowsFor (s : State) (core : Nat) (v : Saved) : Option Nat :=
  match v.ctx.vs with
  | none => some 0
  | some w =>
    let k := s.coreAt core
    let free := 64 * k.banks - s.grantedRows core
    let need := 32 * w.g
    if need ≤ free then some 0
    else
      let b := (need - free + 63) / 64
      if b ≤ k.movable then some b else none

/-- Can an erg's members be had again: in no erg, reserved by no request, berth 7 of the others FREE (R345)? -/
def State.ergAgain (s : State) (core n : Nat) : Bool :=
  s.membersFree core n && (ergMembers core n).all fun k => !(s.reservedCores (clusterOf core)).contains k

/-- Where the first saved thread of a core can resume: its berth and the banks to move. -/
def State.resumePlace (s : State) (core : Nat) : Option (Saved × Nat × Nat) :=
  match (s.coreAt core).saved with
  | [] => none
  | v :: _ =>
    if s.higherWork core (s.savedPrio v) || (v.ctx.recomposes && !s.ergAgain core v.ctx.ergSize) then none
    else match s.freeBerth core, s.rowsFor core v with
      | some b, some n => some (v, b, n)
      | _, _ => none

/-- RESUME (R73, R75): the slot is read and freed, the address space is the instance's, the erg recomposed. An error in the slot traps, and a thread whose PC and STATUS are lost ends (R371, R421). DESIGN CHOICE (log 45): VL is scaled once, by the lane counts at the save and at the resume, however often VLANES was written in between (R94). -/
def State.resume (s : State) (core : Nat) : State :=
  match s.resumePlace core with
  | none => s
  | some (v, b, n) =>
    let c : CtxId := ⟨core, b⟩
    let r := s.readSlot core (s.slotAt core v.slot) (v.ctx.slotImage v.berth v.lanes)
    let s := r.2.moveBanks core n
    let s := s.updCore core fun k => { k with saved := k.saved.tail }
    let (pt, asid) := match v.ctx.inst.bind s.instAt with
      | some i => (i.ptbase, i.asid)
      | none => (v.ctx.ptbase, v.ctx.asid)
    let x : Ctx := { v.ctx with occ := .occupied, vs := v.ctx.vs.map fun (w : VState) => w.lanes v.lanes (s.coreAt core).vlanes, ptbase := pt, asid := asid }
    let s := s.updCtx c x.inBerth
    if r.1 = .lost then
      ((s.updCtx c fun x => { x with ergSize := 0, ergBit := false }).endThread c).logFault core
        ⟨10, 2, 0, none, 0, v.ctx.pc, v.slot⟩
    else
      let s := if x.recomposes then s.formErg c x.ergSize else s
      if r.1 = .bad then s.lostRegister c (2 + v.slot * 256) else s

end Sys2Proof.Machine
end

