-- ==== Sys2Proof/Machine/EventCore.lean ====
section
/-! DEFINITION. Events of the module and its cores: reset, clocks, fetch, issue, results, banks, messages and handlers (R21 to R24, R36 to R50, R52, R78, R92, R93, R306, R357, R359, R372, R375). -/
namespace Sys2Proof.Machine

/-! ### The module (R21 to R24, R357, R359) -/

/-- What the boot ROM finds, as BOOTSTAT: booted, or an image that failed and why (R359). -/
def bootResult (k : Nat) : Nat :=
  if k % 46 = 0 then 2 ^ 24 else 2 * 2 ^ 24 + (k % 46 - 1) / 5 * 2 ^ 16 + ((k % 46 - 1) % 5 + 1)

/-- The boot ends (R357, R359). Which images and base-die reports fail is open (log 3, log 5). -/
def State.boot (s : State) : State :=
  { s with bootstat := bootResult (Config.pick s.freeN), badStacks := Config.pick (s.freeN + 1) % 256, freeN := s.freeN + 2 }

/-- MODULE_RESET (R23, R357, R359): every state as after reset, and the boot; the fuses, host memory, and what has left the module stay. -/
def execModuleReset (s : State) : Host.Outcome State Fault Refusal :=
  .next (State.boot { State.reset with
    fuse := s.fuse, out := s.out, agenda := s.agenda, freeN := s.freeN, nextPeer := s.nextPeer, nextUid := s.nextUid,
    nextPend := s.nextPend, mem := s.mem.filter (fun e => paClass e.1 == 3) })

/-- Freeze the array of a cluster; time stands still there from the given fc on (R278), and nothing else changes (R423). -/
def State.freeze (s : State) (cl t : Nat) : State :=
  s.updCl cl fun c => { c with frozen := some (c.frozen.getD t) }

/-- CLOCK_CHANGE (R21): at the next ac edge every array freezes until the change ends. No counter and no order depends on the rate. -/
def execClockChange (_rate : Nat) (s : State) : Host.Outcome State Fault Refusal :=
  .next (((upTo 256).filter fun cl => s.clusterPresent cl).foldl (fun (s : State) cl => (s.opaTick cl).freeze cl (s.fc + s.fc % 2)) s)

/-! ### Fetch and issue (R52, R179, R182, R306) -/

/-- INSTRUCTION_FETCH (R179, R182, R372 step 2): a context that needs a line enters it; a trap of an erg waits for what hand-back waits for (R343). -/
def execInstructionFetch (core idx : Nat) (s : State) : Host.Outcome State Fault Refusal :=
  let c : CtxId := ⟨core, idx⟩
  let x := s.ctxAt c
  if !s.live c || x.line.isSome || x.regErr.isSome || (c.isHandler && decide ((s.coreAt core).budget ≤ x.issued)) then .next s
  else
    match enterLine.go { s with cur := c } with
    | (.ok _, s') => .next s'
    | (.error (.trap cause val mask), s') => .next (if s.trapWaits c cause then s.trapLater c cause else s'.takeTrap c cause val mask x.pc)
    | (.error .stall, s') => .next s'
    | (.error (.sleep w), s') => .next (s'.updMe fun x => { x with wait := some w })

/-- ISSUE_SELECT (R52): the core's choice for this fc; the next step issues from it. -/
def execIssueSelect (core : Nat) (s : State) : Host.Outcome State Fault Refusal :=
  if !s.corePresent core || s.coreDead core then .next s
  else
    let (c, s) := s.select encoded core
    .next { s with chosen := c }

/-- YIELD_HOLD_END (R306): 8 fc are over. The issue of another berth ends the hold where it issues. -/
def execYieldHoldEnd (core idx : Nat) (s : State) : Host.Outcome State Fault Refusal :=
  match (s.ctxAt ⟨core, idx⟩).hold with
  | some t => .next (if t ≤ s.fc then s.updCtx ⟨core, idx⟩ fun x => { x with hold := none } else s)
  | none => .next s

/-! ### Results (R78, R367) -/

/-- Is the result one that an MRD in a stream is to produce? -/
def State.inStream (s : State) (id : Nat) : Bool :=
  s.ctx.any fun e => e.2.stream.any fun m => match m.cmd with
    | .mrd p _ _ _ _ => p == id
    | _ => false

/-- LONG_LATENCY_RESULT (R78, R367, R392, R430). -/
def execLongLatencyResult (n : Nat) (r : ResultIn) (s : State) : Host.Outcome State Fault Refusal :=
  match s.pendAt n with
  | some p => .next (if s.inStream n then s else s.whole fun s => s.resultIn p r)
  | none => .next s

/-! ### Banks and berths (R30, R92, R93) -/

/-- BANK_MOVE_COMPLETE (R93): the move's SETVL writes its destination. -/
def execBankMoveComplete (core idx : Nat) (s : State) : Host.Outcome State Fault Refusal :=
  match (s.ctxAt ⟨core, idx⟩).moving with
  | some (d, v) => .next (s.updCtx ⟨core, idx⟩ fun x => { x.setX d (wd v) with moving := none })
  | none => .next s

/-- BANK_RETURN (R92). -/
def execBankReturn (core : Nat) (s : State) : Host.Outcome State Fault Refusal :=
  .next (if s.corePresent core && !isSvc core then s.bankReturnAt core else s)

/-- A thread of an instance has left DRAINING (R71). -/
def State.threadGone (s : State) (i : Option Nat) : State :=
  match i with
  | some i => s.updInst i fun v => { v with threads := v.threads - 1 }
  | none => s

/-- DRAIN_COMPLETE (R26, R30, R73, R392): the berth becomes FREE when nothing of its thread is outstanding; a report that came in meanwhile is logged. A thread that is being preempted is saved then. -/
def execDrainComplete (core idx : Nat) (s : State) : Host.Outcome State Fault Refusal :=
  let c : CtxId := ⟨core, idx⟩
  let x := s.ctxAt c
  .next (if decide (8 ≤ idx) || x.occ != .draining then s
    else if x.saving then (if s.saveReady c then s.whole fun s => s.saveNow c else s)
    else if !s.awaits c && x.stream.isEmpty then
      ((s.logReports core (x.reports ++ x.msyncReports)).updCtx c Ctx.vacate).threadGone x.inst
    else s)

/-! ### Messages (R36 to R42, R410) -/

/-- A message of one kind arrives. What it needs of memory must be within reach (R358, R417). -/
def State.arriveIf (s : State) (m : MsgIn) (ok : Msg → Bool) (f : Msg → State → State) : State :=
  match s.arrivalOf m with
  | some (m, s') => if ok m then f m s' else s
  | none => s

/-- REQ_MESSAGE_ARRIVAL (R39, R41). -/
def execReqMessageArrival (m : MsgIn) (s : State) : Host.Outcome State Fault Refusal :=
  .next (s.whole fun s => s.arriveIf m (fun m => !m.rep) fun m s => s.arrive m false)

/-- Is the arriving message a REP message of this module that a peer returns, since the core that it names is not there (R430)? -/
def State.comesBack (s : State) : MsgIn → Option Msg
  | .peer m => if m.rep && !m.refused && m.srcPkg = s.pkgid && m.dstPkg ≠ s.pkgid then some m else none
  | .inflight _ => none

/-- REP_MESSAGE_ARRIVAL (R40, R41, R430). -/
def execRepMessageArrival (m : MsgIn) (s : State) : Host.Outcome State Fault Refusal :=
  .next (match s.comesBack m with
    | some m => s.returned m
    | none => s.whole fun s => s.arriveIf m (fun m => m.rep && !m.refused) fun m s => s.arrive m false)

/-- REFUSED (R36, R47, R410): the sender's REQ entry frees, whatever becomes of the message. -/
def execRefused (m : MsgIn) (s : State) : Host.Outcome State Fault Refusal :=
  .next (s.whole fun s => s.arriveIf m (fun m => m.rep && m.refused) fun m s =>
    (s.updCore m.dstCore fun k => { k with reqOut := k.reqOut - 1 }).arrive { m with chan := 63 } false)

/-- HELD_MESSAGE_ENTER (R39, R40): the n-th held message of a network enters when there is room and none of its sender is before it. -/
def execHeldMessageEnter (core : Nat) (rep : Bool) (n : Nat) (s : State) : Host.Outcome State Fault Refusal :=
  let k := s.coreAt core
  let l := k.held.filter fun m => m.rep == rep
  match l[n]? with
  | none => .next s
  | some m =>
    if k.boxFull rep || (l.take n).any fun h => sameSender h m then .next s
    else
      let i := k.held.findIdx fun h => h == m
      .next (s.whole fun s => (s.updCore core fun k => { k with held := k.held.eraseIdx i }).arrive m true)

/-! ### Handlers (R36, R43, R45, R48) -/

/-- HANDLER_START (R43, R45, R46). -/
def execHandlerStart (core : Nat) (s : State) : Host.Outcome State Fault Refusal :=
  .next (if s.corePresent core && !s.coreDead core then s.whole fun s => s.handlerSelect core else s)

/-- HANDLER_START_NOTICE (R36): the n-th notice of this module, or beyond those one from a peer, which names a core and a network. -/
def execHandlerStartNotice (n : Nat) (s : State) : Host.Outcome State Fault Refusal :=
  match s.notices[n]? with
  | some core =>
    .next ({ s with notices := s.notices.eraseIdx n }.updCore core fun k => { k with reqOut := k.reqOut - 1 })
  | none =>
    let m := n - s.notices.length
    .next (if s.corePresent (m / 2) then
      s.updCore (m / 2) fun k => if m % 2 = 0 then { k with reqOut := k.reqOut - 1 } else { k with repOut := k.repOut - 1 }
      else s)

/-- HANDLER_SLOT_FREE (R48): the slot of an ended handler is free again when its results have returned. -/
def execHandlerSlotFree (core slot : Nat) (s : State) : Host.Outcome State Fault Refusal :=
  let c : CtxId := ⟨core, 8 + slot⟩
  .next (if decide (slot < 2) && (s.ctxAt c).occ == .draining && !s.awaits c then s.updCtx c fun _ => Ctx.reset else s)

end Sys2Proof.Machine
end

