-- ==== Sys2Proof/Machine/EventTask.lean ====
section
/-! DEFINITION. Events of the task dispatchers (R62 to R73, R412, R413). -/
namespace Sys2Proof.Machine

/-! ### Pushes (R64, R412) -/

/-- The words that a unit reads for a push by a watchpoint: none where something cannot be read. -/
def State.readPush (s : State) (k : Watch) (origin : Nat) : Option Push × State :=
  let sp := pushSpace k.ptbase k.asid k.sup origin
  match s.readWords sp k.record 8 with
  | (.error _, s) => (none, s)
  | (.ok w, s) =>
    let p : Push := ⟨k.ptbase, k.asid, k.sup, origin, k.record, w, (0, 0)⟩
    let dep := w.getD 6 0
    if dep = 0 || recordBad fun k => w.getD k 0 then (some p, s)
    else match s.readWords sp dep 2 with
      | (.error _, s) => (none, s)
      | (.ok l, s) => (some { p with pair := (l.getD 0 0, l.getD 1 0) }, s)

/-- A push that a watchpoint makes: discarded and logged where it fails (R412, R420 kind 5). -/
def State.watchPush (s : State) (cl : Nat) (k : Watch) : State :=
  let origin := svcOfCluster cl
  let drop (s : State) (why svc val : Nat) : State := s.logFault (1024 + svc) ⟨5, why, 0, none, 0, k.record, val⟩
  match s.readPush k origin with
  | (none, s) => drop s 1 origin k.handle
  | (some p, s) =>
    match s.pushInst p with
    | (.ok (), s) => s
    | (.error (why, svc), s) => drop s why svc (if why = 3 then p.words.getD 6 0 else k.handle)

/-- WATCHPOINT_MATCH (R64): the n-th match waiting pushes its instance; matches of one slice go in order. -/
def execWatchpointMatch (n : Nat) (s : State) : Host.Outcome State Fault Refusal :=
  match s.hits[n]? with
  | none => .next s
  | some h =>
    if (s.hits.take n).any fun e => e.cl == h.cl then .next s
    else .next (s.whole fun s => ({ s with hits := s.hits.eraseIdx n }).watchPush h.cl h.watch)

/-- DEPENDENCE_SATISFIED (R62, R404): a compare of the watermark word at its home, once it is within reach (R358, R417). -/
def execDependenceSatisfied (inst : Nat) (s : State) : Host.Outcome State Fault Refusal :=
  match s.instAt inst with
  | none => .next s
  | some v =>
    if v.st ≠ .pending then .next s
    else
      .next (s.whole fun s =>
        let s := s.reach (1024 + v.owner) v.depPa 8
        let r := s.homeWord (v.depPa / 8)
        if r.2 then s.dropDepend inst v
        else if decide (v.depThr ≤ r.1.toNat) then (s.satisfy inst v).enterQueue v.owner else s)

/-- PENDING_ENTER_QUEUE (R62). -/
def execPendingEnterQueue (disp : Nat) (s : State) : Host.Outcome State Fault Refusal :=
  .next (if disp < 16 && !s.dispDead disp then s.enterQueue disp else s)

/-! ### Dispatch (R68 to R70) -/

/-- The clusters of an instance in the order in which its threads are placed (R69). -/
def State.placeOrder (s : State) (v : Inst) : List Nat :=
  let set := s.enabledSet v.qmask v.diemask
  let first := if v.hintv && set.contains v.hint then [v.hint] else []
  let own := set.filter fun cl => svcOfCluster cl == v.owner
  let others := (upTo 16).flatMap fun q => set.filter fun cl => svcOfCluster cl == q && q != v.owner
  (first ++ own ++ others).eraseDups

/-- Does a saved thread of a core come before a new thread of priority `p` (R68)? -/
def State.savedFirst (s : State) (core p : Nat) : Bool :=
  (s.coreAt core).saved.any fun v => decide (p ≤ s.savedPrio v)

/-- The first FREE berth for an instance outside the clusters that are held back (R69). -/
def State.placeOf (s : State) (v : Inst) (held : List Nat) : Option CtxId :=
  (((s.placeOrder v).filter fun cl => !held.contains cl).flatMap fun cl => (upTo 4).map fun i => 4 * cl + i).findSome? fun core =>
    if s.savedFirst core v.prio then none else (s.freeBerth core).map fun b => ⟨core, b⟩

/-- Instances of a dispatcher that have started and not completed (R67). -/
def State.liveCount (s : State) (svc : Nat) : Nat := (s.insts.filter fun e => e.2.owner == svc && decide (0 < e.2.started)).length

/-- May a thread of the instance start (R67)? -/
def State.mayStart (s : State) (v : Inst) : Bool := decide (0 < v.started) || decide (s.liveCount v.owner < 1024)

/-- The enabled set of a queue's head. -/
def State.headSet (s : State) (svc p : Nat) : List Nat :=
  match (((s.dispAt svc).queue p).head?).bind s.instAt with
  | some v => s.enabledSet v.qmask v.diemask
  | none => []

/-- The instance that receives a berth next, and the berth: the queues from the highest priority down, each in order, heads holding back their sets (R68). -/
def State.dispatchNext (s : State) (svc : Nat) : Option (Nat × Inst × CtxId) :=
  if s.dispDead svc then none else [3, 2, 1, 0].findSome? fun p =>
    let above := ((upTo 4).filter (p < ·)).flatMap fun q => s.headSet svc q
    let q := (s.dispAt svc).queue p
    q.findSome? fun i =>
      match s.instAt i with
      | none => none
      | some v =>
        let held := if q.head? = some i then above else above ++ s.headSet svc p
        if s.mayStart v then (s.placeOf v held).map fun c => (i, v, c) else none

/-- What a dispatched thread starts with (R29, R70). -/
def Inst.start (v : Inst) (i : Nat) : Start :=
  ⟨v.entry, if v.sup then 1 else 0, v.ptbase, v.asid, some i, v.argp, wd v.record, wd v.started⟩

/-- TASK_DISPATCH (R68 to R70): the dispatcher waits where a failed edge lies on the way to the berth (R417). -/
def execTaskDispatch (disp : Nat) (s : State) : Host.Outcome State Fault Refusal :=
  match s.dispatchNext disp with
  | some (i, v, c) =>
    .next (s.whole fun s =>
      (((s.cross (disp / 4) (dieOf c.core)).startThread c (v.start i)).updInst i fun v => { v with started := v.started + 1 }).leaveQueue i)
  | none => .next s

/-- May an instance rise: queued below priority 3, waiting longer than TDAGE, room above (R68)? -/
def State.ages (s : State) (v : Inst) : Bool :=
  let d := s.dispAt v.owner
  v.st == .queued && decide (v.prio < 3) && d.tdage != 0 && decide (v.since + 64 * d.tdage < s.fc) && !d.full (v.prio + 1)

/-- TASK_AGING (R68): the entry that it leaves goes to an instance that waits for one (R62). -/
def execTaskAging (disp inst : Nat) (s : State) : Host.Outcome State Fault Refusal :=
  match s.instAt inst with
  | none => .next s
  | some v =>
    if v.owner = disp && s.ages v && !s.dispDead disp then
      .next (((s.setInst inst { v with prio := v.prio + 1, since := s.fc }).updDisp disp fun d =>
        (d.dequeue inst).enqueue (v.prio + 1) inst).enterQueue disp)
    else .next s

/-- PREEMPT (R72, R73). -/
def execPreempt (disp : Nat) (s : State) : Host.Outcome State Fault Refusal :=
  .next (if s.dispDead disp then s else s.preempt disp)

/-- RESUME (R73). -/
def execResume (core : Nat) (s : State) : Host.Outcome State Fault Refusal :=
  .next (if s.coreDead core then s else s.whole fun s => s.resume core)

/-! ### Completion (R71, R413) -/

/-- A release at SY of everything that the module's cores have written (R71: those of the instance's threads are among it). -/
def State.releaseAll (s : State) : State :=
  let by' := s.cur
  let s := s.core.foldl (fun (s : State) e =>
    { s with cur := ⟨e.1, 15⟩ }.release
      ((e.1, none) :: ((upTo 4).map fun i => (e.1, some (e.1 / 4 * 4 + i)))) 3 1023) s
  { s with cur := by' }

/-- The words that it writes or registers at home. -/
def State.releaseAllHomes (s : State) : List (Nat × Nat × Nat) :=
  s.core.flatMap fun e => { s with cur := ⟨e.1, 15⟩ }.releaseHomes
    ((e.1, none) :: ((upTo 4).map fun i => (e.1, some (e.1 / 4 * 4 + i)))) 1023

/-- Is a write to a peer module not acknowledged yet, which may be one of that release? -/
def State.releasing (s : State) : Bool := s.pend.any fun p => p.dst == .none && p.origin.isPeer

/-- Have all threads and Ferry commands of an instance ended, at a dispatcher that lives (R71, R413)? -/
def State.instOver (s : State) (v : Inst) : Bool :=
  v.st == .live && v.threads == 0 && v.ferries == 0 && !s.dispDead v.owner

/-- Add 1 to the completion word; answers whether it was performed (R57, R71); at a peer module that is as its home answers (log 5). -/
def State.bumpCompl (s : State) (owner : Nat) (x : Xl) : Bool × State :=
  let s := s.reach (1024 + owner) x.pa 8
  if paClass x.pa = 2 then
    let r := s.peerFree
    (r.1.toBool, r.2.sendPeer x.pa (.amo .add (x.pa % 2 ^ 39) 8 1 0))
  else if paClass x.pa = 3 && s.cxlDown then (false, s)
  else
    let r := s.homePut x.pa 8 ((s.homeBytes x.pa 8 + 1) % 2 ^ 64)
    (r.1.isNone, r.2)

/-- A kind-12 entry (R420). -/
def kind12 (record val : Nat) : LogEntry := ⟨12, 0, 0, none, 0, record, val⟩

/-- An instance completes: its completion word, its log entries, its place in the dispatcher's table. -/
def State.complete (s : State) (i : Nat) (v : Inst) : State :=
  let svc := 1024 + v.owner
  let s := if 0 < v.lost then s.logFault svc (kind12 v.record v.lost) else s
  let gone (s : State) : State := { s with insts := KMap.del s.insts i }
  let fails (s : State) : State := gone (s.logFault svc (kind12 v.record (2 ^ 64 - 1)))
  if v.compl = 0 then gone s
  else match s.complXl (pushSpace v.ptbase v.asid v.psup v.owner) v.compl with
    | (none, s) => fails s
    | (some x, s) =>
      let (ok, s) := s.bumpCompl v.owner x
      if ok then gone s else fails s

/-- Is the completion word on a write-blocked page (R145)? -/
def State.complBlocked (s : State) (v : Inst) : Bool :=
  v.compl != 0 && match (s.complXl (pushSpace v.ptbase v.asid v.psup v.owner) v.compl).1 with
    | some x => x.wb
    | none => false

/-- TASK_COMPLETION (R71): the release first, once its homes can take it (R174, R417, R418); the word rises once its writes are acknowledged. -/
def execTaskCompletion (inst : Nat) (s : State) : Host.Outcome State Fault Refusal :=
  match s.instAt inst with
  | none => .next s
  | some v =>
    if !s.instOver v then .next s
    else
      let t := (s.releaseAllHomes.foldl (fun (s : State) a => s.reach a.1 a.2.1 a.2.2) s).releaseAll
      .next (if t.lacks ≠ s.lacks then s.askRecalls t.lacks
        else if t.releasing || t.complBlocked v then t else t.whole fun s => s.complete inst v)

end Sys2Proof.Machine
end

