-- ==== Sys2Proof/Machine/EventHost.lean ====
section
/-! DEFINITION. Events of the host, of translation and of the caches (R66, R143 to R145, R159, R161, R175, R348 to R350, R359, R360, R390, R396, R419). -/
namespace Sys2Proof.Machine

/-! ### CXL.mem (R66, R175, R349, R419) -/

/-- The physical address of a host offset: the dies' memories follow one another without holes (R349). -/
def State.hostPa (s : State) (h : Nat) : Option Nat :=
  ((upTo 4).foldl (fun (acc : Nat × Option Nat) d =>
    match acc.2 with
    | some _ => acc
    | none => if h < acc.1 + s.dieCap d then (acc.1, some (d * 2 ^ 37 + (h - acc.1))) else (acc.1 + s.dieCap d, none)) (0, none)).2

/-- The service core that handles a host request (R66). -/
def hostSvc (pa : Nat) : Nat := 4 * bitsAt pa 37 2 + bitsAt pa 15 2

/-- Cut `n` bytes from `a` into pieces within aligned words: offset and length. -/
def wordPieces (a n : Nat) : List (Nat × Nat) := splitAt' 8 (n / 8 + 2) a 0 n

/-- One word's part of a host write: whether it was discarded (R396), and the state. A poisoned write poisons the word (R395). -/
def State.hostPut (s : State) (pa n v : Nat) (poisoned : Bool) : Bool × State :=
  if poisoned then
    if s.poisoned (pa / 8) then (true, s)
    else
      let s := if (s.holder (pa / 8)).isSome then s.clearHolder (pa / 8) else s
      (false, s.setPoison (pa / 8) true)
  else
    let r := s.homePut pa n v
    (r.1.isSome, r.2)

/-- A value from bytes, the first least significant. -/
def bytesVal (l : List Byte) : Nat := l.foldr (fun b n => b.toNat + 256 * n) 0

/-- The words' parts of a host request to device memory, with their places in the request. -/
def State.hostPieces (s : State) (off n : Nat) : List (Nat × Nat × Nat) :=
  (wordPieces off n).filterMap fun p => (s.hostPa (off + p.1)).map fun pa => (p.1, pa, p.2)

/-- Does a host request wait on its way from the CXL port on CD0 to the service core that handles it (R19, R66, R417)? -/
def State.hostHeld (s : State) (l : List (Nat × Nat × Nat)) : Bool := l.any fun p => s.edgeHeld 0 (bitsAt p.2.1 37 2)

/-- Complete a host request: with bytes and their poison mark, or with an error. -/
def State.hostAnswer (s : State) (t : HostAt) (off : Nat) (r : Option (List Nat × Bool)) : State :=
  { s with out := { s.out with hostData := s.out.hostData ++ [(t, off, r)] } }

/-- A host write of device memory (R66, R175, R349, R396, R419). -/
def State.hostWrite (s : State) (off : Nat) (data : List Byte) (poisoned : Bool) : State :=
  let l := s.hostPieces off data.length
  if s.hostHeld l then s
  else
    let v := bytesVal data
    let r := l.foldl (fun (acc : Option (Nat × Nat) × State) p =>
      let r := (acc.2.reach (1024 + hostSvc p.2.1) p.2.1 p.2.2).hostPut p.2.1 p.2.2 (v / 256 ^ p.1 % 256 ^ p.2.2) poisoned
      (if r.1 && acc.1.isNone then some (off + p.1, hostSvc p.2.1) else acc.1, r.2)) (none, s)
    match r with
    | (none, s) => s
    | (some (h, svc), s) =>
      (s.updCore (1024 + svc) fun k => { k with hostdisc := (k.hostdisc + 1) % 2 ^ 32 }).logFault (1024 + svc)
        ⟨11, 0, 0, none, 0, Config.hdmBase + h, 0⟩

/-- A host read of device memory: the data leaves with the poison mark (R66, R175, R392, R419). An address that the decoder does not claim gets no answer (R349). -/
def State.hostRead (s : State) (off n : Nat) : State :=
  let l := s.hostPieces off n
  if s.hostHeld l || l.isEmpty then s
  else
    let s := l.foldl (fun (s : State) p => s.reach (1024 + hostSvc p.2.1) p.2.1 p.2.2) s
    let bytes := l.flatMap fun p => (upTo p.2.2).map fun k => s.homeBytes (p.2.1 + k) 1
    let bad := l.any fun p => (s.poisonIn p.2.1 p.2.2).isSome
    (l.foldl (fun (s : State) p => s.metBytes p.2.1 p.2.2) s).hostAnswer .hdm off (some (bytes, bad))

/-- The features that the capability structures report as present (R348). -/
def cxlPresent : CxlFeature → Bool
  | .config | .bar0 | .msix | .doe | .hdm | .cacheRead | .cacheWrite | .snoop => true
  | .sriov | .logicalDevices | .ide | .interleave | .backInvalidate | .biasFlip | .pooling | .hostFilter => false

/-- Bytes of BAR0 as the host reads them: the device registers, as a SUP read gives them (R350). -/
def State.bar0Bytes (s : State) (off n : Nat) : List Nat :=
  (upTo n).map fun k => if off + k < 2 ^ 20 then s.readDev ((off + k) / 8 * 8) / 256 ^ ((off + k) % 8) % 256 else 0

/-- The masks and the pending bits of the MSI-X vectors: byte v is the mask of vector v, bytes 16 and 17 the pending bits (log 47). -/
def State.msixBytes (s : State) (off n : Nat) : List Nat :=
  (upTo n).map fun k => if off + k < 16 then (if bitAt s.msixMask (off + k) then 1 else 0) else s.msixPend / 256 ^ (off + k - 16) % 256

/-- The host masks or unmasks a vector; a pending one that is unmasked is sent (R350; log 47). -/
def State.msixWrite (s : State) (v : Nat) (mask : Bool) : State :=
  if 16 ≤ v then s
  else
    let s := { s with msixMask := setBit s.msixMask v mask }
    if !mask && bitAt s.msixPend v then { s with msixPend := setBit s.msixPend v false }.signal v else s

/-- HOST_MEM_WRITE (R66, R175, R349, R350, R359, R419): BAR0 and configuration space take no writes; a module that has not booted completes with an error what is not a configuration request. -/
def execHostMemWrite (place : HostPlace) (data : List Byte) (poisoned : Bool) (s : State) : Host.Outcome State Fault Refusal :=
  let off := place.off
  .next (if s.cxlDown then s
    else match place.target with
      | .config _ => s
      | .bar0 => if s.booted then s else s.hostAnswer .bar0 off none
      | .msix => if s.booted then s.msixWrite off (bitAt (bytesVal data) 0) else s.hostAnswer .msix off none
      | .hdm => if s.booted then s.whole fun s => s.hostWrite off data poisoned else s.hostAnswer .hdm off none)

/-- HOST_MEM_READ (R66, R175, R348, R349, R350, R359, R419): configuration space and BAR0 answer also while the module is held in reset. -/
def execHostMemRead (place : HostPlace) (n : Nat) (s : State) : Host.Outcome State Fault Refusal :=
  let off := place.off
  .next (if s.cxlDown then s
    else match place.target with
      | .config f => s.hostAnswer (.config f) off (some ([if cxlPresent f then 1 else 0], false))
      | .bar0 => s.hostAnswer .bar0 off (some (s.bar0Bytes off n, false))
      | .msix => s.hostAnswer .msix off (if s.booted then some (s.msixBytes off n, false) else none)
      | .hdm => if s.booted then s.whole fun s => s.hostRead off n else s.hostAnswer .hdm off none)

/-- HOST_BAR0_WRITE (R350, R359): discarded; an error while the module is held in reset. -/
def execHostBar0Write (off : Nat) (_v : Word) (s : State) : Host.Outcome State Fault Refusal :=
  .next (if s.booted || s.cxlDown then s else s.hostAnswer .bar0 off none)

/-- HIRQ (R350). -/
def execHirq (v : Word) (s : State) : Host.Outcome State Fault Refusal := .next (s.raiseIrq v.toNat)

/-- The measurements of a report, in the order of their indexes (R360). -/
def State.measurements (s : State) : List Nat :=
  ((upTo 9).map fun k => Config.measurement (k + 1)) ++ [s.idMod] ++ ((upTo 4).map fun d => s.clmask d) ++
    ((upTo 16).map fun k => s.idNarrow k) ++ ((upTo 8).map fun k => s.pcmask k) ++ [Config.measurement 11]

/-- SPDM_MEASUREMENT (R360). -/
def execSpdmMeasurement (s : State) : Host.Outcome State Fault Refusal :=
  .next { s with out := { s.out with reports := s.out.reports ++ [(s.measurements, Config.signReport s.measurements)] } }

/-! ### Shootdowns and write-blocked pages (R143 to R145, R390) -/

/-- SHOOTDOWN_GO (R143): a write of SDCTL with GO = 1. -/
def execShootdownGo (port : Nat) (v : Word) (s : State) : Host.Outcome State Fault Refusal :=
  .next (if port < 16 then s.writeSdCtl port (setBit v.toNat 0 true) else s)

/-- SHOOTDOWN_COMPLETE (R144). -/
def execShootdownComplete (port : Nat) (s : State) : Host.Outcome State Fault Refusal :=
  .next (if port < 16 then s.sdComplete port else s)

/-- WB_REWALK (R145): after 1,024 fc the access is tried again, which walks again. -/
def execWbRewalk (core idx : Nat) (s : State) : Host.Outcome State Fault Refusal :=
  match (s.ctxAt ⟨core, idx⟩).wait with
  | some (.writeBlock since last _) =>
    .next (if last + Config.wbRewalk ≤ s.fc then
      s.updCtx ⟨core, idx⟩ fun x => { x with wait := none, token := some [wd since] } else s)
  | _ => .next s

/-- WBWAIT_EXPIRY (R145, R390); the trap of an erg waits for what hand-back waits for (R343). -/
def execWbwaitExpiry (core idx : Nat) (s : State) : Host.Outcome State Fault Refusal :=
  let c : CtxId := ⟨core, idx⟩
  match (s.ctxAt c).wait with
  | some (.writeBlock since _ va) =>
    .next (if s.fc < since + Config.wbWait then s
      else if s.trapWaits c Cause.writeBlocked then s.trapLater c Cause.writeBlocked
      else s.takeTrap c Cause.writeBlocked va 0 (s.ctxAt c).pc)
  | _ => .next s

/-! ### Caches (R159, R161) -/

/-- L1_EVICTION (R161): `line` is PA / 64. It waits where the way home is held (R174, R417, R418). -/
def execL1Eviction (core line : Nat) (s : State) : Host.Outcome State Fault Refusal :=
  .next (s.whole fun s => (s.reach core (64 * line) 64).evictL1 core line)

/-- NEAR_PARTITION_EVICTION (R161). -/
def execNearPartitionEviction (cl line : Nat) (s : State) : Host.Outcome State Fault Refusal :=
  .next (s.whole fun s => (s.reach ((clusterCores cl).headD 0) (64 * line) 64).evictNear cl line)

/-- HOME_PARTITION_EVICTION (R161). -/
def execHomePartitionEviction (line : Nat) (s : State) : Host.Outcome State Fault Refusal :=
  .next (s.whole fun s => (s.reach (4 * s.homeSlice (64 * line)) (64 * line) 64).evictHome line)

/-- FORWARDED_READ (R159): a read at home of a registered word for a core; its near partition takes the data, the registration stays. -/
def execForwardedRead (core word : Nat) (s : State) : Host.Outcome State Fault Refusal :=
  .next (if (s.holder word).isSome && s.corePresent core && !s.coreDead core then
    s.whole fun s => ((s.reach core (8 * word) 8).readNear (clusterOf core) word ⟨s.holderRegion word, 0, none⟩).2 else s)

end Sys2Proof.Machine
end

