-- ==== Sys2Proof/Machine/EventPeer.lean ====
section
/-! DEFINITION. Events of peer modules, page grants, base dies and links (R173, R174, R351, R352, R355, R356, R358, R398 to R402, R417, R418, R430). -/
namespace Sys2Proof.Machine

/-! ### Accesses of peer modules at this home (R173, R174, R229, R430) -/

/-- Answer a peer's request. -/
def State.reply (s : State) (n : Nat) (r : Reply) : State := { s with out := { s.out with answers := s.out.answers ++ [(n, r)] } }

/-- A store from another module returns the page's lease length to 10 us (R174). -/
def State.peerStored (s : State) (pa : Nat) : State :=
  let r := s.lease (pa / 65536)
  s.setLease (pa / 65536) { r with len := 1 }

/-- The answer to a write: performed, or discarded at a bad word (R396). -/
def wroteReply (bad : Refused) : Reply :=
  match bad with
  | some (_, c) => .bad c
  | none => .value 0

/-- An access of a peer comes to its home: a page that another peer may write is recalled first (R174), an atomic of the base die on the line ends first (R358), and a failed edge between its port and the home holds it (R417). -/
def State.peerReach (s : State) (pa pkg : Nat) : State :=
  let s := if (s.lease (pa / 65536)).writer = some pkg then s else s.recallPage pa
  let s := if s.baseHeld pa 8 || s.recallHeld pa 8 then s.lack none else s
  s.cross (portDie (s.portFor pkg (accessHash pa))) (pa / 2 ^ 37 % 4)

/-- Perform a request of a peer at its home: the answer, none where it comes later. `w` is the peer as a waiter. A bad word is refused with its cause (R392), and QACQ and QTRY of a word whose zero field is not zero as PROTECTION (R230). -/
def State.peerPerform (s : State) (pa : Nat) (w : Waiter) (op : PeerOp) : Option Reply × State :=
  let n := match op with
    | .read _ n => n
    | .qacq _ _ versioned | .qrel _ _ versioned => if versioned then 16 else 8
    | .qtry _ _ => 8
    | .group _ _ => 16
    | _ => 0
  let field := match op with
    | .qacq _ _ _ | .qtry _ _ => bitsAt (s.homeBytes pa 8) 50 13 != 0
    | _ => false
  match s.badIn pa n with
  | some c => (some (.bad c), s.metBytes pa n)
  | none =>
    if field then (some (.bad Cause.protection), s)
    else match op with
      | .read _ n => (some (.value (s.homeBytes pa n)), s)
      | .write _ data =>
        let r := (s.peerStored pa).homePut pa data.length (bytesVal data)
        (some (wroteReply r.1), r.2)
      | .spoil _ =>
        let s := if (s.holder (pa / 8)).isSome then s.clearHolder (pa / 8) else s
        (some (.value 0), (s.peerStored pa).setPoison (pa / 8) true)
      | .scrub _ v =>
        let s := (s.peerStored pa).setPoison (pa / 8) false
        let r := s.homePut pa 8 v.toNat
        (some (wroteReply r.1), r.2)
      | .nibble _ high v =>
        let old := s.homeBytes pa 1
        let r := (s.peerStored pa).homePut pa 1 (if high then old % 16 + v % 16 * 16 else old / 16 * 16 + v % 16)
        (some (wroteReply r.1), r.2)
      | .amo op _ n b c =>
        let r := (s.peerStored pa).amoAt op pa (n == 8) b.toNat c.toNat
        (some (match r.1 with
          | .ok v => .value v
          | .error c => .bad c), r.2)
      | .qacq _ _ _ =>
        let r := s.lockAcquire pa w
        (r.1.map .value, r.2)
      | .qtry _ ident =>
        let r := s.lockTry pa ident
        (some (.value r.1), r.2)
      | .qrel _ ident versioned =>
        let r := s.lockRelease pa ident versioned
        (some (.value r.1), r.2)
      | .group kind _ =>
        match kind with
        | 0 => let r := s.groupJoin pa w; (r.1.map .value, r.2)
        | 1 => let r := s.groupLeave pa; (some (.value r.1), r.2)
        | _ => let r := s.groupBar pa w; (r.1.map .value, r.2)

/-- The waiter that a request of a peer becomes. -/
def peerWaiter (n : Nat) : PeerOp → Waiter
  | .qacq _ ident versioned => ⟨true, 0, n, versioned, ident⟩
  | .group kind _ => ⟨true, 0, n, kind == 0, 0⟩
  | _ => ⟨true, 0, n, false, 0⟩

/-- Is the request a write-back or a store, which a home accepts only under the current incarnation (R401)? -/
def peerWrites : PeerOp → Bool
  | .write _ _ | .spoil _ => true
  | _ => false

/-- The service core of the quadrant of a word's home slice. -/
def State.homeSvc (s : State) (pa : Nat) : Nat := svcOfCluster (s.homeSlice pa)

/-- PEER_MODULE_ACCESS (R173, R352, R430): refused where the offset does not exist. A write from before a declaration is dropped and logged, and a package that is declared dead is not heard (R401). -/
def execPeerModuleAccess (sender : PeerFrom) (op : PeerOp) (s : State) : Host.Outcome State Fault Refusal :=
  let pkg := sender.pkg
  let inc := sender.inc
  if pkg = s.pkgid then .next s
  else if peerWrites op && inc % 256 ≠ (s.agent (.pkg pkg)).inc then .next (s.dropStale (.pkg pkg) (s.homeSvc op.offset) inc)
  else if (s.agent (.pkg pkg)).dead then .next s
  else
    .next (s.whole fun s =>
      let n := s.nextPeer
      let s := { s with nextPeer := n + 1 }
      let pa := op.offset
      if !s.exists pa then s.reply n (.bad Cause.regEmpty)
      else
        match (s.peerReach pa pkg).peerPerform pa (peerWaiter n op) op with
        | (some r, s) => s.reply n r
        | (none, s) => s)

/-! ### Page grants (R173, R174, R355) -/

/-- Is the page one of a peer's, class 010? -/
def foreignPage (page : Nat) : Bool := paClass (page * 65536) == 2

/-- The longest lease: 10 ms, in units of 10 us (R174). -/
def leaseMax : Nat := 1000

/-- The read leases of other packages that still run at a home (R174, R355). -/
def State.leasesLeft (s : State) (page pkg : Nat) : Bool := (s.lease page).readers.any fun e => e.1 != pkg && decide (s.fc < e.2)

/-- The home gives a grant and says so (R174, R352): a write grant alone, the length back at 10 us; a read grant with a lease that a renewal doubles. -/
def State.giveGrant (s : State) (page : Nat) (a : GrantAsk) : State :=
  let r := s.lease page
  let runs := r.readers.any fun e => e.1 == a.pkg && decide (s.fc < e.2)
  let len := if a.write then 1 else if runs then min leaseMax (2 * r.len) else r.len
  let r := if a.write then { r with len := len, readers := [], writer := some a.pkg }
    else { r with len := len, readers := KMap.ins r.readers a.pkg (s.fc + len * Config.leaseUnit) }
  (s.setLease page r).sendGrant a.pkg page (.grant page a.pkg a.write len)

/-- The requests for a page, in arrival order, as far as they can be given: one waits while another module may write the page, whose grant the home recalls, or for the read leases of others where it asks to write; no request passes a hand-over that is awaited, or a way that is held (R174, R355, R417). -/
def State.serveGrants (s : State) (page : Nat) : List GrantAsk → State
  | [] => s
  | a :: l =>
    let r := s.lease page
    if r.recalled.isSome || s.grantHeld a.pkg page then s
    else if r.writer.any fun p => !(p == a.pkg && a.write) then s.askRecall page
    else if a.write && s.leasesLeft page a.pkg then s
    else ((s.setLease page { r with asks := r.asks.drop 1 }).giveGrant page a).serveGrants page l

/-- The home serves what waits for a page. -/
def State.servePage (s : State) (page : Nat) : State := s.serveGrants page (s.lease page).asks

/-- Write home every registered and dirty word of a page of a peer, and clear its registrations (R174, hand-over); the copies go. -/
def State.handOver (s : State) (page : Nat) : State :=
  let mine (w : Nat) : Bool := w / 8192 == page
  let s := s.core.foldl (fun (s : State) e =>
    ((s.coreAt e.1).l1).foldl (fun (s : State) l =>
      if mine l.1 && (l.2.dirty || l.2.reg) then ((s.reach e.1 (8 * l.1) 8).writeBack e.1 l.1 l.2 (s.keyOf e.1 l.2.uid) l.2.uid).dropL1 e.1 l.1 else s) s) s
  let s := s.cl.foldl (fun (s : State) e =>
    ((s.clAt e.1).near).foldl (fun (s : State) l => if mine l.1 then (s.reach ((clusterCores e.1).headD 0) (8 * l.1) 8).evictNear e.1 (l.1 / 8) else s) s) s
  s.dropPage page

/-- The grantee's grant of a page ends: its words go home, its lines are dropped (R174). -/
def State.dropGrant (s : State) (page : Nat) : State := { s.handOver page with grants := KMap.put none s.grants page none }

/-- The grantee returns a page, and tells its home (R174, R352). -/
def State.returnGrant (s : State) (page : Nat) : State :=
  match KMap.find none s.grants page with
  | some g => (s.dropGrant page).sendGrant g.pkg page (.back page)
  | none => s

/-- PAGE_GRANT_REQUEST (R174, R355): of this module for a page of a peer, given at once with a lease of `aim.len` units that is timed from the request; or of a peer for a page of this module, which is served in its turn. -/
def execPageGrantRequest (page pkg : Nat) (aim : GrantAim) (s : State) : Host.Outcome State Fault Refusal :=
  let write := aim.write
  if foreignPage page then
    let home := bitsAt (page * 65536) 39 10
    if pkg = s.pkgid || home ≠ pkg || !s.reached home then .next s
    else
      .next (s.whole fun s =>
        let turns := !write && (KMap.find none s.grants page).any fun g => g.write
        let s := if turns then s.returnGrant page else s
        let s := s.sendGrant home page (.request page write)
        { s with grants := KMap.put none s.grants page
                   (some ⟨home, write, s.fc + max 1 (min leaseMax aim.len) * Config.leaseUnit⟩) })
  else if pkg = s.pkgid || (s.agent (.pkg pkg)).dead || !s.exists (page * 65536) then .next s
  else
    let r := s.lease page
    .next ((s.setLease page { r with asks := r.asks ++ [⟨pkg, write⟩] }).servePage page)

/-- Is the lease of a read grant at its end? -/
def PageGrant.ended (g : PageGrant) (now : Nat) : Bool := !g.write && decide (g.ends ≤ now)

/-- READ_LEASE_EXPIRY (R174): at the end of its lease the grantee drops the page's lines. -/
def execReadLeaseExpiry (page : Nat) (s : State) : Host.Outcome State Fault Refusal :=
  match KMap.find none s.grants page with
  | some g => .next (if g.ended s.fc then s.whole fun s => s.dropGrant page else s)
  | none => .next s

/-- Leases of this module's read grants that have come to their end: no access uses such a copy (R174, R355). -/
def State.lapseGrants (s : State) : State :=
  s.grants.foldl (fun (s : State) e => match e.2 with
    | some g => if g.ended s.fc then s.whole fun s => s.dropGrant e.1 else s
    | none => s) s

/-- Time passes: what ends by itself at its time ends (R174). -/
def State.later (s : State) (d : Nat) : State := { s with fc := s.fc + d }.lapseGrants

/-- GRANT_HAND_OVER (R174, R355, R401): as grantee the page goes back, early where it was lent to be read; as home the page comes back from a package, under its current incarnation, and what waits for it goes on. -/
def execGrantHandOver (h : HandOver) (s : State) : Host.Outcome State Fault Refusal :=
  let page := h.page
  let pkg := h.pkg
  if foreignPage page then .next (s.whole fun s => s.returnGrant page)
  else if h.inc % 256 ≠ (s.agent (.pkg pkg)).inc then .next (s.dropStale (.pkg pkg) (s.homeSvc (page * 65536)) h.inc)
  else
    let r := s.lease page
    let s := s.setLease page { r with readers := r.readers.filter fun e => e.1 != pkg }
    .next ((if r.writer = some pkg then s.endLoan page else s).servePage page)

/-- GRANT_RECALL (R174, R355): the home recalls a write grant, and its accesses wait until the grantee's words have come home; a grantee that is recalled hands the page over. -/
def execGrantRecall (page : Nat) (s : State) : Host.Outcome State Fault Refusal :=
  .next (if foreignPage page then s.whole fun s => s.returnGrant page else s.askRecall page)

/-- LEASE_RECORD_EXPIRY (R174, R355): the home's record of a lease ends at its time; requests that can be given now are. -/
def execLeaseRecordExpiry (page pkg : Nat) (s : State) : Host.Outcome State Fault Refusal :=
  let r := s.lease page
  .next (if r.readers.any fun e => e.1 == pkg && decide (e.2 ≤ s.fc) then
    (s.setLease page { r with readers := r.readers.filter fun e => e.1 != pkg }).servePage page else s.servePage page)

/-! ### Base dies (R356, R358, R402) -/

/-- BASE_DIE_ATOMIC_RESULT (R358, R402): atomics on one line return in order. -/
def execBaseDieAtomicResult (n : Nat) (bad : Bool) (s : State) : Host.Outcome State Fault Refusal :=
  match s.baseq[n]? with
  | none => .next s
  | some b => .next (if ((s.baseq.take n).any fun a => a.pa / 64 == b.pa / 64) || !(s.pendAt b.pend).all fun p => p.origin.isBase then s
      else s.baseResult n bad)

/-- MBI_LANE_TURN (R356): at a refresh boundary the written value takes effect. -/
def execMbiLaneTurn (stack : Nat) (s : State) : Host.Outcome State Fault Refusal :=
  match KMap.find none s.mbiNext stack with
  | some v => .next { s with mbicfg := KMap.put 4 s.mbicfg stack v, mbiNext := KMap.put none s.mbiNext stack none }
  | none => .next s

/-- CXL_CACHE_SNOOP (R175, R348): a near partition answers whether it has the line; its copy is current again, with the host's data. A module that is held in reset completes it with an error (R359). -/
def execCxlCacheSnoop (cl pa : Nat) (data : List Byte) (s : State) : Host.Outcome State Fault Refusal :=
  if paClass pa ≠ 3 || s.cxlDown || !s.clusterPresent cl then .next s
  else if !s.booted then .next { s with out := { s.out with snoops := s.out.snoops ++ [(cl, pa, none)] } }
  else
    let has := (wordsOf (pa / 64 * 64) 64).any fun w => (s.near cl w).isSome
    let s := (s.homePut pa data.length (bytesVal data)).2
    .next { s with out := { s.out with snoops := s.out.snoops ++ [(cl, pa, some has)] } }

/-! ### Links (R351, R352, R417, R418) -/

/-- LINK_RETRY (R351, R422, R423): what a retry or the code corrects changes no value, order or resource, and only time passes. What a check detects and cannot correct is a flaw of its word, which the next access at home meets, the loss of the payload of a message or of a CBU item (R422), or the loss of a register of a thread (R392, R395, R421; log 37). -/
def execLinkRetry (r : Retry) (s : State) : Host.Outcome State Fault Refusal :=
  .next (match r.found with
    | .corrected => s
    | .word w => { s with flaws := KMap.put false s.flaws w true }
    | .message n => { s with msgs := s.msgs.modify n fun m => { m with bad := true } }
    | .item cl slot n => s.updCl cl fun k => { k with sessions := k.sessions.map fun e =>
        if e.1 = slot then (e.1, e.2.map fun v => { v with items := v.items.modify n fun i => { i with bad := true } }) else e }
    | .reg core idx code =>
      let c : CtxId := ⟨core, idx⟩
      if (s.ctxAt c).occ = .free then s else s.updCtx c fun x => { x with regErr := some code })

/-- Every service core logs a link failure (R417, R420 kind 7). -/
def State.logLink (s : State) (cause val : Nat) : State :=
  (upTo 16).foldl (fun (s : State) k => s.logFault (1024 + k) ⟨7, cause, 0, none, 0, val, 0⟩) s

/-- UCIE_EDGE_FAIL (R417): traffic that must cross the edge waits. -/
def execUcieEdgeFail (die nb : Nat) (s : State) : Host.Outcome State Fault Refusal :=
  let e := (min die nb, max die nb)
  .next (if 4 ≤ die || 4 ≤ nb || (nb ≠ Nat.xor die 1 && nb ≠ Nat.xor die 2) || s.edgeFail.contains e then s
    else { s with edgeFail := s.edgeFail ++ [e] }.logLink 1 (4 * die + nb))

/-- UALINK_PORT_FAIL (R417, R418). -/
def execUalinkPortFail (port : Nat) (s : State) : Host.Outcome State Fault Refusal :=
  .next (if 16 ≤ port then s
    else ({ s with portfail := setBit s.portfail port true }.logLink 2 port).suspectUnreached)

/-- CXL_LINK_DOWN (R417). -/
def execCxlLinkDown (s : State) : Host.Outcome State Fault Refusal := .next ({ s with cxlDown := true }.logLink 3 0)

/-- PORTFAIL (R418): a MON write that reaccepts ports. -/
def execPortfail (v : Word) (s : State) : Host.Outcome State Fault Refusal := .next (s.clearPorts v.toNat)

/-! ### Agents (R398 to R401) -/

/-- AGENT_SUSPECT (R399). -/
def execAgentSuspect (a : Agent) (svc pa : Nat) (s : State) : Host.Outcome State Fault Refusal := .next (s.suspect a svc pa)

/-- AGENT_DECLARE_DEAD (R400): a MON write of DEAD = 1. -/
def execAgentDeclareDead (a : Agent) (s : State) : Host.Outcome State Fault Refusal := .next (s.declareDead a)

/-- AGENT_READMIT (R400): a MON write of DEAD = 0. -/
def execAgentReadmit (a : Agent) (s : State) : Host.Outcome State Fault Refusal := .next (s.readmit a)

/-- AGENT_STATE_WRITE (R398): a MON write of an agent's register. -/
def execAgentStateWrite (a : Agent) (v : Word) (s : State) : Host.Outcome State Fault Refusal := .next (s.writeAgent a v.toNat)

/-- STALE_MESSAGE_DROP (R401). -/
def execStaleMessageDrop (a : Agent) (svc inc : Nat) (s : State) : Host.Outcome State Fault Refusal := .next (s.dropStale a svc inc)

end Sys2Proof.Machine
end

