-- ==== Sys2Proof/Machine/EventUnits.lean ====
section
/-! DEFINITION. Events of the Ferry engines, the outer-product array and the erg arbiter (R166, R275 to R279, R296 to R300, R334 to R336, R391, R407, R416). -/
namespace Sys2Proof.Machine

/-! ### Ferry (R166, R296 to R300, R391, R403 to R408) -/

/-- Are the engines of a cluster there: the cluster present, its die not declared dead? Keys 256 + s are service core s. -/
def State.enginesLive (s : State) (cl : Nat) : Bool :=
  if cl < 256 then s.clusterPresent cl && !(KMap.find AgentSt.reset s.agDie (cl / 64)).dead
  else decide (cl < 272) && !s.coreDead (768 + cl)

/-- FERRY_TAKE (R299). -/
def execFerryTake (cl : Nat) (s : State) : Host.Outcome State Fault Refusal :=
  .next (if s.enginesLive cl then s.whole fun s => s.ferryTakeAt cl else s)

/-- LANDING_COUNT (R166, R303): one access of the n-th command's counting, where the way to the port is open (R417). -/
def execLandingCount (cl n : Nat) (s : State) : Host.Outcome State Fault Refusal :=
  .next (s.whole fun s => (match (s.jobAt cl n).bind fun j => j.land with
    | some pa => s.reach ((clusterCores cl).headD 0) pa 16
    | none => s).landCount cl n)

/-- RING_RECORD_WRITE (R300). -/
def execRingRecordWrite (cl n : Nat) (s : State) : Host.Outcome State Fault Refusal := 
  .next (s.whole fun s => s.ringRecord cl n)

/-- FERRY_FINISH (R299, R302, R407). -/
def execFerryFinish (cl n : Nat) (s : State) : Host.Outcome State Fault Refusal := 
  .next (s.whole fun s => s.ferryFinishAt cl n)

/-- FERRY_WB_REWALK (R391). -/
def execFerryWbRewalk (cl n : Nat) (s : State) : Host.Outcome State Fault Refusal := 
  .next (s.whole fun s => s.ferryRewalk cl n)

/-! ### The outer-product array (R275 to R279, R416) -/

/-- Does a berth wait for a grant that it may have at a time: its request came no later (R276)? -/
def State.wants (s : State) (c : CtxId) (t : Nat) : Bool :=
  let x := s.ctxAt c
  x.lease == .waiting && (x.occ == .occupied || x.saving) && decide (x.leaseSince ≤ t)

/-- The berth of a core that the arbiter grants at a time: in WAIT, round-robin after the one granted last (R276). -/
def State.waitingBerth (s : State) (cl core t : Nat) : Option CtxId :=
  let last := KMap.find 7 (s.clAt cl).opaLastBerth (core % 4)
  ((upTo 8).map fun i => (⟨core, (last + 1 + i) % 8⟩ : CtxId)).find? fun c => s.wants c t

/-- The next grant of a cluster at a time: the first core after the last one with a berth in WAIT (R276). -/
def State.nextLease (s : State) (cl t : Nat) : Option CtxId :=
  ((upTo 4).map fun i => 4 * cl + ((s.clAt cl).opaLastCore + 1 + i) % 4).findSome? fun core => s.waitingBerth cl core t

/-- The fc of a cluster's next grant: the boundary that ended the last lease, the end of a freeze, or the fc of the first request (R276, R278). -/
def State.grantTime (s : State) (cl : Nat) : Nat :=
  let k := s.clAt cl
  let first := (s.leaseBerths cl).foldl (fun (m : Option Nat) c =>
    if s.wants c s.fc then some (match m with
      | some t => min t (s.ctxAt c).leaseSince
      | none => (s.ctxAt c).leaseSince) else m) none
  max k.opaBoundary (max k.opaThaw (first.getD s.fc))

/-- Grant a lease at a time: HELD, its clock at 0, an MLEASE that waits for it goes on (R275, R284). -/
def State.grantLease (s : State) (cl : Nat) (c : CtxId) (t : Nat) : State :=
  let s := s.updCl cl fun k =>
    { k with opaHeld := some c.key, leaseStart := t, opaBoundary := t, opaLastCore := c.core % 4,
             opaLastBerth := KMap.ins k.opaLastBerth (c.core % 4) c.idx }
  s.updCtx c fun x =>
    match x.wait with
    | some (.lease _) => { x with lease := .held, leaseUsed := 0, wait := none, token := some [] }
    | _ => { x with lease := .held, leaseUsed := 0 }

/-- LEASE_GRANT (R276): once the fc of the grant is over, so that every request of that fc has met the rotation. -/
def execLeaseGrant (cl : Nat) (s : State) : Host.Outcome State Fault Refusal :=
  let s := s.opaTick cl
  let t := s.grantTime cl
  .next (if (s.clAt cl).opaHeld.isSome || (s.clAt cl).frozen.isSome || decide (s.fc ≤ t) then s
    else match s.nextLease cl t with
      | some c => s.grantLease cl c t
      | none => s)

/-- OPA_COMMAND_ACCEPT (R275, R277): the holder's leased commands that are due are accepted, each at its own time. -/
def execOpaCommandAccept (cl : Nat) (s : State) : Host.Outcome State Fault Refusal := .next (s.opaTick cl)

/-- LEASE_CLOCK_EXPIRY (R275): a lease whose clock has reached its end lapses at its boundary. -/
def execLeaseClockExpiry (cl : Nat) (s : State) : Host.Outcome State Fault Refusal := .next (s.opaTick cl)

/-- OPA_FREEZE (R278): what was due before it happens first. It changes no value, no order and no resource (R423). -/
def execOpaFreeze (cl : Nat) (s : State) : Host.Outcome State Fault Refusal :=
  .next (if s.clusterPresent cl then (s.opaTick cl).freeze cl s.fc else s)

/-- Has the thread ended, its commands at the array performed? -/
def State.opaOver (s : State) (uid : Nat) : Bool :=
  match s.ctxOf uid with
  | some c => (s.ctxAt c).occ == .draining && !(s.ctxAt c).saving && (s.ctxAt c).stream.isEmpty
  | none => !s.core.any fun e => e.2.saved.any fun v => v.ctx.uid == uid

/-- Threads that ended in a freeze, with no command left, give up their slots and tiles (R30, R274). -/
def State.freeEnded (s : State) (cl : Nat) : State :=
  let k := s.clAt cl
  ((k.slots.filterMap fun e => e.2.owner) ++ k.tiles.filterMap fun e => e.2.owner).foldl (fun (s : State) uid =>
    if s.opaOver uid then s.freeOpa cl uid else s) s

/-- OPA_FREEZE_END (R278): every interval and the lease clock go on where they stood, shifted by the freeze; only time has passed (R423). -/
def execOpaFreezeEnd (cl : Nat) (s : State) : Host.Outcome State Fault Refusal :=
  match (s.clAt cl).frozen with
  | some t =>
    let d := s.fc - t
    .next ((s.updCl cl fun k =>
      { k with frozen := none, opaThaw := s.fc, opaBoundary := k.opaBoundary + d, leaseStart := k.leaseStart + d }).freeEnded cl)
  | none => .next s

/-- What an MRD reads of a tile (R290); elements that a fall of VLANES has put out of reach since it issued read zero (R94). -/
def State.tileVec (s : State) (c : CtxId) (p : Pend) (t i0 vl mask : Nat) : VReg :=
  let r : VReg := { p.vr with bits := ((s.clAt (clusterOf c.core)).tile t).readVec i0 vl mask p.vr.bits }
  match s.vsAt c with
  | some v => r.cut (grantBits v.g (s.coreAt c.core).vlanes) false
  | none => r

/-- MRD at its completion: the register receives the tile's elements (R290). -/
def State.readTile (s : State) (c : CtxId) (p : Pend) (t i0 vl mask : Nat) : State :=
  s.settle p fun y => y.writeResult { p with vr := s.tileVec c p t i0 vl mask }

/-- An MRD completes: its register is written, or fails in the lanes of a bad element (R290, R367, R394, R416). -/
def State.finishMrd (s : State) (c : CtxId) (p : Pend) (t i0 vl mask : Nat) (e : OpaErr) : State :=
  match e with
  | .acc i j =>
    let k := (i - i0) * 128 + j
    if i0 ≤ i && j < 128 && k < vl && bitAt mask k then
      let per := (s.coreAt c.core).vlanes
      let row := k / 2 / per
      let lanes := 2 ^ (k / 2 % per)
      s.settle p fun y => y.failResult { p with vr := (s.tileVec c p t i0 vl mask).dropLanes per row lanes } Cause.uncorrectable p.va (trapMask row lanes)
    else s.readTile c p t i0 vl mask
  | _ => s.readTile c p t i0 vl mask

/-- A command of a stream is performed and its entry freed; a thread that has ended gives up its slots and tiles with the last one (R30, R274). -/
def State.completeHead (s : State) (c : CtxId) (m : StreamEnt) (r : List StreamEnt) (e : OpaErr) : State :=
  let s := match m.cmd with
    | .mrd id t i0 vl mask =>
      match s.pendAt id with
      | some p => s.finishMrd c p t i0 vl mask e
      | none => s
    | cmd => s.opaPerform c cmd e
  let s := s.updCtx c fun x => { x with stream := r }
  let x := s.ctxAt c
  if r.isEmpty && x.occ == .draining && !x.saving then s.freeOpa (clusterOf c.core) x.uid else s

/-- OPA_COMMAND_COMPLETE (R278, R279, R416): the first command of a stream completes, unless it awaits its acceptance or the array is frozen. -/
def execOpaCommandComplete (core idx : Nat) (e : OpaErr) (s : State) : Host.Outcome State Fault Refusal :=
  let c : CtxId := ⟨core, idx⟩
  let s := s.opaTick (clusterOf core)
  match (s.ctxAt c).stream with
  | [] => .next s
  | m :: r =>
    .next (if (m.cmd.leased && !m.accepted) || m.cmd.ofLease || (s.clAt (clusterOf core)).frozen.isSome then s
      else s.whole fun s => s.completeHead c m r e)

/-! ### Ergs (R334 to R336) -/

/-- COMPOSE_FORM (R334, R335): the oldest waiting COMPOSE reserves what is there, and forms its erg once it has everything. -/
def execComposeForm (cl : Nat) (s : State) : Host.Outcome State Fault Refusal :=
  match (s.clAt cl).ergQueue with
  | [] => .next s
  | e :: r =>
    let c := CtxId.ofKey (e / 8)
    let n := e % 8
    let s := s.reserveBerths c.core n
    .next (if s.composeReady c.core n then
        ((s.formErg c n).updCtx c fun x => { x with wait := none, token := some [] }).serveErg cl r
      else s)

/-- ERG_MISPREDICT_SQUASH (R336): squashed instructions have no visible effect and take no trap. -/
def execErgMispredictSquash (_core _idx : Nat) (s : State) : Host.Outcome State Fault Refusal := .next s

end Sys2Proof.Machine
end

