-- ==== Sys2Proof/Machine/EventRegs.lean ====
section
/-! DEFINITION. Events that are writes of system and device registers (R42, R44, R94 to R100, R126, R204, R353, R356, R394, R415). The writer of a system register is the acting context. -/
namespace Sys2Proof.Machine

/-- ERRACC (R394). -/
def execErracc (core : Nat) (v : Word) (s : State) : Host.Outcome State Fault Refusal :=
  .next (if (s.logCore core).isSome then s.writeErracc core v.toNat else s)

/-- CBUKILL (R415). -/
def execCbukill (cl : Nat) (v : Word) (s : State) : Host.Outcome State Fault Refusal := .next (s.writeCbuKill cl v.toNat)

/-- MBICFG (R356): a MON write. -/
def execMbicfg (stack : Nat) (v : Word) (s : State) : Host.Outcome State Fault Refusal :=
  .next (if stack < 8 then s.writeMbi stack v.toNat else s)

/-- ROUTE (R353, R354): a MON write. -/
def execRoute (p : Nat) (v : Word) (s : State) : Host.Outcome State Fault Refusal :=
  .next (if p < 1024 then s.writeRoute p v.toNat else s)

/-- A write of a system register by the acting context, at a level that may write it (R27, R44, R95); banks that it moves hold the context until the move ends (R93, R98, R204). -/
def State.sysEvent (s : State) (n : Nat) (v : Word) : State :=
  match sysAccess n with
  | some (_, some need) =>
    if levelOk s.me.pl need then
      let r := s.writeSys n v.toNat
      if r.1 = 0 then r.2 else r.2.updMe fun x => { x with moving := some (0, 0) }
    else s
  | _ => s

/-- HTAB (R44). -/
def execHtab (v : Word) (s : State) : Host.Outcome State Fault Refusal := .next (s.sysEvent 0x032 v)

/-- HOTQ (R100): it acts on the service core's quadrant. -/
def execHotq (v : Word) (s : State) : Host.Outcome State Fault Refusal := .next (s.sysEvent 0x082 v)

/-- VLANES (R94). -/
def execVlanes (v : Word) (s : State) : Host.Outcome State Fault Refusal := .next (s.sysEvent 0x020 v)

/-- FLEXCFG (R98). -/
def execFlexcfg (v : Word) (s : State) : Host.Outcome State Fault Refusal := .next (s.sysEvent 0x021 v)

/-- SAVEPTR (R74, R99). -/
def execSaveptr (v : Word) (s : State) : Host.Outcome State Fault Refusal := .next (s.sysEvent 0x052 v)

/-- PTBASE and ASID (R99). -/
def execPtbase (asid : Bool) (v : Word) (s : State) : Host.Outcome State Fault Refusal :=
  .next (s.sysEvent (if asid then 0x051 else 0x050) v)

/-- PKGID (R20). -/
def execPkgid (v : Word) (s : State) : Host.Outcome State Fault Refusal := .next (s.sysEvent 0x073 v)

/-- MBOXPOL and MBOXDEPTH (R42). -/
def execMboxpol (depth : Bool) (v : Word) (s : State) : Host.Outcome State Fault Refusal :=
  .next (s.sysEvent (if depth then 0x030 else 0x031) v)

/-- FCSR and SEEDSR (R205): the write waits for the flag setters and generator draws that the thread has issued. -/
def execFcsr (seed : Bool) (v : Word) (s : State) : Host.Outcome State Fault Refusal :=
  match (numericIdle 0x010).go s with
  | (.ok _, _) => .next (s.sysEvent (if seed then 0x011 else 0x010) v)
  | (.error _, _) => .next s

/-- DEVICE_REGISTER_WRITE (R126): a SUP write at an offset. -/
def execDeviceRegisterWrite (off : Nat) (v : Word) (s : State) : Host.Outcome State Fault Refusal :=
  .next (s.writeDev off v.toNat 1)

end Sys2Proof.Machine
end

