-- ==== Sys2Proof/Machine/Dispatch.lean ====
section
/-! DEFINITION. The meaning of every instruction and event: one arm each, one direct call of its meaning. -/
namespace Sys2Proof.Machine

/-- What an instruction or an event does to the state. -/
def exec (i : Instr) (s : State) : Host.Outcome State Fault Refusal :=
  match i with
  | .nop => Sys2Proof.Machine.execNop s
  | .br imm => Sys2Proof.Machine.execBr imm s
  | .call imm => Sys2Proof.Machine.execCall imm s
  | .jr a => Sys2Proof.Machine.execJr a s
  | .callr a => Sys2Proof.Machine.execCallr a s
  | .ret => Sys2Proof.Machine.execRet s
  | .bccEq a b imm => Sys2Proof.Machine.execBccEq a b imm s
  | .bccNe a b imm => Sys2Proof.Machine.execBccNe a b imm s
  | .bccLt a b imm => Sys2Proof.Machine.execBccLt a b imm s
  | .bccGe a b imm => Sys2Proof.Machine.execBccGe a b imm s
  | .bccLtn a b imm => Sys2Proof.Machine.execBccLtn a b imm s
  | .bccGen a b imm => Sys2Proof.Machine.execBccGen a b imm s
  | .bz a imm => Sys2Proof.Machine.execBz a imm s
  | .bnz a imm => Sys2Proof.Machine.execBnz a imm s
  | .trap imm => Sys2Proof.Machine.execTrap imm s
  | .brk imm => Sys2Proof.Machine.execBrk imm s
  | .tret => Sys2Proof.Machine.execTret s
  | .sysr d n => Sys2Proof.Machine.execSysr d n s
  | .sysw n a => Sys2Proof.Machine.execSysw n a s
  | .halt => Sys2Proof.Machine.execHalt s
  | .ifence => Sys2Proof.Machine.execIfence s
  | .add d a b => Sys2Proof.Machine.execAdd d a b s
  | .sub d a b => Sys2Proof.Machine.execSub d a b s
  | .and d a b => Sys2Proof.Machine.execAnd d a b s
  | .or d a b => Sys2Proof.Machine.execOr d a b s
  | .xor d a b => Sys2Proof.Machine.execXor d a b s
  | .andn d a b => Sys2Proof.Machine.execAndn d a b s
  | .shl d a b => Sys2Proof.Machine.execShl d a b s
  | .shr d a b => Sys2Proof.Machine.execShr d a b s
  | .shra d a b => Sys2Proof.Machine.execShra d a b s
  | .min d a b => Sys2Proof.Machine.execMin d a b s
  | .max d a b => Sys2Proof.Machine.execMax d a b s
  | .minn d a b => Sys2Proof.Machine.execMinn d a b s
  | .maxn d a b => Sys2Proof.Machine.execMaxn d a b s
  | .slt d a b => Sys2Proof.Machine.execSlt d a b s
  | .sltn d a b => Sys2Proof.Machine.execSltn d a b s
  | .seq d a b => Sys2Proof.Machine.execSeq d a b s
  | .mul d a b => Sys2Proof.Machine.execMul d a b s
  | .mulh d a b => Sys2Proof.Machine.execMulh d a b s
  | .mulhn d a b => Sys2Proof.Machine.execMulhn d a b s
  | .div d a b => Sys2Proof.Machine.execDiv d a b s
  | .divn d a b => Sys2Proof.Machine.execDivn d a b s
  | .rem d a b => Sys2Proof.Machine.execRem d a b s
  | .remn d a b => Sys2Proof.Machine.execRemn d a b s
  | .clz d a => Sys2Proof.Machine.execClz d a s
  | .ctz d a => Sys2Proof.Machine.execCtz d a s
  | .popc d a => Sys2Proof.Machine.execPopc d a s
  | .brev d a => Sys2Proof.Machine.execBrev d a s
  | .bswap d a => Sys2Proof.Machine.execBswap d a s
  | .sext w d a => Sys2Proof.Machine.execSext w d a s
  | .addi d a imm => Sys2Proof.Machine.execAddi d a imm s
  | .andi d a imm => Sys2Proof.Machine.execAndi d a imm s
  | .ori d a imm => Sys2Proof.Machine.execOri d a imm s
  | .xori d a imm => Sys2Proof.Machine.execXori d a imm s
  | .shli d a sh => Sys2Proof.Machine.execShli d a sh s
  | .shri d a sh => Sys2Proof.Machine.execShri d a sh s
  | .shrai d a sh => Sys2Proof.Machine.execShrai d a sh s
  | .slti d a imm => Sys2Proof.Machine.execSlti d a imm s
  | .sltni d a imm => Sys2Proof.Machine.execSltni d a imm s
  | .li d imm => Sys2Proof.Machine.execLi d imm s
  | .lea k d a imm => Sys2Proof.Machine.execLea k d a imm s
  | .addpc d imm => Sys2Proof.Machine.execAddpc d imm s
  | .sel d a b c => Sys2Proof.Machine.execSel d a b c s
  | .fadd t rm d a b => Sys2Proof.Machine.execFadd t rm d a b s
  | .fsub t rm d a b => Sys2Proof.Machine.execFsub t rm d a b s
  | .fmul t rm d a b => Sys2Proof.Machine.execFmul t rm d a b s
  | .fdiv t rm d a b => Sys2Proof.Machine.execFdiv t rm d a b s
  | .fmin t d a b => Sys2Proof.Machine.execFmin t d a b s
  | .fmax t d a b => Sys2Proof.Machine.execFmax t d a b s
  | .fsqrt t rm d a => Sys2Proof.Machine.execFsqrt t rm d a s
  | .fsgnj t d a b => Sys2Proof.Machine.execFsgnj t d a b s
  | .fsgnjn t d a b => Sys2Proof.Machine.execFsgnjn t d a b s
  | .fsgnjx t d a b => Sys2Proof.Machine.execFsgnjx t d a b s
  | .feq t d a b => Sys2Proof.Machine.execFeq t d a b s
  | .flt t d a b => Sys2Proof.Machine.execFlt t d a b s
  | .fle t d a b => Sys2Proof.Machine.execFle t d a b s
  | .fclass t d a => Sys2Proof.Machine.execFclass t d a s
  | .fmadd t rm d a b c => Sys2Proof.Machine.execFmadd t rm d a b c s
  | .fmsub t rm d a b c => Sys2Proof.Machine.execFmsub t rm d a b c s
  | .fnmadd t rm d a b c => Sys2Proof.Machine.execFnmadd t rm d a b c s
  | .fcvt dt st rm d a => Sys2Proof.Machine.execFcvt dt st rm d a s
  | .ld z d a off => Sys2Proof.Machine.execLd z d a off s
  | .st z a off x => Sys2Proof.Machine.execSt z a off x s
  | .lda z sc d a off => Sys2Proof.Machine.execLda z sc d a off s
  | .strel z sc a off x => Sys2Proof.Machine.execStrel z sc a off x s
  | .amoadd w o d a off b => Sys2Proof.Machine.execAmoadd w o d a off b s
  | .amoand w o d a off b => Sys2Proof.Machine.execAmoand w o d a off b s
  | .amoor w o d a off b => Sys2Proof.Machine.execAmoor w o d a off b s
  | .amoxor w o d a off b => Sys2Proof.Machine.execAmoxor w o d a off b s
  | .amomin w o d a off b => Sys2Proof.Machine.execAmomin w o d a off b s
  | .amomax w o d a off b => Sys2Proof.Machine.execAmomax w o d a off b s
  | .amominn w o d a off b => Sys2Proof.Machine.execAmominn w o d a off b s
  | .amomaxn w o d a off b => Sys2Proof.Machine.execAmomaxn w o d a off b s
  | .amoswap w o d a off b => Sys2Proof.Machine.execAmoswap w o d a off b s
  | .amocas w o d a off b c => Sys2Proof.Machine.execAmocas w o d a off b c s
  | .amofadd w o d a off b => Sys2Proof.Machine.execAmofadd w o d a off b s
  | .qacq sc d a off => Sys2Proof.Machine.execQacq sc d a off s
  | .qrel sc d a off => Sys2Proof.Machine.execQrel sc d a off s
  | .qtry sc d a off => Sys2Proof.Machine.execQtry sc d a off s
  | .vlock sc d a off => Sys2Proof.Machine.execVlock sc d a off s
  | .vunlock sc d a off => Sys2Proof.Machine.execVunlock sc d a off s
  | .waitvAny d sa me mk => Sys2Proof.Machine.execWaitvAny d sa me mk s
  | .waitvAll d sa me mk => Sys2Proof.Machine.execWaitvAll d sa me mk s
  | .wmbind n sc a b h => Sys2Proof.Machine.execWmbind n sc a b h s
  | .wmadv sc a off x => Sys2Proof.Machine.execWmadv sc a off x s
  | .acq sc n => Sys2Proof.Machine.execAcq sc n s
  | .rel sc n => Sys2Proof.Machine.execRel sc n s
  | .acqrel sc n => Sys2Proof.Machine.execAcqrel sc n s
  | .fence => Sys2Proof.Machine.execFence s
  | .rgninv sc n => Sys2Proof.Machine.execRgninv sc n s
  | .rgnwb n => Sys2Proof.Machine.execRgnwb n s
  | .scrub a off x => Sys2Proof.Machine.execScrub a off x s
  | .vcfg ty k0 vd => Sys2Proof.Machine.execVcfg ty k0 vd s
  | .setvl w g d a => Sys2Proof.Machine.execSetvl w g d a s
  | .setvlFree d => Sys2Proof.Machine.execSetvlFree d s
  | .vadd d a b m => Sys2Proof.Machine.execVadd d a b m s
  | .vsub d a b m => Sys2Proof.Machine.execVsub d a b m s
  | .vmul d a b m => Sys2Proof.Machine.execVmul d a b m s
  | .vdiv d a b m => Sys2Proof.Machine.execVdiv d a b m s
  | .vmin d a b m => Sys2Proof.Machine.execVmin d a b m s
  | .vmax d a b m => Sys2Proof.Machine.execVmax d a b m s
  | .vand d a b m => Sys2Proof.Machine.execVand d a b m s
  | .vor d a b m => Sys2Proof.Machine.execVor d a b m s
  | .vxor d a b m => Sys2Proof.Machine.execVxor d a b m s
  | .vshl d a b m => Sys2Proof.Machine.execVshl d a b m s
  | .vshr d a b m => Sys2Proof.Machine.execVshr d a b m s
  | .vshra d a b m => Sys2Proof.Machine.execVshra d a b m s
  | .vsadd d a b m => Sys2Proof.Machine.execVsadd d a b m s
  | .vssub d a b m => Sys2Proof.Machine.execVssub d a b m s
  | .vmulh d a b m => Sys2Proof.Machine.execVmulh d a b m s
  | .vmadd rm d a b c m => Sys2Proof.Machine.execVmadd rm d a b c m s
  | .vmsub rm d a b c m => Sys2Proof.Machine.execVmsub rm d a b c m s
  | .vnmadd rm d a b c m => Sys2Proof.Machine.execVnmadd rm d a b c m s
  | .vneg d a m => Sys2Proof.Machine.execVneg d a m s
  | .vabs d a m => Sys2Proof.Machine.execVabs d a m s
  | .vsqrt d a m => Sys2Proof.Machine.execVsqrt d a m s
  | .vrcp d a m => Sys2Proof.Machine.execVrcp d a m s
  | .vrsq d a m => Sys2Proof.Machine.execVrsq d a m s
  | .vexp2 d a m => Sys2Proof.Machine.execVexp2 d a m s
  | .vlog2 d a m => Sys2Proof.Machine.execVlog2 d a m s
  | .vnot d a m => Sys2Proof.Machine.execVnot d a m s
  | .vclz d a m => Sys2Proof.Machine.execVclz d a m s
  | .vpopc d a m => Sys2Proof.Machine.execVpopc d a m s
  | .vcmpEq md a b m => Sys2Proof.Machine.execVcmpEq md a b m s
  | .vcmpNe md a b m => Sys2Proof.Machine.execVcmpNe md a b m s
  | .vcmpLt md a b m => Sys2Proof.Machine.execVcmpLt md a b m s
  | .vcmpLe md a b m => Sys2Proof.Machine.execVcmpLe md a b m s
  | .vsel d a b mk => Sys2Proof.Machine.execVsel d a b mk s
  | .vcvt dt rm d a m => Sys2Proof.Machine.execVcvt dt rm d a m s
  | .vqnt dt rm d a => Sys2Proof.Machine.execVqnt dt rm d a s
  | .vredSum rm d a me mk => Sys2Proof.Machine.execVredSum rm d a me mk s
  | .vredMax rm d a me mk => Sys2Proof.Machine.execVredMax rm d a me mk s
  | .vredMin rm d a me mk => Sys2Proof.Machine.execVredMin rm d a me mk s
  | .vredAnd rm d a me mk => Sys2Proof.Machine.execVredAnd rm d a me mk s
  | .vredOr rm d a me mk => Sys2Proof.Machine.execVredOr rm d a me mk s
  | .vreds rm d a me mk => Sys2Proof.Machine.execVreds rm d a me mk s
  | .vdot rm d a b me mk => Sys2Proof.Machine.execVdot rm d a b me mk s
  | .vperm d a b m => Sys2Proof.Machine.execVperm d a b m s
  | .vslideUp d a n m => Sys2Proof.Machine.execVslideUp d a n m s
  | .vslideDn d a n m => Sys2Proof.Machine.execVslideDn d a n m s
  | .vext d a ix => Sys2Proof.Machine.execVext d a ix s
  | .vins d a x ix => Sys2Proof.Machine.execVins d a x ix s
  | .vbcast vd a me mk => Sys2Proof.Machine.execVbcast vd a me mk s
  | .viota vd me mk => Sys2Proof.Machine.execViota vd me mk s
  | .mand md ma mb m => Sys2Proof.Machine.execMand md ma mb m s
  | .mor md ma mb m => Sys2Proof.Machine.execMor md ma mb m s
  | .mxor md ma mb m => Sys2Proof.Machine.execMxor md ma mb m s
  | .mnot md ma m => Sys2Proof.Machine.execMnot md ma m s
  | .mpop d ma me mk => Sys2Proof.Machine.execMpop d ma me mk s
  | .mfirst d ma me mk => Sys2Proof.Machine.execMfirst d ma me mk s
  | .mset md x m => Sys2Proof.Machine.execMset md x m s
  | .vscget d va fa => Sys2Proof.Machine.execVscget d va fa s
  | .vscset vd va fa => Sys2Proof.Machine.execVscset vd va fa s
  | .vcompress d a me mk => Sys2Proof.Machine.execVcompress d a me mk s
  | .vexpand d a me mk => Sys2Proof.Machine.execVexpand d a me mk s
  | .vld ty d a imm m wm => Sys2Proof.Machine.execVld ty d a imm m wm s
  | .vlds ty d a imm x m wm => Sys2Proof.Machine.execVlds ty d a imm x m wm s
  | .vldff ty d a imm m wm => Sys2Proof.Machine.execVldff ty d a imm m wm s
  | .vst a imm b m => Sys2Proof.Machine.execVst a imm b m s
  | .vsts a imm b x m => Sys2Proof.Machine.execVsts a imm b x m s
  | .vldx wc d a imm b m wm => Sys2Proof.Machine.execVldx wc d a imm b m wm s
  | .vstx a imm b idx m => Sys2Proof.Machine.execVstx a imm b idx m s
  | .vldt d vb fb me mk wm => Sys2Proof.Machine.execVldt d vb fb me mk wm s
  | .vstt b shape m => Sys2Proof.Machine.execVstt b shape m s
  | .mlease k => Sys2Proof.Machine.execMlease k s
  | .mfree => Sys2Proof.Machine.execMfree s
  | .slclaim a b => Sys2Proof.Machine.execSlclaim a b s
  | .slfree a b => Sys2Proof.Machine.execSlfree a b s
  | .slloadRow fmt slot a imm b c => Sys2Proof.Machine.execSlloadRow fmt slot a imm b c s
  | .slloadCol fmt slot a imm b c => Sys2Proof.Machine.execSlloadCol fmt slot a imm b c s
  | .slloadScale slot a imm => Sys2Proof.Machine.execSlloadScale slot a imm s
  | .mop t sa sb fa fb k => Sys2Proof.Machine.execMop t sa sb fa fb k s
  | .mops t sa sb fa fb => Sys2Proof.Machine.execMops t sa sb fa fb s
  | .aclaim i32 t => Sys2Proof.Machine.execAclaim i32 t s
  | .afree t => Sys2Proof.Machine.execAfree t s
  | .mzero t => Sys2Proof.Machine.execMzero t s
  | .mrd d a me mk => Sys2Proof.Machine.execMrd d a me mk s
  | .mwr a vs me mk => Sys2Proof.Machine.execMwr a vs me mk s
  | .mst t a imm b c => Sys2Proof.Machine.execMst t a imm b c s
  | .msync => Sys2Proof.Machine.execMsync s
  | .ferry q => Sys2Proof.Machine.execFerry q s
  | .ferrynb d q => Sys2Proof.Machine.execFerrynb d q s
  | .lwinit d a imm b => Sys2Proof.Machine.execLwinit d a imm b s
  | .lwwait sc d a imm b => Sys2Proof.Machine.execLwwait sc d a imm b s
  | .lwread d a imm => Sys2Proof.Machine.execLwread d a imm s
  | .fjoin sc d a => Sys2Proof.Machine.execFjoin sc d a s
  | .fcpoll sc q a imm => Sys2Proof.Machine.execFcpoll sc q a imm s
  | .spawn d a b c => Sys2Proof.Machine.execSpawn d a b c s
  | .exit => Sys2Proof.Machine.execExit s
  | .yield => Sys2Proof.Machine.execYield s
  | .join d a imm => Sys2Proof.Machine.execJoin d a imm s
  | .leave sc d a imm => Sys2Proof.Machine.execLeave sc d a imm s
  | .gbar sc d a imm => Sys2Proof.Machine.execGbar sc d a imm s
  | .send rep sc q b => Sys2Proof.Machine.execSend rep sc q b s
  | .sendnb rep sc d q b => Sys2Proof.Machine.execSendnb rep sc d q b s
  | .hret => Sys2Proof.Machine.execHret s
  | .hmask d a => Sys2Proof.Machine.execHmask d a s
  | .hunmask d a => Sys2Proof.Machine.execHunmask d a s
  | .tspawn a imm => Sys2Proof.Machine.execTspawn a imm s
  | .grant q => Sys2Proof.Machine.execGrant q s
  | .watch once n d q => Sys2Proof.Machine.execWatch once n d q s
  | .unwatch d a => Sys2Proof.Machine.execUnwatch d a s
  | .getid k d => Sys2Proof.Machine.execGetid k d s
  | .cbopen d a => Sys2Proof.Machine.execCbopen d a s
  | .cbpost q => Sys2Proof.Machine.execCbpost q s
  | .cbtake d h => Sys2Proof.Machine.execCbtake d h s
  | .cbtakev vd h => Sys2Proof.Machine.execCbtakev vd h s
  | .cbdone a h me mk => Sys2Proof.Machine.execCbdone a h me mk s
  | .cbclose h => Sys2Proof.Machine.execCbclose h s
  | .compose nowait four d => Sys2Proof.Machine.execCompose nowait four d s
  | .decomp d => Sys2Proof.Machine.execDecomp d s
  | .erginfo d => Sys2Proof.Machine.execErginfo d s
  | .moduleReset => Sys2Proof.Machine.execModuleReset s
  | .clockChange rate => Sys2Proof.Machine.execClockChange rate s
  | .instructionFetch core idx => Sys2Proof.Machine.execInstructionFetch core idx s
  | .issueSelect core => Sys2Proof.Machine.execIssueSelect core s
  | .yieldHoldEnd core idx => Sys2Proof.Machine.execYieldHoldEnd core idx s
  | .longLatencyResult n r => Sys2Proof.Machine.execLongLatencyResult n r s
  | .bankMoveComplete core idx => Sys2Proof.Machine.execBankMoveComplete core idx s
  | .bankReturn core => Sys2Proof.Machine.execBankReturn core s
  | .drainComplete core idx => Sys2Proof.Machine.execDrainComplete core idx s
  | .reqMessageArrival m => Sys2Proof.Machine.execReqMessageArrival m s
  | .repMessageArrival m => Sys2Proof.Machine.execRepMessageArrival m s
  | .heldMessageEnter core rep n => Sys2Proof.Machine.execHeldMessageEnter core rep n s
  | .refused m => Sys2Proof.Machine.execRefused m s
  | .handlerStart core => Sys2Proof.Machine.execHandlerStart core s
  | .handlerStartNotice n => Sys2Proof.Machine.execHandlerStartNotice n s
  | .handlerSlotFree core slot => Sys2Proof.Machine.execHandlerSlotFree core slot s
  | .watchpointMatch n => Sys2Proof.Machine.execWatchpointMatch n s
  | .dependenceSatisfied inst => Sys2Proof.Machine.execDependenceSatisfied inst s
  | .pendingEnterQueue disp => Sys2Proof.Machine.execPendingEnterQueue disp s
  | .taskDispatch disp => Sys2Proof.Machine.execTaskDispatch disp s
  | .taskAging disp inst => Sys2Proof.Machine.execTaskAging disp inst s
  | .preempt disp => Sys2Proof.Machine.execPreempt disp s
  | .resume core => Sys2Proof.Machine.execResume core s
  | .taskCompletion inst => Sys2Proof.Machine.execTaskCompletion inst s
  | .hostMemWrite place data poisoned => Sys2Proof.Machine.execHostMemWrite place data poisoned s
  | .hostMemRead place n => Sys2Proof.Machine.execHostMemRead place n s
  | .hostBar0Write off v => Sys2Proof.Machine.execHostBar0Write off v s
  | .hirq v => Sys2Proof.Machine.execHirq v s
  | .spdmMeasurement => Sys2Proof.Machine.execSpdmMeasurement s
  | .shootdownGo port v => Sys2Proof.Machine.execShootdownGo port v s
  | .shootdownComplete port => Sys2Proof.Machine.execShootdownComplete port s
  | .wbRewalk core idx => Sys2Proof.Machine.execWbRewalk core idx s
  | .wbwaitExpiry core idx => Sys2Proof.Machine.execWbwaitExpiry core idx s
  | .l1Eviction core line => Sys2Proof.Machine.execL1Eviction core line s
  | .nearPartitionEviction cl line => Sys2Proof.Machine.execNearPartitionEviction cl line s
  | .homePartitionEviction line => Sys2Proof.Machine.execHomePartitionEviction line s
  | .forwardedRead core word => Sys2Proof.Machine.execForwardedRead core word s
  | .pageGrantRequest page pkg aim => Sys2Proof.Machine.execPageGrantRequest page pkg aim s
  | .readLeaseExpiry page => Sys2Proof.Machine.execReadLeaseExpiry page s
  | .grantHandOver h => Sys2Proof.Machine.execGrantHandOver h s
  | .grantRecall page => Sys2Proof.Machine.execGrantRecall page s
  | .baseDieAtomicResult n bad => Sys2Proof.Machine.execBaseDieAtomicResult n bad s
  | .ferryTake cl => Sys2Proof.Machine.execFerryTake cl s
  | .landingCount cl n => Sys2Proof.Machine.execLandingCount cl n s
  | .ringRecordWrite cl n => Sys2Proof.Machine.execRingRecordWrite cl n s
  | .ferryFinish cl n => Sys2Proof.Machine.execFerryFinish cl n s
  | .ferryWbRewalk cl n => Sys2Proof.Machine.execFerryWbRewalk cl n s
  | .leaseGrant cl => Sys2Proof.Machine.execLeaseGrant cl s
  | .opaCommandAccept cl => Sys2Proof.Machine.execOpaCommandAccept cl s
  | .leaseClockExpiry cl => Sys2Proof.Machine.execLeaseClockExpiry cl s
  | .opaFreeze cl => Sys2Proof.Machine.execOpaFreeze cl s
  | .composeForm cl => Sys2Proof.Machine.execComposeForm cl s
  | .ergMispredictSquash core idx => Sys2Proof.Machine.execErgMispredictSquash core idx s
  | .linkRetry r => Sys2Proof.Machine.execLinkRetry r s
  | .ucieEdgeFail die nb => Sys2Proof.Machine.execUcieEdgeFail die nb s
  | .ualinkPortFail port => Sys2Proof.Machine.execUalinkPortFail port s
  | .cxlLinkDown => Sys2Proof.Machine.execCxlLinkDown s
  | .portfail v => Sys2Proof.Machine.execPortfail v s
  | .agentSuspect a svc pa => Sys2Proof.Machine.execAgentSuspect a svc pa s
  | .agentDeclareDead a => Sys2Proof.Machine.execAgentDeclareDead a s
  | .agentReadmit a => Sys2Proof.Machine.execAgentReadmit a s
  | .staleMessageDrop a svc inc => Sys2Proof.Machine.execStaleMessageDrop a svc inc s
  | .erracc core v => Sys2Proof.Machine.execErracc core v s
  | .cbukill cl v => Sys2Proof.Machine.execCbukill cl v s
  | .mbicfg stack v => Sys2Proof.Machine.execMbicfg stack v s
  | .mbiLaneTurn stack => Sys2Proof.Machine.execMbiLaneTurn stack s
  | .route p v => Sys2Proof.Machine.execRoute p v s
  | .agentStateWrite a v => Sys2Proof.Machine.execAgentStateWrite a v s
  | .htab v => Sys2Proof.Machine.execHtab v s
  | .hotq v => Sys2Proof.Machine.execHotq v s
  | .vlanes v => Sys2Proof.Machine.execVlanes v s
  | .flexcfg v => Sys2Proof.Machine.execFlexcfg v s
  | .saveptr v => Sys2Proof.Machine.execSaveptr v s
  | .ptbase asid v => Sys2Proof.Machine.execPtbase asid v s
  | .pkgid v => Sys2Proof.Machine.execPkgid v s
  | .mboxpol depth v => Sys2Proof.Machine.execMboxpol depth v s
  | .fcsr seed v => Sys2Proof.Machine.execFcsr seed v s
  | .deviceRegisterWrite off v => Sys2Proof.Machine.execDeviceRegisterWrite off v s
  | .cxlCacheSnoop cl pa data => Sys2Proof.Machine.execCxlCacheSnoop cl pa data s
  | .peerModuleAccess sender op => Sys2Proof.Machine.execPeerModuleAccess sender op s
  | .leaseRecordExpiry page pkg => Sys2Proof.Machine.execLeaseRecordExpiry page pkg s
  | .opaFreezeEnd cl => Sys2Proof.Machine.execOpaFreezeEnd cl s
  | .opaCommandComplete core idx e => Sys2Proof.Machine.execOpaCommandComplete core idx e s

end Sys2Proof.Machine
end

