-- ==== Sys2Proof/Machine/Place.lean ====
section
/-! DEFINITION. Placing one instruction where the next step fetches it: an address space of one 64 GiB page, a line with one head, a thread of core 0 in berth 0 (R29, R133 to R135, R177, R178; log 7). -/
namespace Sys2Proof.Machine

/-- A line that holds one instruction. -/
def oneLine (word : Nat) : Nat :=
  let len := tailLen (word % 65536)
  0x1001 + word % 65536 * 65536 + word / 65536 % 256 ^ len * 256 ^ (64 - len)

/-- Store bytes where no cached copy, registration or poison hides them from a fetch by core 0. -/
def State.placeBytes (s : State) (pa n v : Nat) : State :=
  let s := { s with mem := writeBytes s.mem pa v n }
  (upTo (n / 8)).foldl (fun s k =>
    let w := pa / 8 + k
    (({ s with reg := KMap.put none s.reg w none, flaws := KMap.put false s.flaws w false }).setPoison w false).dropNear 0 w) s

/-- The page table that `State.placeWord` uses: one table at the root, one leaf that maps the first 64 GiB onto themselves, OWNED, region 1, readable, writable and executable at USR. -/
def placeRoot : Nat := 0x2000

/-- The line's address. -/
def placeAddr : Nat := 0x10000

/-- Make the next step issue this word from berth 0 of core 0. -/
def State.placeWord (s : State) (word : Nat) : State :=
  let s := { s with baseq := [], edgeFail := [], leases := KMap.del s.leases 0 }
  let s := s.placeBytes placeRoot 8 0x4001
  let s := s.placeBytes 0x4000 8 0x1DF
  let s := s.placeBytes placeAddr 64 (oneLine word)
  let s := s.updCl 0 fun c => { c with tlb := [] }
  let s := s.updCore 0 fun c => { c with icache := KMap.del c.icache (placeAddr / 64) }
  let s := s.updCtx ⟨0, 0⟩ fun x =>
    { x with occ := .occupied, uid := if x.occ = .free then s.nextUid else x.uid, ptbase := placeRoot, asid := 0,
             pc := placeAddr + 2, line := none, wait := none, moving := none, token := none, regErr := none, ergBit := false }
  { s with nextUid := s.nextUid + 1, bootstat := 2 ^ 24, agenda := [], chosen := some ⟨0, 0⟩,
           agCore := KMap.del s.agCore 0, agDie := KMap.del s.agDie 0,
           fuse := { s.fuse with clmask := KMap.del s.fuse.clmask 0, stkcfg := KMap.del (KMap.del s.fuse.stkcfg 0) 1 } }

end Sys2Proof.Machine
end

