-- ==== Sys2Proof/Machine/Schedule.lean ====
section
/-! DEFINITION. The default schedule: what happens next when the agenda names nothing (log 4). -/
namespace Sys2Proof.Machine

/-- The cores that hold a context, in ascending order. -/
def State.activeCores (s : State) : List Nat := (s.ctx.map fun e => e.1 / 16).eraseDups

/-- The issue opportunities of the cores that are left in this fc, up to the first that issues (R52). -/
def State.nextCore (run : Run) (s : State) : Option CtxId × State :=
  s.activeCores.foldl (fun (acc : Option CtxId × State) core => if acc.1.isSome then acc else acc.2.select run core) (none, s)

/-- One fc of the cores: the next of them that has an opportunity and a ready context issues; when none is left, the fc is over (R52). -/
def State.issueTurn (run : Run) (ends : State → State) (s : State) : Host.Outcome State Fault Refusal :=
  match s.nextCore run with
  | (some c, s') => s'.issueFrom run c
  | (none, s') => .next ((ends s').later 1)

/-! ### Events of the machine's own (R4: their times are open; log 4) -/

/-- What one event does. -/
abbrev Event := State → Host.Outcome State Fault Refusal

/-- The positions of a list. -/
def spots {α : Type} (l : List α) : List Nat := upTo l.length

/-- Results, messages and handlers on their way. -/
def State.dueTraffic (s : State) : List Event :=
  (s.pend.map fun p => execLongLatencyResult p.id .arrives) ++
  ((spots s.baseq).map fun n => execBaseDieAtomicResult n false) ++
  ((spots s.msgs).flatMap fun n =>
    [execReqMessageArrival (.inflight n), execRepMessageArrival (.inflight n), execRefused (.inflight n)]) ++
  ((spots s.notices).map execHandlerStartNotice) ++
  (s.core.flatMap fun e =>
    ((spots e.2.held).flatMap fun n => [execHeldMessageEnter e.1 false n, execHeldMessageEnter e.1 true n]) ++
      if e.2.box.isEmpty then [] else [execHandlerStart e.1])

/-- What the contexts wait for. -/
def State.dueContexts (s : State) : List Event :=
  s.ctx.flatMap fun e =>
    let c := CtxId.ofKey e.1
    (if e.2.occ == .draining then [execDrainComplete c.core c.idx, execHandlerSlotFree c.core (c.idx - 8)] else []) ++
    (if e.2.moving.isSome then [execBankMoveComplete c.core c.idx] else []) ++
    (if e.2.hold.isSome then [execYieldHoldEnd c.core c.idx] else []) ++
    (if e.2.stream.isEmpty then [] else [execOpaCommandComplete c.core c.idx .ok]) ++
    match e.2.wait with
    | some (.writeBlock _ _ _) => [execWbwaitExpiry c.core c.idx, execWbRewalk c.core c.idx]
    | _ => []

/-- What the dispatchers, the shootdown ports and the base dies have to do. -/
def State.dueTasks (s : State) : List Event :=
  ((spots s.hits).map execWatchpointMatch) ++
  (s.insts.flatMap fun e => match e.2.st with
    | .pending => [execDependenceSatisfied e.1]
    | .live => [execTaskCompletion e.1]
    | .queued => [execTaskAging e.2.owner e.1]
    | _ => []) ++
  (s.core.filterMap fun e => if e.2.saved.isEmpty then none else some (execResume e.1)) ++
  (s.disp.flatMap fun e => [execPendingEnterQueue e.1, execTaskDispatch e.1, execPreempt e.1]) ++
  (s.sd.filterMap fun e => if e.2.busy then some (execShootdownComplete e.1) else none) ++
  (s.mbiNext.map fun e => execMbiLaneTurn e.1) ++
  (s.leases.flatMap fun e =>
    (e.2.readers.map fun r => execLeaseRecordExpiry e.1 r.1) ++ e.2.asks.map fun a => execLeaseRecordExpiry e.1 a.pkg)

/-- What the cores' banks and the clusters' units have to do. -/
def State.dueUnits (s : State) : List Event :=
  (s.core.flatMap fun e => [execBankReturn e.1, execFerryTake (clusterOf e.1)]) ++
  (s.ctx.filterMap fun e => if e.2.lease == .waiting then some (execLeaseGrant (clusterOf (e.1 / 16))) else none) ++
  s.cl.flatMap fun e =>
    ((spots e.2.jobs).flatMap fun n =>
      [execFerryWbRewalk e.1 n, execLandingCount e.1 n, execRingRecordWrite e.1 n, execFerryFinish e.1 n]) ++
    [execOpaCommandAccept e.1, execLeaseClockExpiry e.1] ++
    if e.2.ergQueue.isEmpty then [] else [execComposeForm e.1]

/-- The first event of the machine's own that changes anything. -/
def State.nextEvent (s : State) : Option State :=
  (s.dueTraffic ++ s.dueContexts ++ s.dueTasks ++ s.dueUnits).findSome? fun e =>
    match e s with
    | .next s' => if s' = s then none else some s'
    | _ => none

/-- One step of the default schedule: events and instructions take turns; when every core has had its opportunity, the fc ends. -/
def State.defaultStep (run : Run) (s : State) : Host.Outcome State Fault Refusal :=
  let event := if s.turn then none else s.nextEvent
  match event with
  | some s' => .next { s' with turn := true }
  | none => ({ s with turn := false } : State).issueTurn run id

/-- A step of a module that has not booted: the boot ends; or the module is held, and only a reset and the host's requests act (R359). -/
def State.inReset (s : State) : Host.Outcome State Fault Refusal :=
  let s := { s with chosen := none }
  if bitsAt s.bootstat 24 8 = 0 then .next (s.boot.later 1)
  else match s.agenda with
    | [] => .next (s.later 1)
    | (dt, e) :: r =>
      let s := { s with agenda := r }.later dt
      match e with
      | .moduleReset => execModuleReset s
      | .hostMemRead p n => execHostMemRead p n s
      | .hostMemWrite p data poisoned => execHostMemWrite p data poisoned s
      | .hostBar0Write off v => execHostBar0Write off v s
      | .cxlCacheSnoop cl pa data => execCxlCacheSnoop cl pa data s
      | .spdmMeasurement => execSpdmMeasurement s
      | _ => .next s

end Sys2Proof.Machine
end

