-- ==== Sys2Proof/Machine/Step.lean ====
section
/-! DEFINITION. One step of the machine: the instruction of a chosen context, the next event of the agenda, or what the default schedule gives (R52; log 4). -/
namespace Sys2Proof.Machine

/-- What an entry of the agenda does: an event happens; an instruction of a line is no event. -/
def State.happen (s : State) (e : Instr) : Host.Outcome State Fault Refusal :=
  match encode e with
  | none => exec e s
  | some _ => .next s

/-- What happens next: the instruction of a chosen context; the next event of the agenda, or an issue in the fc that pass before it; or what the default schedule gives. -/
def State.act (s : State) : Host.Outcome State Fault Refusal :=
  if s.booted then
    match s.chosen, s.agenda with
    | some c, _ => s.issueFrom exec c
    | none, (0, e) :: r => State.happen { s with agenda := r } e
    | none, (dt + 1, e) :: r => s.issueTurn exec fun s => { s with agenda := (dt, e) :: r }
    | none, [] => s.defaultStep exec
  else s.inReset

/-- An outcome with the caches within their capacity and the host accesses counted. -/
def tidied (o : Host.Outcome State Fault Refusal) : Host.Outcome State Fault Refusal :=
  match o with
  | .next s => .next s.tidy
  | .fault f => .fault f
  | .refused r => .refused r

/-- One step. -/
def step (s : State) : Host.Outcome State Fault Refusal := tidied s.act

/-- The state in which the next step fetches and runs the given instruction word (log 7). -/
def State.withFetchWord (s : State) (nbits w : Nat) : State := s.placeWord (w % 2 ^ nbits)

end Sys2Proof.Machine
end

