-- ==== Sys2Proof/Safety.lean ====
section
/-! DEFINITION. What counts as a safe state and a safe step, and the conditions under which an instruction runs undisturbed, in the terms that claims use. -/
namespace Sys2Proof.Machine

/-- The part of a state that every step keeps: the memory is in its canonical form. -/
def State.Inv (s : State) : Prop := Memory.wf s.mem = true

/-- A step that answers a next state. -/
def State.Steps (s s' : State) : Prop := step s = .next s'

/-- The operands of an instruction are there: no source that it reads with F = 1 has failed (R372 step 5), none is empty (R79), no destination waits for an older producer (R80), and a last result is read after every earlier vector result (R265). -/
def State.OpsReady (s : State) (srcs dsts : List Opd) : Prop :=
  s.me.failedSrc srcs = none ∧ s.me.waitsSrc srcs = false ∧ s.me.waitsDst dsts = false ∧
    (srcs.any Opd.isLast = true → s.lastDue s.me.uid = false)

/-- The acting context's translation of an address is answered by its caches: nothing in the state changes (R142). -/
def State.Translates (s : State) (va : Nat) (kind : Kind) (x : Xl) : Prop := (xlateM va kind).go s = (.ok x, s)

/-- The acting context may execute vector instructions: its core has a vector unit (R13), it is no erg (R342), and it holds vector state `v` (R88). -/
def State.VectorReady (s : State) (v : VState) : Prop :=
  isSvc s.cur.core = false ∧ (s.me.ergBit && !s.me.trapBit) = false ∧ s.me.vs = some v

/-- Every earlier access of the acting thread is performed, and no error is due at a wait point (R156, R393). -/
def State.Quiet (s : State) : Prop := s.unperformed s.me.uid = false ∧ s.me.reports = []

/-- No access in the list, each with its core, address and length, is held on its way, and none goes to a page that a peer may write (R174, R358, R417, R418). -/
def State.WayFree (s : State) (l : List (Nat × Nat × Nat)) : Prop := ∀ a ∈ l, s.heldBack a.1 a.2.1 a.2.2 = false

/-- The acting context may release at a scope over regions: its earlier accesses are performed, and the homes that the release writes to can be reached. -/
def State.MayRelease (s : State) (sc g : Nat) : Prop :=
  s.unperformed s.me.uid = false ∧ (1 ≤ sc → s.WayFree (s.releaseHomes (s.me.l1s s.cur.core) g))

/-- The state after an instruction of the acting context that traps at its own head, with `t` what it has done: the trap is taken; that of an erg waits for what hand-back waits for, and one that ends its thread or handler for the homes that the end needs (R343, R366, R417). -/
def State.traps (s t : State) (cause value mask : Nat) : State :=
  if s.trapWaits s.cur cause then s.trapLater s.cur cause else t.takeTrap s.cur cause value mask s.me.pc

/-- The state after an instruction of the acting context that changes it by `f` and goes on to the next head. -/
def State.ends (s : State) (f : Ctx → Ctx) : State := s.updMe fun c => (f c).advance.done

/-- The state after an instruction that writes one scalar register. -/
def State.writes (s : State) (d : Reg) (v : Word) : State := s.ends fun c => c.setX d.toNat v

end Sys2Proof.Machine

namespace Sys2Proof.Claims
open Sys2Proof.Machine

/-! ### Shapes of claims -/

/-- The content of a scalar source in the acting context. -/
def val (s : State) (a : Src) : Word := s.me.getX a.r.toNat

/-- A form of two scalar sources writes `f` of their contents. -/
def Binary (i : Reg → Src → Src → Instr) (f : Word → Word → Word) : Prop :=
  ∀ (s : State) (d : Reg) (a b : Src), s.OpsReady [srcX a, srcX b] [dstX d] →
    exec (i d a b) s = .next (s.writes d (f (val s a) (val s b)))

/-- A form of one scalar source writes `f` of its content. -/
def Unary (i : Reg → Src → Instr) (f : Word → Word) : Prop :=
  ∀ (s : State) (d : Reg) (a : Src), s.OpsReady [srcX a] [dstX d] → exec (i d a) s = .next (s.writes d (f (val s a)))

/-- A form of one scalar source writes some value that stands in the relation `p` to its content. -/
def UnaryRel (i : Reg → Src → Instr) (p : Word → Word → Prop) : Prop :=
  ∀ (s : State) (d : Reg) (a : Src), s.OpsReady [srcX a] [dstX d] →
    ∃ v, p (val s a) v ∧ exec (i d a) s = .next (s.writes d v)

/-- A truth value as a register holds it. -/
def truth (b : Bool) : Word := if b then 1 else 0

/-- The registers, accumulators, control registers, memory and caches that an instruction leaves alone when all it may change is the registers `ds` of the acting context, its PC and its FCSR and SEEDSR. -/
def OnlyRegs (s t : State) (ds : List Nat) : Prop :=
  { t with ctx := s.ctx } = s ∧
  (∀ a, readByte t.mem a = readByte s.mem a) ∧
  (∀ c : CtxId, c.key ≠ s.cur.key → t.ctxAt c = s.ctxAt c) ∧
  (∀ r, r ∉ ds → t.me.getX r = s.me.getX r ∧ t.me.stX r = s.me.stX r) ∧
  t.me.getX 0 = 0 ∧
  { t.me with x := s.me.x, xs := s.me.xs, pc := s.me.pc, line := s.me.line, entry := s.me.entry, wait := s.me.wait,
              token := s.me.token, asks := s.me.asks, pas := s.me.pas, fcsr := s.me.fcsr, seed := s.me.seed } = s.me

/-- The instruction waits: nothing but the mark of the wait changes. -/
def Waits (s t : State) : Prop := t = { s with waited := true }

/-- The instruction traps at its own head with nothing done. -/
def Traps (s t : State) : Prop := ∃ cause value mask, t = s.traps s cause value mask

/-- The destination of the register forms of R209 to R219. -/
def scalarDst : Instr → Option Reg
  | .add d _ _ | .sub d _ _ | .and d _ _ | .or d _ _ | .xor d _ _ | .andn d _ _ | .shl d _ _ | .shr d _ _
  | .shra d _ _ | .min d _ _ | .max d _ _ | .minn d _ _ | .maxn d _ _ | .slt d _ _ | .sltn d _ _ | .seq d _ _
  | .mul d _ _ | .mulh d _ _ | .mulhn d _ _ | .div d _ _ | .divn d _ _ | .rem d _ _ | .remn d _ _
  | .clz d _ | .ctz d _ | .popc d _ | .brev d _ | .bswap d _ | .sext _ d _
  | .addi d _ _ | .andi d _ _ | .ori d _ _ | .xori d _ _ | .shli d _ _ | .shri d _ _ | .shrai d _ _
  | .slti d _ _ | .sltni d _ _ | .li d _ | .lea _ d _ _ | .addpc d _ | .sel d _ _ _ => some d
  | _ => none

/-- The destination of the floating-point forms. -/
def floatDst : Instr → Option Reg
  | .fadd _ _ d _ _ | .fsub _ _ d _ _ | .fmul _ _ d _ _ | .fdiv _ _ d _ _ | .fmin _ d _ _ | .fmax _ d _ _
  | .fsqrt _ _ d _ | .fsgnj _ d _ _ | .fsgnjn _ d _ _ | .fsgnjx _ d _ _ | .feq _ d _ _ | .flt _ d _ _
  | .fle _ d _ _ | .fclass _ d _ | .fmadd _ _ d _ _ _ | .fmsub _ _ d _ _ _ | .fnmadd _ _ d _ _ _ | .fcvt _ _ _ d _ => some d
  | _ => none

/-- The sources of the register forms, in the order in which they are checked. -/
def scalarSrcs : Instr → List Src
  | .add _ a b | .sub _ a b | .and _ a b | .or _ a b | .xor _ a b | .andn _ a b | .shl _ a b | .shr _ a b
  | .shra _ a b | .min _ a b | .max _ a b | .minn _ a b | .maxn _ a b | .slt _ a b | .sltn _ a b | .seq _ a b
  | .mul _ a b | .mulh _ a b | .mulhn _ a b | .div _ a b | .divn _ a b | .rem _ a b | .remn _ a b
  | .fadd _ _ _ a b | .fsub _ _ _ a b | .fmul _ _ _ a b | .fdiv _ _ _ a b | .fmin _ _ a b | .fmax _ _ a b
  | .fsgnj _ _ a b | .fsgnjn _ _ a b | .fsgnjx _ _ a b | .feq _ _ a b | .flt _ _ a b | .fle _ _ a b => [a, b]
  | .clz _ a | .ctz _ a | .popc _ a | .brev _ a | .bswap _ a | .sext _ _ a
  | .addi _ a _ | .andi _ a _ | .ori _ a _ | .xori _ a _ | .shli _ a _ | .shri _ a _ | .shrai _ a _
  | .slti _ a _ | .sltni _ a _ | .lea _ _ a _ | .fsqrt _ _ _ a | .fclass _ _ a | .fcvt _ _ _ _ a => [a]
  | .sel _ a b c | .fmadd _ _ _ a b c | .fmsub _ _ _ a b c | .fnmadd _ _ _ a b c => [a, b, c]
  | _ => []

/-- The state after a floating-point instruction: its flags are added to FCSR, its result is in `d`. -/
def floats (s : State) (d : Reg) (r : Nat × Nat) : State :=
  s.ends fun c => ({ c with fcsr := c.fcsr ||| r.2 }).setX d.toNat (wd r.1)

/-- A floating-point form of two sources writes and raises what `f` gives for its format, its rounding and the two codes. -/
def Float2 (i : FTy → Reg → Src → Src → Instr) (f : Fmt → Nat → Nat → Nat → Nat × Nat) : Prop :=
  ∀ (s : State) (t : FTy) (d : Reg) (a b : Src), s.OpsReady [srcX a, srcX b] [dstX d] →
    exec (i t d a b) s =
      .next (floats s d (f (ftyFmt t) s.me.fcsr ((val s a).toNat % 2 ^ (ftyFmt t).width) ((val s b).toNat % 2 ^ (ftyFmt t).width)))

/-- A rounded operation on the values of two sources. -/
def FloatOp (i : FTy → RMode → Reg → Src → Src → Instr) (f : Fmt → Rnd → Fv → Fv → Nat × Nat) : Prop :=
  ∀ rm, Float2 (fun t => i t rm) fun k fcsr x y => f k (arith fcsr rm) (k.read x) (k.read y)

/-- A fused form. -/
def FloatFma (i : FTy → RMode → Reg → Src → Src → Src → Instr) (f : Fmt → Rnd → Fv → Fv → Fv → Nat × Nat) : Prop :=
  ∀ (s : State) (t : FTy) (rm : RMode) (d : Reg) (a b c : Src), s.OpsReady [srcX a, srcX b, srcX c] [dstX d] →
    let k := ftyFmt t
    let v (e : Src) := k.read ((val s e).toNat % 2 ^ k.width)
    exec (i t rm d a b c) s = .next (floats s d (f k (arith s.me.fcsr rm) (v a) (v b) (v c)))


/-! ### Control flow -/

/-- `t` is a head (R181): its line can be fetched, with the caches then as in `s'`, and a line that is well formed has that many heads. -/
def Head (s : State) (t : Nat) (s' : State) : Prop :=
  t % 2 = 0 ∧ t % 64 / 2 ≠ 0 ∧ s'.cur = s.cur ∧ s'.me = s.me ∧
  ∃ b, (fetchBytes (t / 64 * 64)).go s = (.ok b, s') ∧ ∀ h, lineOk b = some h → t % 64 / 2 ≤ h.n

/-- The address is no head: odd, at the header, or beyond the heads of its line. -/
def NoHead (s : State) (t : Nat) (s' : State) : Prop :=
  ((t % 2 = 1 ∨ t % 64 / 2 = 0) ∧ s' = s) ∨
  (t % 2 = 0 ∧ t % 64 / 2 ≠ 0 ∧ ∃ b h, (fetchBytes (t / 64 * 64)).go s = (.ok b, s') ∧ lineOk b = some h ∧ h.n < t % 64 / 2)

/-- Control goes on at `t`, which is an entry to its line. -/
def goes (s : State) (t : Nat) : State := s.updMe fun c => (c.goto t).done

/-- Control goes on at `t` with the next head in x15. -/
def links (s : State) (t : Nat) : State := s.updMe fun c => ((c.setX 15 (wd c.next)).goto t).done

/-- The target of a relative transfer: the base of its own line plus twice the offset. -/
def target (s : State) (e : BitVec 32) : Nat := (wd (s.me.pc - s.me.pc % 64) + 2 * e.signExtend 64).toNat

/-- A conditional branch on two registers: not taken it moves on and checks nothing, taken it goes to its target. -/
def Branch2 (i : Src → Src → BitVec 32 → Instr) (p : Word → Word → Prop) : Prop :=
  ∀ (s : State) (a b : Src) (e : BitVec 32), s.OpsReady [srcX a, srcX b] [] →
    (¬ p (val s a) (val s b) → exec (i a b e) s = .next (s.ends id)) ∧
    (p (val s a) (val s b) →
      (∀ s', Head s (target s e) s' → exec (i a b e) s = .next (goes s' (target s e))) ∧
      (∀ s', NoHead s (target s e) s' →
        exec (i a b e) s = .next (s.traps s' Cause.illegalLine (target s e) 0)))

/-- The same for one register. -/
def Branch1 (i : Src → BitVec 32 → Instr) (p : Word → Prop) : Prop :=
  ∀ (s : State) (a : Src) (e : BitVec 32), s.OpsReady [srcX a] [] →
    (¬ p (val s a) → exec (i a e) s = .next (s.ends id)) ∧
    (p (val s a) →
      (∀ s', Head s (target s e) s' → exec (i a e) s = .next (goes s' (target s e))) ∧
      (∀ s', NoHead s (target s e) s' →
        exec (i a e) s = .next (s.traps s' Cause.illegalLine (target s e) 0)))

/-- No window write of the acting thread is still in its stream (R205). -/
def NumericIdle (s : State) : Prop := ∀ t i0 n base st d mode satn seed pages b f,
  (⟨.mst t i0 n base st d mode satn seed pages, b, f⟩ : StreamEnt) ∉ s.me.stream

/-- What a berth reads from a system register after writing `v` to it at a level that may (R96 to R100). -/
def stored (n v : Nat) : Option Nat :=
  match n with
  | 0x001 => some (v % 2 ^ 13)
  | 0x002 => some (v - v % 64)
  | 0x003 | 0x005 => some v
  | 0x004 => some (v % 2 ^ 8)
  | 0x006 => some (v % 2 ^ 37)
  | 0x010 => some (if v / 32 % 8 = 6 ∨ v / 32 % 8 = 7 then v % 32 + v / 256 % 2 * 256 else v % 2 ^ 9)
  | 0x011 => some (if v % 2 ^ 32 = 0 then 1 else v % 2 ^ 32)
  | 0x030 => some (if v % 64 < 2 then 2 else if 32 < v % 64 then 32 else v % 64)
  | 0x031 => some (v % 2)
  | 0x032 => some (v - v % 1024)
  | 0x033 => some (v % 2 ^ 16)
  | 0x040 | 0x041 | 0x042 | 0x043 | 0x044 | 0x045 | 0x046 | 0x047 =>
    some (v % 2 ^ 11 + v / 2 ^ 12 % 4 * 2 ^ 12 + v / 2 ^ 32 % 2 ^ 18 * 2 ^ 32)
  | 0x050 => some (v % 2 ^ 52 - v % 2 ^ 13)
  | 0x051 => some (v % 2 ^ 16)
  | 0x060 => some (v % 4)
  | 0x073 => some (v % 2 ^ 10)
  | 0x080 | 0x081 => some (v % 2 ^ 32)
  | 0x082 => some (v - v % 64)
  | _ => none


/-! ### Memory -/

/-- The address of a scalar access: base register plus signed offset, modulo 2^64. -/
def addr (s : State) (a : Src) {w : Nat} (off : BitVec w) : Nat := (val s a + off.signExtend 64).toNat

/-- The access passes its checks (R222, R224): every page that it touches is translated by cached entries and permitted, with these pieces. -/
def Access (s : State) (va n : Nat) (kind : Kind) (chk : Check) (ps : List Piece) : Prop :=
  (span va n kind chk).go s = (.ok ps, s)

/-- Nothing holds the access back at its home (R174, R358, R417, R418), and no page of a write is write-blocked (R145). -/
def Open (s : State) (ps : List Piece) (writes : Bool) : Prop :=
  (∀ p ∈ ps, s.heldBack s.cur.core p.x.pa p.len = false) ∧ (writes = true → ∀ p ∈ ps, p.x.wb = false)

/-- The state after a producer of one scalar result has issued: the destination empty, the result in flight (R78). -/
def producing (s : State) (d : Reg) (v : Word) (va pa : Nat) (bad : Option Nat) (o : Origin) : State :=
  let p : Pend := ⟨s.nextPend, s.cur.key, s.me.uid, .x d.toNat, [v], VReg.zero, va, bad.map fun c => (c, va, 0), o, (64, false), [], pa, s.fc⟩
  { (s.updMe fun x => x.markX d.toNat .empty) with pend := s.pend ++ [p], nextPend := s.nextPend + 1 }

/-- Who returns the data of an access: the unit that holds its first piece. -/
def source (s : State) : List Piece → Origin
  | p :: _ => s.originOf p.x p.len
  | [] => .here

/-- The physical address of an access. -/
def firstPa : List Piece → Nat
  | p :: _ => p.x.pa
  | [] => 0

/-- No copy, combined byte, registration or poison of a word stands before its home for accesses of this core. -/
def AtHome (s : State) (core w : Nat) : Prop :=
  s.l1 core w = none ∧ s.near (clusterOf core) w = none ∧ (∀ e ∈ s.me.comb, e.1 ≠ w) ∧
  (∀ k, k < 10 → ∀ e ∈ (s.ctxAt ⟨core, k⟩).comb, e.1 ≠ w) ∧
  s.holder w = none ∧ s.poisoned w = false

/-- The acting context is not an erg's home, so its own core performs its accesses (R339). -/
def Alone (s : State) : Prop := s.me.composed = false

/-- A lock, group or watched word (R222): aligned, on a SYNC page of local or peer HBM or of a scratchpad's window 0, open, not poisoned. -/
def SyncWord (s : State) (va align : Nat) (x : Xl) : Prop :=
  va % align = 0 ∧ s.Translates va .atomic x ∧ x.mode = 3 ∧ paClass x.pa < 3 ∧ behindWindow x.pa = false ∧
  s.heldBack s.cur.core x.pa align = false ∧ (paClass x.pa ≠ 2 → s.poisonIn x.pa align = none)

/-- The state after an acquire of everything at a scope. -/
def acquires (s : State) (sc : Scope) : State := s.acquire (s.me.l1s s.cur.core) sc.code 1023

/-- The state after a release of everything at a scope. -/
def releases (s : State) (sc : Scope) : State := s.release (s.me.l1s s.cur.core) sc.code 1023

/-- The state after the release that an atomic's ordering asks for. -/
def ordReleases (s : State) (o : AOrd) : State :=
  match o with
  | .rel sc | .ar sc => releases s sc
  | _ => s

/-- An atomic form of one operand: with its checks passed, nothing outstanding before a release, and its operation performed where the word is, it ends there. -/
def AmoForm (i : Bool → AOrd → Reg → Src → BitVec 16 → Src → Instr) (op : AmoOp) : Prop :=
  ∀ (s t : State) (w : Bool) (o : AOrd) (d : Reg) (a : Src) (off : BitVec 16) (b : Src) (p : Piece),
    s.me.token = none → s.OpsReady [srcX a, srcX b] [.x d.toNat false] → addr s a off % amoBytes w = 0 →
    Access s (addr s a off) (amoBytes w) .atomic amoCheck [p] → Open s [p] true →
    (∀ sc, ordRel o = some sc → s.MayRelease sc 1023 ∧ (ordReleases s o).Quiet) →
    (amoPerform op w o d p.x ((ordReleases s o).me.getX b.r.toNat) 0).go (ordReleases s o) = (.ok (), t) →
    exec (i w o d a off b) s = .next (t.updMe Ctx.done)

/-- A misaligned atomic of one operand traps with its address, on every page and at every ordering. -/
def AmoMisaligned (i : Bool → AOrd → Reg → Src → BitVec 16 → Src → Instr) : Prop :=
  ∀ (s : State) (w : Bool) (o : AOrd) (d : Reg) (a : Src) (off : BitVec 16) (b : Src),
    s.OpsReady [srcX a, srcX b] [.x d.toNat false] → s.me.token = none → addr s a off % amoBytes w ≠ 0 →
    exec (i w o d a off b) s = .next (s.traps s Cause.misalign (addr s a off) 0)


/-! ### Vectors -/

/-- A queue source has an entry to read (R86). -/
def hasEntry (v : VState) (a : VSrc) : Prop :=
  match a.op with
  | .pop n | .peek n => v.queue n.toNat ≠ []
  | _ => True

/-- The gates of a vector instruction are open: operands there, a vector unit, no erg, vector state `v`, an entry in every queue that it reads (R240). -/
def VOpen (s : State) (srcs : List VSrc) (more dsts : List Opd) (v : VState) : Prop :=
  s.OpsReady (srcs.map vopd ++ more) dsts ∧ s.VectorReady v ∧ ∀ a ∈ srcs, hasEntry v a

/-- VL fits every width at the thread's grant and its core's lanes (R89). -/
def Fits (s : State) (v : VState) (ws : List Nat) : Prop :=
  ∀ w ∈ ws, v.vl ≤ vlmax v.g (s.coreAt s.cur.core).vlanes w

/-- A source as the acting context reads it. -/
def arg (s : State) (v : VState) (a : VSrc) : VArg := readV v s.me a

/-- The tag of one source: its own, or for a broadcast the destination's type (R83). -/
def TagIs (v : VState) (x : VArg) (d : VDst) (t : Tag) : Prop :=
  match x.tag with
  | some p => p = t
  | none => t = ⟨(dstTag v d).ty, false⟩

/-- The common tag of two sources: a broadcast takes the other's; two broadcasts take the destination's type (R83). -/
def TagsAre (v : VState) (x y : VArg) (d : VDst) (t : Tag) : Prop :=
  match x.tag, y.tag with
  | some p, some q => p = t ∧ q = t
  | some p, none => p = t
  | none, some q => q = t
  | none, none => t = ⟨(dstTag v d).ty, false⟩

/-- The common tag of two sources of an instruction that has no vector destination: one of them is a vector. -/
def TagsVec (x y : VArg) (t : Tag) : Prop :=
  match x.tag, y.tag with
  | some p, some q => p = t ∧ q = t
  | some p, none => p = t
  | none, some q => q = t
  | none, none => False

/-- Pop each queue that is named as a popping source, once. -/
def popped (srcs : List VSrc) (v : VState) : VState :=
  ((srcs.flatMap popOf).eraseDups).foldl (fun (v : VState) n => { v with q := KMap.ins v.q n (v.queue n).tail }) v

/-- The state after a vector instruction with a vector result: flags added, queues popped, the result in its register and in l0, the old l0 in l1 (R87). -/
def vresult (s : State) (srcs : List VSrc) (d : VDst) (r : VReg) (fl : Nat) : State :=
  s.ends fun x => (({ x with fcsr := x.fcsr ||| fl }).updV (popped srcs)).updV fun v =>
    (match d with
      | .v n => v.setV n.toNat r
      | _ => v).pushL r

/-- The state after a vector instruction with a scalar result. -/
def vscalars (s : State) (srcs : List VSrc) (d : Reg) (w : Word) (fl : Nat) : State :=
  s.ends fun x => (({ x with fcsr := x.fcsr ||| fl }).updV (popped srcs)).setX d.toNat w

/-- An unscaled result of given bits. -/
def plainV (ty : Nat) (r : Nat × Nat) : VReg := ⟨ty, false, r.1, []⟩

/-- A form of two vector sources of one accepted tag: element by element where active, by bits and flags of `f`. -/
def Vec2 (i : VDst → VSrc → VSrc → MaskF → Instr) (ok : Nat → Bool) (f : Nat → Nat → Nat → Nat → Nat × Nat) : Prop :=
  ∀ (s : State) (d : VDst) (a b : VSrc) (m : MaskF) (v : VState) (t : Tag),
    VOpen s [a, b] [] (vdst d) v → TagsAre v (arg s v a) (arg s v b) d t → Fits s v [tyWidth t.ty] → ok t.ty = true →
    let w := tyWidth t.ty
    let r := formBits v (keptBits v d m.mz) w (v.active m.me m.mr) fun k =>
      f t.ty s.me.fcsr ((arg s v a).bits w k) ((arg s v b).bits w k)
    exec (i d a b m) s = .next (vresult s [a, b] d (plainV t.ty r) r.2)

/-- A form of one vector source of an accepted type. -/
def Vec1 (i : VDst → VSrc → MaskF → Instr) (ok : Nat → Bool) (f : Nat → Nat → Nat → Nat × Nat) : Prop :=
  ∀ (s : State) (d : VDst) (a : VSrc) (m : MaskF) (v : VState) (t : Tag),
    VOpen s [a] [] (vdst d) v → TagIs v (arg s v a) d t → Fits s v [tyWidth t.ty] → ok t.ty = true →
    let w := tyWidth t.ty
    let r := formBits v (keptBits v d m.mz) w (v.active m.me m.mr) fun k => f t.ty s.me.fcsr ((arg s v a).bits w k)
    exec (i d a m) s = .next (vresult s [a] d (plainV t.ty r) r.2)

/-- A comparison writes the bits of the active elements below VL of its mask. -/
def VCompare (i : BitVec 3 → VSrc → VSrc → MaskF → Instr) (q : Cmp) : Prop :=
  ∀ (s : State) (md : BitVec 3) (a b : VSrc) (m : MaskF) (v : VState) (t : Tag),
    VOpen s [a, b] [] [] v → TagsVec (arg s v a) (arg s v b) t → Fits s v [tyWidth t.ty] → isNum t.ty = true →
    let r (k : Nat) := q.elem t.ty ((arg s v a).bits (tyWidth t.ty) k) ((arg s v b).bits (tyWidth t.ty) k)
    let fl := (upTo v.vl).foldl (fun n k => if v.active m.me m.mr k then n ||| (r k).2 else n) 0
    exec (i md a b m) s = .next (s.ends fun x =>
      (({ x with fcsr := x.fcsr ||| fl }).updV (popped [a, b])).updV fun v => v.setMask md.toNat m fun k => (r k).1)

/-- A multiply-add whose sources pass the tag checks of R249 and R250 with the type `t` of the multiplicands and `u` of the addend: of one number type, element by element; or widening, scaled values into a wider addend. Each use of an unstated integer result takes a value of its own. -/
def VMulAdd (i : RMode → VDst → VSrc → VSrc → VSrc → MaskF → Instr) (q : Madd) : Prop :=
  ∀ (s : State) (rm : RMode) (d : VDst) (a b c : VSrc) (m : MaskF) (v : VState) (t u : Tag),
    VOpen s [a, b, c] [] (vdst d) v → (maddTags v d a b c (arg s v a) (arg s v b) (arg s v c)).go s = (.ok (t, u), s) →
    let get (g : VArg) (ty n : Nat) : Fv := if t.ty ≠ u.ty then g.scaledValue ty n else g.value ty n
    let r := formBits v (keptBits v d m.mz) (tyWidth u.ty) (v.active m.me m.mr) fun n =>
      q.elem u.ty s.me.fcsr rm (s.freeN + n) (get (arg s v a) t.ty n) (get (arg s v b) t.ty n) (get (arg s v c) u.ty n)
    exec (i rm d a b c m) s = .next (vresult { s with freeN := s.freeN + v.vl } [a, b, c] d (plainV u.ty r) r.2)

/-- A reduction over the tree of R117. -/
def VReduce (i : RMode → Reg → VSrc → Bool → BitVec 3 → Instr) (q : Red) : Prop :=
  ∀ (s : State) (rm : RMode) (d : Reg) (a : VSrc) (me : Bool) (mk : BitVec 3) (v : VState) (t : Tag),
    VOpen s [a] [] [.x d.toNat false] v → (arg s v a).tag = some t → Fits s v [tyWidth t.ty] → q.ok t.ty = true →
    let l := leaves v me mk (q.leaf t.ty (arg s v a))
    let r := tree (q.node t.ty s.me.fcsr rm) treeFuel l.1
    exec (i rm d a me mk) s = .next (vscalars s [a] d (q.word t.ty (r.1.getD (q.identity t.ty))) (l.2 ||| r.2))

/-- The generator before element or block `k`, where each of the active ones below it, from `x`, leaves what `next` says (R113). -/
def drawnBefore (x : Nat) (act : Nat → Bool) (next : Nat → Nat → Nat) : Nat → Nat
  | 0 => x
  | k + 1 => if act k then next k (drawnBefore x act next k) else drawnBefore x act next k

/-- What VQNT makes of block `b` of its source, from a generator: bits, scale code, flags, the generator after it. An element at or above VL enters as +0; the last quad of an OQ4 block is written whole (R109, R252). -/
def quantised (v : VState) (ty dt : Nat) (x : VArg) (mode : RMode) (b seed : Nat) : Nat × Nat × Nat × Nat :=
  let n := min 256 (v.vl - 256 * b)
  let ins : List OqIn := (upTo 256).map fun j =>
    if j < n then (x.value ty (256 * b + j), x.lsb ty (256 * b + j)) else (.fin false 0 0, 0)
  if dt = 15 then
    let r := oq4Encode ins mode seed
    (r.1 % 2 ^ (16 * ((n + 3) / 4)), r.2)
  else quantBlock dt ins n mode seed

/-- The sum of the active elements of block `b` over the tree of R117, times the block's scale, and its flags (R119). -/
def blockSum (v : VState) (me : Bool) (mk : BitVec 3) (x : VArg) (ty : Nat) (add : Nat → Nat → Nat × Nat) (b : Nat) : Option Nat × Nat :=
  let l := (upTo (min 256 (v.vl - 256 * b))).map fun j =>
    if v.active me mk (256 * b + j) then some (accLeaf ty x (256 * b + j)) else none
  let fl := l.foldl (fun n e => n ||| (e.getD (0, 0)).2) 0
  let r := tree add treeFuel (l.map fun e => e.map fun r => r.1)
  match r.1 with
  | none => (none, fl ||| r.2)
  | some n => (some (blockValue (x.scale (256 * b)) n).1, fl ||| r.2 ||| (blockValue (x.scale (256 * b)) n).2)

/-- The vector register forms: OP code, vector sources, scalar sources and destinations in the order of their checks (R240). -/
def vectorForm : Instr → Option (Nat × List VSrc × List Opd × List Opd)
  | .vadd d a b _ | .vsub d a b _ | .vmul d a b _ | .vdiv d a b _ | .vmin d a b _ | .vmax d a b _ | .vand d a b _ | .vor d a b _
  | .vxor d a b _ | .vshl d a b _ | .vshr d a b _ | .vshra d a b _ | .vsadd d a b _ | .vssub d a b _ | .vmulh d a b _ =>
    some (0x42, [a, b], [], vdst d)
  | .vmadd _ d a b c _ | .vmsub _ d a b c _ | .vnmadd _ d a b c _ => some (0x43, [a, b, c], [], vdst d)
  | .vneg d a _ | .vabs d a _ | .vsqrt d a _ | .vrcp d a _ | .vrsq d a _ | .vexp2 d a _ | .vlog2 d a _ | .vnot d a _
  | .vclz d a _ | .vpopc d a _ => some (0x44, [a], [], vdst d)
  | .vcmpEq _ a b _ | .vcmpNe _ a b _ | .vcmpLt _ a b _ | .vcmpLe _ a b _ => some (0x45, [a, b], [], [])
  | .vsel d a b _ => some (0x46, [a, b], [], vdst d)
  | .vcvt _ _ d a _ => some (0x47, [a], [], vdst d)
  | .vqnt _ _ d a => some (0x48, [a], [], vdst d)
  | .vredSum _ d a _ _ | .vredMax _ d a _ _ | .vredMin _ d a _ _ | .vredAnd _ d a _ _ | .vredOr _ d a _ _ =>
    some (0x49, [a], [], [.x d.toNat false])
  | .vreds _ d a _ _ => some (0x4A, [a], [], [.x d.toNat false])
  | .vdot _ d a b _ _ => some (0x4B, [a, b], [], [.x d.toNat false])
  | .vperm d a b _ => some (0x4C, [a, b], [], vdst d)
  | .vslideUp d a n _ | .vslideDn d a n _ => some (0x4D, [a], [srcX n], vdst d)
  | .vext d a i => some (0x4E, [a], [srcX i], [.x d.toNat false])
  | .vins d a e i => some (0x4E, [a], [srcX e, srcX i], vdst d)
  | .vbcast vd a _ _ => some (0x4F, [a], [], [.v vd.toNat false])
  | .viota vd _ _ => some (0x4F, [], [], [.v vd.toNat false])
  | .mand _ _ _ _ | .mor _ _ _ _ | .mxor _ _ _ _ | .mnot _ _ _ => some (0x50, [], [], [])
  | .mset _ x _ => some (0x50, [], [srcX x], [])
  | .mpop d _ _ _ | .mfirst d _ _ _ => some (0x50, [], [], [.x d.toNat false])
  | .vscget d va fa => some (0x51, [⟨.v va, fa⟩], [], vdst d)
  | .vscset vd va fa => some (0x51, [⟨.v va, fa⟩], [], [.v vd.toNat false])
  | .vcompress d a _ _ | .vexpand d a _ _ => some (0x52, [a], [], vdst d)
  | _ => none

/-- The OP code, sources and destinations of every vector register form and every vector access (R261). -/
def vectorOps (i : Instr) : Option (Nat × List Opd × List Opd) :=
  match i with
  | .vld _ d a _ _ _ | .vldff _ d a _ _ _ => some (0x58, [srcX a], vdst d)
  | .vlds _ d a _ x _ _ => some (0x58, [srcX a, srcX x], vdst d)
  | .vldx _ d a _ b _ _ => some (0x5A, [srcX a, vopd b], vdst d)
  | .vldt d vb fb _ _ _ => some (0x5B, [.v vb.toNat fb], vdst d)
  | .vst a _ b _ => some (0x59, [srcX a, vopd b], [])
  | .vsts a _ b x _ => some (0x59, [srcX a, srcX x, vopd b], [])
  | .vstx a _ b idx _ => some (0x5A, [srcX a, vopd b, .v idx.toNat true], [])
  | .vstt b shape _ => some (0x5B, [vopd b, .v shape.toNat true], [])
  | i => (vectorForm i).map fun f => (f.1, f.2.1.map vopd ++ f.2.2.1, f.2.2.2)

/-- Two sources of unequal tags, the first of an accepted type: the second is refused with its specifier and its tag (R241, R243). -/
def TagGate (i : VSrc → VSrc → Instr) (dsts : List Opd) (ok : Nat → Bool) : Prop :=
  ∀ (s : State) (a b : VSrc) (v : VState) (t u : Tag),
    VOpen s [a, b] [] dsts v → (arg s v a).tag = some t → (arg s v b).tag = some u → Fits s v [tyWidth t.ty, tyWidth u.ty] →
    ok t.ty = true → u ≠ t →
    exec (i a b) s = .next (s.traps s Cause.tag (vspec b + u.ty * 256 + (if u.s then 4096 else 0)) 0)

/-- A form that moves elements of one source of a number type: element `k` comes from element `pick k`, or is zero. -/
def moved (x : VArg) (w : Nat) (pick : Nat → Option Nat) (k : Nat) : Nat × Nat :=
  match pick k with
  | some j => (x.bits w j, 0)
  | none => (0, 0)

/-- A mask form: bits below VL of `md` by `bit`, where active. -/
def maskSet (s : State) (md : BitVec 3) (m : MaskF) (bit : VState → Nat → Bool) : State :=
  s.ends fun x => x.updV fun v => v.setMask md.toNat m (bit v)


/-! ### Vector memory -/

/-- Every element is aligned, translated by cached entries, permitted and of the right format, and nothing holds it back (R263 to R267): its translations. -/
def Elements (s : State) (kind : Kind) (ok : Nat → Bool) (w tv : Nat) (el : List VElem) (l : Elems) : Prop :=
  (∀ e ∈ el, e.va % elemBytes w = 0) ∧ (xlElems kind (elemCheck ok w tv) el).go s = (.ok l, s) ∧
  (∀ e ∈ l, s.heldBack s.cur.core e.2.pa (elemBytes w) = false) ∧ (kind = .store → ∀ e ∈ l, e.2.wb = false)

/-- A load target has room: a queue holds or awaits fewer than two entries (R86). -/
def Room (v : VState) (d : VDst) (popped : List Nat) : Prop := ∀ s : State, (queueRoom v d popped).go s = (.ok (), s)

/-- The gates of a vector load are open: operands, vector state, VL at the widths, room at the target, no watermark. -/
def LoadOpen (s : State) (srcs : List Opd) (d : VDst) (v : VState) (ws : List Nat) : Prop :=
  s.OpsReady srcs (vdst d) ∧ s.VectorReady v ∧ Fits s v ws ∧ Room v d []

/-- The gates of a vector store are open. -/
def StoreOpen (s : State) (srcs : List Opd) (b : VSrc) (v : VState) (ws : List Nat) : Prop :=
  s.OpsReady srcs [] ∧ s.VectorReady v ∧ hasEntry v b ∧ Fits s v ws

/-- What a load keeps of the elements of width `w` that it has found in `s` (R400). -/
def found (s : State) (w : Nat) (l : Elems) : List Elem :=
  l.map fun e => ⟨e.1.k, e.1.va, e.2.pa, s.originOf e.2 (elemBytes w)⟩

/-- The state after a vector load of elements of width `w`, found in `s` and read with `s'` left, has put its result on the way: the target's tag set and its content not yet there (R78, R264, R265). -/
def loads (s s' : State) (d : VDst) (r : VReg) (bad : List (VElem × Nat)) (w : Nat) (l : Elems) : State :=
  ((startLoad d r bad (found s w l)).go s').2

/-- The elements do not all lie behind one scaled window. -/
def Unscaled (s : State) (l : Elems) : Prop := ∀ q, s.oneWindow l = some q → q.scaled = false

/-- A load with no other step than the start of its result: what it ends in. -/
def LoadsTo (s : State) (i : Instr) (w : Nat) (d : VDst) (ty vl : Nat) (rest : Nat) (l : Elems) : Prop :=
  ∀ r s', (loadElems w l).go s = (.ok r, s') →
    exec i s = .next ((loads s s' d ⟨ty, false, rest + r.bits, []⟩ r.bad w l).ends fun x => x.updV fun v => { v with vl := vl })


/-! ### The outer-product array -/

/-- The cluster of the acting core. -/
def cluster (s : State) : Cluster := s.clAt (clusterOf s.cur.core)

/-- The acting context may use the array (R283), and its stream has room (R279). -/
def ArrayReady (s : State) : Prop :=
  isSvc s.cur.core = false ∧ (s.me.ergBit && !s.me.trapBit) = false ∧ s.cur.isHandler = false ∧ s.me.stream.length < 16

/-- The acting thread owns a slot. -/
def OwnsSlot (s : State) (n : Nat) : Prop := ((cluster s).slot n).owner = some s.me.uid

/-- The acting thread owns a tile. -/
def OwnsTile (s : State) (n : Nat) : Prop := ((cluster s).tile n).owner = some s.me.uid

/-- An 8-bit operand that needs more than its own slot begins in an even slot of a pair that the thread owns. -/
def OwnsPair (s : State) (n : Nat) : Prop := n % 2 = 0 ∧ OwnsSlot s (n + 1)

/-- The thread whose command enters its stream (R279). -/
def queues (s : State) (cmd : OpaCmd) : State := s.updMe fun x => { x with stream := x.stream ++ [⟨cmd, false, s.fc⟩] }

/-- The acting thread holds or awaits a lease, and has not given it up (R275, R284). -/
def Leased (s : State) : Prop := s.me.lease ≠ .none ∧ s.me.freeing = false

/-- The pages that the rows of an SLLOAD or MST lie in, each translated and checked. -/
def RowPages (s : State) (kind : Kind) (chk : Xl → M Unit) (base st step len : Nat) (rows : List Nat) (r : Runs) : Prop :=
  (rows.foldlM (fun (acc : Runs) k => runPages kind chk ((base + k * st) % 2 ^ 64) step len acc) ⟨[], []⟩).go s = (.ok r, s)

/-- The distance between elements: the presented size of the window of the base, else the element's own. -/
def spacing (q : Option Window) (own : Nat) : Nat :=
  match q with
  | some q => tyWidth q.dfmt / 8
  | none => own

/-- The OP code, sources and destinations of the array's instructions but MLEASE (R281). -/
def arrayOps : Instr → Option (Nat × List Opd × List Opd)
  | .mfree => some (0x60, [], [])
  | .slclaim _ _ | .slfree _ _ => some (0x61, [], [])
  | .slloadRow _ _ a _ b c | .slloadCol _ _ a _ b c => some (0x62, [srcX a, srcX b, srcX c], [])
  | .slloadScale _ a _ => some (0x62, [srcX a], [])
  | .mop _ _ _ _ _ k => some (0x63, [srcX k], [])
  | .mops _ _ _ _ _ => some (0x63, [], [])
  | .aclaim _ _ | .afree _ | .mzero _ => some (0x64, [], [])
  | .mrd d a _ _ => some (0x65, [srcX a], vdst d)
  | .mwr a vs _ _ => some (0x65, [.v vs.toNat true, srcX a], [])
  | .mst _ a _ b c => some (0x66, [srcX a, srcX b, srcX c], [])
  | .msync => some (0x67, [], [])
  | _ => none

/-- An SLLOAD of lines whose addresses pass their checks (R287): aligned, every page translated and permitted. -/
def SlloadChecked (s : State) (col : Bool) (fmt : Nat) (a : Src) (imm : BitVec 16) (b c : Src) : Prop :=
  let w := tyWidth fmt
  let base := (val s a + imm.signExtend 64).toNat
  let st := (val s b).toNat
  let n := bitsAt (val s c).toNat 16 9
  ∃ q r, (baseWindow base .load).go s = (.ok q, s) ∧
    let y := spacing q (w / 8)
    base % max 1 y = 0 ∧ st % max 1 y = 0 ∧ (col = true → w ≠ 4) ∧
    RowPages s .load (slCheck fmt false) base st (max 1 y) (if col then n else if y = 0 then 128 else if w = 4 then 256 else 128)
      (if n = 0 then [] else if col then upTo 128 else upTo n) r

/-- An MST whose addresses pass their checks (R291). -/
def MstChecked (s : State) (a : Src) (imm : BitVec 16) (b c : Src) : Prop :=
  let base := (val s a + imm.signExtend 64).toNat
  let st := (val s b).toNat
  ∃ q r, (baseWindow base .store).go s = (.ok q, s) ∧ base % spacing q 4 = 0 ∧ st % spacing q 4 = 0 ∧
    RowPages s .store mstCheck base st (spacing q 4) 128 (upTo (bitsAt (val s c).toNat 8 8)) r


/-! ### Ferry, threads, messages and tasks -/

/-- The words of a quad in the acting context. -/
def quad (s : State) (q : QSrc) : List Word := (upTo 4).map fun k => s.me.getX (q.q.code + k)

/-- The state after the fork of a Ferry command: everything released at DI or wider, the command in the core's FIFO, the owning instance counting it. -/
def forks (s : State) (c : FerryCmd) (land : Option Nat) : State :=
  let s := s.release (s.me.l1s s.cur.core) (max 1 c.scope) 1023
  let s := s.updCore s.cur.core fun k => { k with fifo := k.fifo ++ [{ c with land := land }] }
  let s := { s with nextUid := s.nextUid + 1 }
  match c.inst with
  | none => s
  | some i => { s with insts := s.insts.map fun e => if e.1 = i then (e.1, { e.2 with ferries := e.2.ferries + 1 }) else e }

/-- A landing word's page (R303, R304): aligned, translated, in a scratchpad's window 0 that can be reached. -/
def LandWord (s : State) (va : Nat) (kind : Kind) (x : Xl) : Prop :=
  va % 16 = 0 ∧ s.Translates va kind x ∧ paClass x.pa = 1 ∧ behindWindow x.pa = false ∧
    s.heldBack s.cur.core x.pa 16 = false

/-- A result of one quad on its way (R78, R188). -/
def producingQuad (s : State) (q : Quad) (v : List Word) (va pa : Nat) (fail : Option (Nat × Nat × Nat)) (o : Origin) : State :=
  ((produce (.quad q.code) v VReg.zero va pa fail o (64, false)).go s).2

/-- The message that the acting context sends. -/
def message (s : State) (rep : Bool) (sc : Scope) (t : Dest) (q : QSrc) : Msg :=
  ⟨rep, t.core, t.pkg, t.chan, s.pkgid, s.cur.kind, s.me.tid, s.cur.core, quad s q, false, wd sc.code, false, false⟩

/-- The state after the message of `s` has left its core: its send queue holds one more, the message is on its way. -/
def sends (s : State) (rep : Bool) (sc : Scope) (t : Dest) (q : QSrc) : State :=
  let s := releases s sc
  (s.updCore s.cur.core fun k => if rep then { k with repOut := k.repOut + 1 } else { k with reqOut := k.reqOut + 1 }).post
    (message s rep sc t q)


/-! ### Conflict batching and ergs -/

/-- A handle whose zero fields are zero, of a cluster that is present and can be reached (R314, R417). -/
def HandleIs (s : State) (w : Word) (h : Handle) : Prop :=
  handleOf w.toNat = some h ∧ s.clusterPresent h.cl = true ∧ s.edgeHeld (dieOf s.cur.core) (h.cl / 64) = false

/-- A CBU instruction runs where there is no service core is (R324), and one that may wait in a berth (R49). -/
def BatchReady (s : State) : Prop := isSvc s.cur.core = false ∧ s.cur.isHandler = false

/-- The state after an acquire of everything at the scope of a session. -/
def acquiresAt (s : State) (sc : Nat) : State := s.acquire (s.me.l1s s.cur.core) sc 1023

/-- The state after a release of everything at the scope of a session. -/
def releasesAt (s : State) (sc : Nat) : State := s.release (s.me.l1s s.cur.core) sc 1023

/-- The state after a take of these items at a session: they are taken, what waited is served, and everything is acquired at the session's scope. -/
def takes (s : State) (h : Handle) (v : Session) (es : List Item) : State :=
  acquiresAt ((s.setSession h.cl h.slot (some (v.take (es.map fun i => i.entry)))).serveCbu h.cl) h.scope

/-- The state after a take of at most `most` items has joined those that wait at a session, its destination empty (R78, R328). -/
def takeWaits (s : State) (h : Handle) (v : Session) (most : Nat) (dst : Dst) (before : RegSt) : State :=
  (s.setSession h.cl h.slot (some { v with takes := v.takes ++ [⟨s.cur.key, s.me.uid, h.slot, h.seq, most, [], 0⟩] })).updMe
    fun k => { k.markDst .empty dst with wait := some (.take dst before) }

/-- The state after items with the entries of these tokens are done. -/
def doneItems (s : State) (h : Handle) (v : Session) (toks : List Nat) : State :=
  (s.setSession h.cl h.slot
    (some { v with items := v.items.filter fun i => !((toks.map fun t => bitsAt t 0 11).contains i.entry) })).serveCbu h.cl

/-- TRAPVAL of CBU_STATE: the reason, and the low half of the word that it names (R325). -/
def cbuReason (reason : Nat) (w : Nat) : Nat := reason + w % 2 ^ 32 * 2 ^ 32

/-- The state after CBTAKEV's result: the items in a vector of U64 and in l0, VL their number (R328). -/
def vtaken (s : State) (vd : BitVec 5) (l : List Word) : State :=
  s.ends fun x => x.updV fun k => { (k.setV vd.toNat (caravan l)).pushL (caravan l) with vl := l.length }

/-- The tokens of the active elements of a vector source. -/
def tokensOf (s : State) (v : VState) (a : VSrc) (me : Bool) (mk : BitVec 3) : List Nat :=
  ((upTo v.vl).filter fun k => v.active me mk k).map fun k => bitsAt ((arg s v a).bits 64 k) 32 32

/-- A COMPOSE whose caller passes the checks of R334. -/
def MayCompose (s : State) : Prop :=
  s.me.token = none ∧ isSvc s.cur.core = false ∧ s.cur.isHandler = false ∧
  (s.me.pl = 0 → (s.coreAt s.cur.core).usrc = true) ∧ s.me.ergBit = false ∧ s.me.vs = none ∧ s.me.lease = .none ∧
  s.ferryOpen s.cur.core s.me.uid = false


/-! ### Peers -/

/-- The state after a request to the home module of an address has left, its answer to go to `dst` (R173). -/
def requests (s : State) (dst : Dst) (va pa : Nat) (op : PeerOp) (ext : Nat × Bool) : State :=
  ((producePeer dst va pa op ext).go s).2

/-- What the instruction asked of a peer module has been answered with a value (R430). -/
def Answered (s : State) (pa : Nat) (op : PeerOp) (v : Nat) : Prop :=
  ∃ a, (s.me.asks.find? fun a => a.pkg == bitsAt pa 39 10 && a.op == op) = some a ∧ a.ans = some (.value v)

/-- A context as it acts after reset. -/
def resetAs (c : CtxId) : State := { State.reset with cur := c }


/-! ### Events -/

/-- An event leaves the state as it is. -/
def Idle (e : Instr) (s : State) : Prop := exec e s = .next s

/-- A message meets a core that is there, whose channel is enabled, with no earlier message of its sender held before it (R39 to R41). -/
def Welcome (s s' : State) (m : Msg) : Prop :=
  s.corePresent m.dstCore = true ∧ s.coreDead m.dstCore = false ∧ s.chanEnabled m.dstCore m.chan = (true, s') ∧
  ((s'.coreAt m.dstCore).held.any fun h => h.rep == m.rep && sameSender h m) = false

/-- A frozen array's clocks go on at `t` from where they stood, `d` cycles later (R278). -/
def thaw (k : Cluster) (t d : Nat) : Cluster :=
  { k with frozen := none, opaThaw := t, opaBoundary := k.opaBoundary + d, leaseStart := k.leaseStart + d }

/-- A host request of `n` bytes of device memory may cross to its service cores, and each of its words is within their reach: nothing holds it on its way, and no peer may write its page (R66, R174, R349, R358, R417). -/
def HostReaches (s : State) (off n : Nat) : Prop :=
  s.booted = true ∧ s.cxlDown = false ∧ s.hostPieces off n ≠ [] ∧ s.hostHeld (s.hostPieces off n) = false ∧
  s.WayFree ((s.hostPieces off n).map fun p => (1024 + hostSvc p.2.1, p.2.1, p.2.2))

/-- The words' parts of a host write, each performed in its turn: the parts that a bad word discarded, with the service core that handles them, and the state after all. -/
def hostPuts (s : State) (v : Nat) (poisoned : Bool) : List (Nat × Nat × Nat) → List (Nat × Nat) × State
  | [] => ([], s)
  | p :: l =>
    let r := (s.reach (1024 + hostSvc p.2.1) p.2.1 p.2.2).hostPut p.2.1 p.2.2 (v / 256 ^ p.1 % 256 ^ p.2.2) poisoned
    let q := hostPuts r.2 v poisoned l
    (if r.1 then (p.1, hostSvc p.2.1) :: q.1 else q.1, q.2)

/-- An access of a package comes to its home at once: no other package may write the page, no atomic of the base die is on the line, no failed edge lies on the way or before the holder (R174, R358, R417). -/
def PeerReaches (s : State) (pa pkg : Nat) : Prop :=
  ((s.lease (pa / 65536)).writer = none ∨ (s.lease (pa / 65536)).writer = some pkg) ∧ s.baseHeld pa 8 = false ∧
  s.recallHeld pa 8 = false ∧ s.edgeHeld (portDie (s.portFor pkg (accessHash pa))) (pa / 2 ^ 37 % 4) = false

/-- A request of a peer comes under the current incarnation of a package that is not declared dead (R401). -/
def Heard (s : State) (pkg inc : Nat) : Prop :=
  pkg ≠ s.pkgid ∧ (s.agent (.pkg pkg)).dead = false ∧ inc % 256 = (s.agent (.pkg pkg)).inc

end Sys2Proof.Claims
end

