-- ==== Sys2Proof/Certificates/Slice0/Obligations.lean ====
section
/-! DEFINITION. The statements for the provers. A statement about an instruction says, with its hypotheses on the state and the operands alone, which next state `exec` answers. -/
open Sys2Proof Sys2Proof.Machine Sys2Proof.Claims

/-! ### Encoding and the step -/

/-- R177 to R195, R220, R238, R261, R281, R293, R323, R333: the decoder reads back every word that the encoder writes. -/
def Obligations.DecodeEncode : Prop :=
  ∀ (i : Instr) (w : Nat), encode i = some w → WellFormed i = true → decode w = .instr i

/-- R182, R190, R375: the instruction at the PC of a chosen context is run as `exec` gives it, on a line that is entered and a head that predication leaves on, and the issue counted unless the instruction waits or the vector unit has not accepted it; an illegal word traps at its head with the word in TRAPVAL, whether or not the head is null; a null head only moves on. Around that a step does what belongs to every step: a thread that is being preempted has come to its boundary, and caches keep within their capacity. -/
def Obligations.StepRunsDecoded : Prop :=
  (∀ (s : State) (c : CtxId) (l : Line) (i : Instr),
    s.chosen = some c → s.booted = true → s.live c = true →
    (c.isHandler = true → (s.ctxAt c).issued < (s.coreAt c.core).budget) →
    (s.ctxAt c).regErr = none → (s.ctxAt c).line = some l →
    decode (l.word (s.ctxAt c).pc) = .instr i → l.null (s.ctxAt c).pc = false →
    let s₀ := { s with cur := c, chosen := none, waited := false }
    ∃ t, exec i s₀ = .next t ∧
      step s = .next (if t.waited || (t.ctxAt c).parked then t else (t.countIssue c (s₀.issuesAt c)).atBoundary c).tidy) ∧
  (∀ (s : State) (c : CtxId) (l : Line),
    s.chosen = some c → s.booted = true → s.live c = true →
    (c.isHandler = true → (s.ctxAt c).issued < (s.coreAt c.core).budget) →
    (s.ctxAt c).regErr = none → (s.ctxAt c).line = some l →
    let s₀ := { s with cur := c, chosen := none, waited := false }
    let pc := (s.ctxAt c).pc
    (∀ why, decode (l.word pc) = .illegal why →
      step s = .next (if s₀.trapWaits c Cause.illegalOp then s₀.trapLater c Cause.illegalOp
        else s₀.takeTrap c Cause.illegalOp (l.word pc) 0 pc).tidy) ∧
    (∀ i, decode (l.word pc) = .instr i → l.null pc = true →
      step s = .next (((s₀.updCtx c fun x => x.advance.done).countIssue c (s₀.issuesAt c)).atBoundary c).tidy))

/-- The machine never stops: every instruction and every event answers a next state, and so does every step. R27, R200: whatever a thread at USR executes, it goes on at USR in its address space, or has taken a trap to SUP in it, or has ended. -/
def Obligations.AlwaysNext : Prop :=
  (∀ (i : Instr) (s : State), ∃ t, exec i s = .next t) ∧ (∀ s : State, ∃ t, s.Steps t) ∧
  (∀ (s t : State) (c : CtxId), s.booted = true → s.chosen = some c → c.isHandler = false → (s.ctxAt c).occ = .occupied →
    (s.ctxAt c).pl = 0 → (s.ctxAt c).trapBit = false → s.Steps t →
    let x := s.ctxAt c
    let y := t.ctxAt c
    y.occ ≠ .occupied ∨
      (y.ptbase = x.ptbase ∧ y.asid = x.asid ∧ (y.pl = 0 ∧ y.trapBit = false ∨ y.pl = 1 ∧ y.trapBit = true)))

/-- Every step keeps the memory in its canonical form (log 1): equal memories stay equal data, whatever the step does. -/
def Obligations.MemoryStaysCanonical : Prop :=
  ∀ s t : State, s.Inv → s.Steps t → t.Inv

/-! ### Integer instructions -/

/-- R209: the sixteen results of OP 0x10. -/
def Obligations.AluResults : Prop :=
  Binary .add (fun x y => x + y) ∧ Binary .sub (fun x y => x - y) ∧
  Binary .and (fun x y => x &&& y) ∧ Binary .or (fun x y => x ||| y) ∧ Binary .xor (fun x y => x ^^^ y) ∧
  Binary .andn (fun x y => x &&& ~~~y) ∧
  Binary .shl (fun x y => x <<< (y.toNat % 64)) ∧ Binary .shr (fun x y => x >>> (y.toNat % 64)) ∧
  Binary .shra (fun x y => x.sshiftRight (y.toNat % 64)) ∧
  Binary .min (fun x y => if x.toInt ≤ y.toInt then x else y) ∧ Binary .max (fun x y => if x.toInt ≤ y.toInt then y else x) ∧
  Binary .minn (fun x y => if x.toNat ≤ y.toNat then x else y) ∧ Binary .maxn (fun x y => if x.toNat ≤ y.toNat then y else x) ∧
  Binary .slt (fun x y => truth (decide (x.toInt < y.toInt))) ∧ Binary .sltn (fun x y => truth (decide (x.toNat < y.toNat))) ∧
  Binary .seq (fun x y => truth (decide (x = y)))

/-- R210, R103: products, quotients and remainders with their special cases; quotient times divisor plus remainder is the dividend, and the remainder is smaller than the divisor and has the dividend's sign. -/
def Obligations.MulDivResults : Prop :=
  Binary .mul (fun x y => x * y) ∧
  Binary .mulh (fun x y => BitVec.ofInt 64 (x.toInt * y.toInt / 2 ^ 64)) ∧
  Binary .mulhn (fun x y => BitVec.ofNat 64 (x.toNat * y.toNat / 2 ^ 64)) ∧
  Binary .div (fun x y =>
    if y = 0 then BitVec.allOnes 64 else if x = BitVec.intMin 64 ∧ y = BitVec.allOnes 64 then BitVec.intMin 64
    else BitVec.ofInt 64 (x.toInt.tdiv y.toInt)) ∧
  Binary .divn (fun x y => if y = 0 then BitVec.allOnes 64 else BitVec.ofNat 64 (x.toNat / y.toNat)) ∧
  Binary .rem (fun x y =>
    if y = 0 then x else if x = BitVec.intMin 64 ∧ y = BitVec.allOnes 64 then 0 else BitVec.ofInt 64 (x.toInt.tmod y.toInt)) ∧
  Binary .remn (fun x y => if y = 0 then x else BitVec.ofNat 64 (x.toNat % y.toNat)) ∧
  (∀ x y : Word, divS x y * y + remS x y = x ∧ divU x y * y + remU x y = x ∧
    (y ≠ 0 → (remU x y).toNat < y.toNat ∧ (remS x y).toInt.natAbs < y.toInt.natAbs ∧
      ((remS x y).toInt = 0 ∨ ((remS x y).toInt < 0 ↔ x.toInt < 0))))

/-- R211 to R214: the operations of OP 0x12, by their bits; the immediate forms; constants, addresses and the selection. -/
def Obligations.BitAndImmediateResults : Prop :=
  (UnaryRel .clz (fun x v => v.toNat ≤ 64 ∧ (∀ k, k < 64 → 64 - v.toNat ≤ k → x.getLsbD k = false) ∧
     (v.toNat < 64 → x.getLsbD (63 - v.toNat) = true)) ∧
   UnaryRel .ctz (fun x v => v.toNat ≤ 64 ∧ (∀ k, k < v.toNat → x.getLsbD k = false) ∧
     (v.toNat < 64 → x.getLsbD v.toNat = true)) ∧
   UnaryRel .popc (fun x v => v.toNat = ((List.range 64).filter fun k => x.getLsbD k).length) ∧
   UnaryRel .brev (fun x v => ∀ k, k < 64 → v.getLsbD (63 - k) = x.getLsbD k) ∧
   UnaryRel .bswap (fun x v => ∀ k, k < 64 → v.getLsbD (8 * (7 - k / 8) + k % 8) = x.getLsbD k) ∧
   Unary (.sext .w8) (fun x => (x.setWidth 8).signExtend 64) ∧ Unary (.sext .w16) (fun x => (x.setWidth 16).signExtend 64) ∧
   Unary (.sext .w32) (fun x => (x.setWidth 32).signExtend 64)) ∧
  ((∀ e, Unary (fun d a => .addi d a e) fun x => x + e.signExtend 64) ∧
   (∀ e, Unary (fun d a => .andi d a e) fun x => x &&& e.signExtend 64) ∧
   (∀ e, Unary (fun d a => .ori d a e) fun x => x ||| e.signExtend 64) ∧
   (∀ e, Unary (fun d a => .xori d a e) fun x => x ^^^ e.signExtend 64) ∧
   (∀ e, Unary (fun d a => .shli d a e) fun x => x <<< e.toNat) ∧
   (∀ e, Unary (fun d a => .shri d a e) fun x => x >>> e.toNat) ∧
   (∀ e, Unary (fun d a => .shrai d a e) fun x => x.sshiftRight e.toNat) ∧
   (∀ e, Unary (fun d a => .slti d a e) fun x => truth (decide (x.toInt < e.toInt))) ∧
   (∀ e, Unary (fun d a => .sltni d a e) fun x => truth (decide (x.toNat < (e.signExtend 64).toNat)))) ∧
  ((∀ s d e, s.OpsReady [] [dstX d] → exec (.li d e) s = .next (s.writes d (e.signExtend 64))) ∧
   (∀ k e, Unary (fun d a => .lea k d a e) fun x => x + e.signExtend 64 * 2 ^ k.toNat) ∧
   (∀ s d e, s.OpsReady [] [dstX d] → exec (.addpc d e) s = .next (s.writes d (wd (s.me.pc - s.me.pc % 64) + e.signExtend 64))) ∧
   (∀ s d a b c, s.OpsReady [srcX a, srcX b, srcX c] [dstX d] →
     exec (.sel d a b c) s = .next (s.writes d (if val s c ≠ 0 then val s a else val s b))))

/-- R76, R79, R80, R180, R367: what writing a register comes to: the value where the register is not x0, x0 still zero and full, the next head, and nothing else. A register form, integer or floating point, of which a source is read with F = 1 and empty, or whose destination is empty, waits; of its sources read with F = 1 the first that has failed traps with its cause, its register and its address. -/
def Obligations.RegistersAndOperands : Prop :=
  (∀ (s : State) (d : Reg) (v : Word),
     let t := s.writes d v
     (d ≠ 0 → t.me.getX d.toNat = v) ∧ t.me.getX 0 = 0 ∧ t.me.stX d.toNat = .full ∧ t.me.stX 0 = .full ∧
     t.me.pc = (if s.me.pc % 64 / 2 < s.me.heads then s.me.pc + 2 else s.me.pc / 64 * 64 + 66) ∧
     t.me.fcsr = s.me.fcsr ∧ t.me.seed = s.me.seed ∧ OnlyRegs s t [d.toNat]) ∧
  (∀ (s : State) (i : Instr) (d : Reg), scalarDst i = some d ∨ floatDst i = some d →
     (s.me.failedSrc ((scalarSrcs i).map srcX) = none →
       ((∃ a ∈ scalarSrcs i, a.f = true ∧ s.me.stX a.r.toNat = .empty) ∨ s.me.stX d.toNat = .empty) →
       exec i s = .next { s with waited := true }) ∧
     (∀ (pre post : List Src) (a : Src) (c v m : Nat), scalarSrcs i = pre ++ a :: post →
       a.f = true → s.me.stX a.r.toNat = .failed c v m →
       (∀ b ∈ pre, b.f = true → ∀ c' v' m', s.me.stX b.r.toNat ≠ .failed c' v' m') →
       exec i s = .next (s.traps s c (a.r.toNat * 2 ^ 56 + v % 2 ^ 56) m)))

/-- The frame of the integer and floating-point register forms: each waits, traps at its own head, or changes its destination and the PC alone; a floating-point form also adds flags to FCSR, and FCVT alone may advance SEEDSR. -/
def Obligations.ScalarFrame : Prop :=
  (∀ (i : Instr) (d : Reg) (s t : State), scalarDst i = some d → exec i s = .next t →
     Waits s t ∨ Traps s t ∨ (OnlyRegs s t [d.toNat] ∧ t.me.fcsr = s.me.fcsr ∧ t.me.seed = s.me.seed)) ∧
  (∀ (i : Instr) (d : Reg) (s t : State), floatDst i = some d → exec i s = .next t →
     Waits s t ∨ Traps s t ∨ (OnlyRegs s t [d.toNat] ∧ (∃ fl, t.me.fcsr = s.me.fcsr ||| fl) ∧
       (t.me.seed = s.me.seed ∨ ∃ dt st rm a, i = .fcvt dt st rm d a ∧ t.me.seed = srStep s.me.seed)))

/-! ### Scalar floating point -/

/-- R216, R218, R219, R113: the rounded and the fused operations; FCVT writes the converted value, I32 sign-extended, raises its flags, and advances SEEDSR only under SR for a narrowing conversion of a finite input. -/
def Obligations.FloatResults : Prop :=
  (FloatOp .fadd Fmt.addOp ∧ FloatOp .fsub (fun k r x y => k.addOp r x y.neg) ∧ FloatOp .fmul Fmt.mulOp ∧
   FloatOp .fdiv Fmt.divOp ∧ Float2 .fmin (fun k _ x y => k.minmax false x y) ∧ Float2 .fmax (fun k _ x y => k.minmax true x y) ∧
   (∀ (s : State) t rm d a, s.OpsReady [srcX a] [dstX d] → exec (.fsqrt t rm d a) s =
     .next (floats s d ((ftyFmt t).sqrtOp (arith s.me.fcsr rm) ((ftyFmt t).read ((val s a).toNat % 2 ^ (ftyFmt t).width))))) ∧
   FloatFma .fmadd (fun k r x y z => k.fmaOp r x y z false) ∧ FloatFma .fmsub (fun k r x y z => k.fmaOp r x y z.neg false) ∧
   FloatFma .fnmadd (fun k r x y z => k.fmaOp r x y z true)) ∧
  (∀ (s : State) (dt st : CTy) (rm : RMode) (d : Reg) (a : Src), s.OpsReady [srcX a] [dstX d] →
     let mode := resolveMode s.me.fcsr rm
     let v := codeValue (ctyCode st) (val s a).toNat
     let draws := mode = .sr ∧ narrowing (ctyCode st) (ctyCode dt) false = true ∧ v.isFin = true
     let r := convert (ctyCode st) (ctyCode dt) mode (fcsrSatn s.me.fcsr) s.me.seed (val s a).toNat
     exec (.fcvt dt st rm d a) s = .next (s.ends fun c =>
       ({ c with fcsr := c.fcsr ||| r.2.1, seed := if draws then srStep c.seed else c.seed }).setX d.toNat
         (if dt = CTy.i32 then (BitVec.ofNat 32 r.1).signExtend 64 else wd r.1)))

/-- R216 to R218: the special cases. Division by zero gives a signed infinity and DZ; 0/0, inf/inf, 0·inf, inf - inf and the root of a negative value give the canonical NaN and NV; the root of -0 is -0. The sign forms copy everything but the sign; compares answer 0 for NaN, and NV is raised as the rule gives; FCLASS sets exactly one of ten bits. -/
def Obligations.FloatSpecialCases : Prop :=
  (∀ (t : FTy) (r : Rnd) (n n' : Bool) (m : Nat) (e e' : Int),
     let k := ftyFmt t
     (m ≠ 0 → k.divOp r (.fin n m e) (.fin n' 0 e') = (k.signed (n != n') k.infCode, flDZ)) ∧
     k.divOp r (.fin n 0 e) (.fin n' 0 e') = (k.qnan, flNV) ∧ k.divOp r (.inf n) (.inf n') = (k.qnan, flNV) ∧
     k.mulOp r (.fin n 0 e) (.inf n') = (k.qnan, flNV) ∧ k.mulOp r (.inf n) (.fin n' 0 e') = (k.qnan, flNV) ∧
     k.addOp r (.inf n) (.inf (!n)) = (k.qnan, flNV) ∧
     (m ≠ 0 → k.sqrtOp r (.fin true m e) = (k.qnan, flNV)) ∧ k.sqrtOp r (.inf true) = (k.qnan, flNV) ∧
     k.sqrtOp r (.fin n 0 e) = (k.signed n 0, 0) ∧
     (∀ z, (k.fmaOp r (.fin n 0 e) (.inf n') z false).2 &&& flNV = flNV) ∧
     (m ≠ 0 → k.fmaOp r (.fin n m e) (.inf n') (.inf (!(n != n'))) false = (k.qnan, flNV))) ∧
  (Float2 .fsgnj (fun k _ x y => (k.withSign x (k.sign y), 0)) ∧ Float2 .fsgnjn (fun k _ x y => (k.withSign x (!k.sign y), 0)) ∧
   Float2 .fsgnjx (fun k _ x y => (k.withSign x (Bool.xor (k.sign x) (k.sign y)), 0)) ∧
   Float2 .feq (fun k _ x y =>
     if (k.read x).isNan || (k.read y).isNan then (0, if (k.read x).isSnan || (k.read y).isSnan then flNV else 0)
     else (if (k.read x).cmp (k.read y) = .eq then 1 else 0, 0)) ∧
   Float2 .flt (fun k _ x y =>
     if (k.read x).isNan || (k.read y).isNan then (0, flNV) else (if (k.read x).cmp (k.read y) = .lt then 1 else 0, 0)) ∧
   Float2 .fle (fun k _ x y =>
     if (k.read x).isNan || (k.read y).isNan then (0, flNV) else (if (k.read x).cmp (k.read y) = .gt then 0 else 1, 0)) ∧
   (∀ t, Unary (.fclass t) fun x => wd (2 ^ (ftyFmt t).classOf (x.toNat % 2 ^ (ftyFmt t).width))) ∧
   (∀ (t : FTy) (x : Word), (ftyFmt t).classOf x.toNat < 10))

/-! ### Control flow -/

/-- R181, R182, R197 to R199: unconditional transfers, calls with their link, and the trap at a target that is no head, which writes no link; where a transfer leaves the context: PC at the target, the line to be entered anew, every other register as it was. The conditional branches. -/
def Obligations.Transfers : Prop :=
  ((∀ s s' e, Head s (target s e) s' → exec (.br e) s = .next (goes s' (target s e))) ∧
   (∀ s s' e, s.OpsReady [] [.x 15 false] → Head s (target s e) s' → exec (.call e) s = .next (links s' (target s e))) ∧
   (∀ s s' a, s.OpsReady [srcX a] [] → Head s (val s a).toNat s' → exec (.jr a) s = .next (goes s' (val s a).toNat)) ∧
   (∀ s s' a, s.OpsReady [srcX a] [.x 15 false] → Head s (val s a).toNat s' →
     exec (.callr a) s = .next (links s' (val s a).toNat)) ∧
   (∀ s s', s.OpsReady [.x 15 true] [] → Head s (s.me.getX 15).toNat s' →
     exec .ret s = .next (goes s' (s.me.getX 15).toNat)) ∧
   (∀ s s' e, NoHead s (target s e) s' →
     exec (.br e) s = .next (s.traps s' Cause.illegalLine (target s e) 0) ∧
     (s.OpsReady [] [.x 15 false] →
       exec (.call e) s = .next (s.traps s' Cause.illegalLine (target s e) 0))) ∧
   (∀ s s' a, NoHead s (val s a).toNat s' →
     (s.OpsReady [srcX a] [] → exec (.jr a) s = .next (s.traps s' Cause.illegalLine (val s a).toNat 0)) ∧
     (s.OpsReady [srcX a] [.x 15 false] →
       exec (.callr a) s = .next (s.traps s' Cause.illegalLine (val s a).toNat 0))) ∧
   (∀ (s : State) (t : Nat),
     (goes s t).me.pc = t ∧ (goes s t).me.line = none ∧ OnlyRegs s (goes s t) [] ∧ (goes s t).me.fcsr = s.me.fcsr ∧
     (links s t).me.pc = t ∧ (links s t).me.line = none ∧ (links s t).me.getX 15 = wd s.me.next ∧
     OnlyRegs s (links s t) [15] ∧ (links s t).me.fcsr = s.me.fcsr)) ∧
  (Branch2 .bccEq (fun x y => x = y) ∧ Branch2 .bccNe (fun x y => x ≠ y) ∧
   Branch2 .bccLt (fun x y => x.toInt < y.toInt) ∧ Branch2 .bccGe (fun x y => y.toInt ≤ x.toInt) ∧
   Branch2 .bccLtn (fun x y => x.toNat < y.toNat) ∧ Branch2 .bccGen (fun x y => y.toNat ≤ x.toNat) ∧
   Branch1 .bz (fun x => x = 0) ∧ Branch1 .bnz (fun x => x ≠ 0))

/-- R201, R202, R343, R378: TRAP completes and saves the next head, and a handler's abort logs the head of the TRAP itself; BRK saves its own; an erg first waits for what hand-back waits for, and a handler for the homes that its end needs; TRAPVAL holds the kind above the immediate. -/
def Obligations.SoftwareTraps : Prop :=
  ∀ (s : State) (e : BitVec 27),
    exec (.trap e) s = .next (if s.trapWaits s.cur 0x50 then s.trapLater s.cur 0x50
      else s.takeTrap s.cur 0x50 (e.signExtend 32).toNat 0 (if s.cur.isHandler then s.me.pc else s.me.next)) ∧
    exec (.brk e) s = .next (s.traps s 0x50 (2 ^ 32 + (e.signExtend 32).toNat) 0)

/-- R200, R370, R371, R374: taking a trap in a berth of a thread that is no erg: STATUS saved, the cause, value, mask and PC written, SUP or above, TRAP set, PC at head 1 of TVEC's line; every scalar register, the vector state and everything outside the context stay. The first instruction at a trap entry, TRAP and BRK apart, ends the thread instead and logs kind 3; a trap in a handler slot frees the slot. -/
def Obligations.TrapEntry : Prop :=
  (∀ (s : State) (c : CtxId) (cause v m pc : Nat),
    c.isHandler = false → (s.ctxAt c).entryFails cause = false → (s.ctxAt c).ergBit = false →
    let x := s.ctxAt c
    let t := s.takeTrap c cause v m pc
    let y := t.ctxAt c
    y.tstatus = wd (statusOf c x) ∧ y.trapcause = wd cause ∧ y.trapval = wd v ∧ y.trapmask = wd m ∧ y.trappc = wd pc ∧
    y.pl = max 1 x.pl ∧ y.trapBit = true ∧ y.pc = (s.coreAt c.core).tvec * 64 + 2 ∧ y.line = none ∧
    y.x = x.x ∧ y.xs = x.xs ∧ y.vs = x.vs ∧ y.fcsr = x.fcsr ∧ y.seed = x.seed ∧ y.ptbase = x.ptbase ∧ y.asid = x.asid ∧
    y.stream = x.stream ∧ y.lease = x.lease ∧ y.occ = x.occ ∧
    (∀ k : CtxId, k.key ≠ c.key → t.ctxAt k = s.ctxAt k) ∧ { t with ctx := s.ctx } = s) ∧
  (∀ (s : State) (c : CtxId) (cause v m pc : Nat),
    (c.isHandler = false → (s.ctxAt c).entry = true → cause ≠ Cause.software →
      s.takeTrap c cause v m pc = (s.endThread c).logFault c.core ⟨3, cause, 0, none, 0, pc, v⟩ ∧
      ((s.endThread c).ctxAt c).occ = .draining) ∧
    (c.isHandler = true → (s.takeTrap c cause v m pc).ctxAt c = Ctx.reset))

/-- R203, R341, R345: TRET outside trap context, or to MON from below it, takes PRIV; otherwise it restores the privilege, clears TRAP and goes on at TRAPPC, changing no other register; where the thread is an erg again, its home core's dirty words have become CL registrations first. The level on a service core is the model's choice (log 39). -/
def Obligations.TrapReturn : Prop :=
  (∀ s, (s.me.trapBit = false ∨ s.me.tstatus.toNat % 4 = 3 ∧ s.me.pl ≠ 3) →
    exec .tret s = .next (s.traps s Cause.priv 0 0)) ∧
  (∀ s s', s.me.trapBit = true → (s.me.tstatus.toNat % 4 = 3 → s.me.pl = 3) → Head s s.me.trappc.toNat s' →
    let s₁ := if (s.me.leaveTrap s.cur).composed then s'.cleanToNear s.cur.core else s'
    exec .tret s = .next (s₁.updMe fun x => (x.leaveTrap s.cur).done)) ∧
  (∀ (x : Ctx) (c : CtxId),
    let p := if x.tstatus.toNat % 4 = 2 then 0 else x.tstatus.toNat % 4
    let y := x.leaveTrap c
    y.pc = x.trappc.toNat ∧ y.trapBit = false ∧ y.pl = (if isSvc c.core then max 1 p else p) ∧
    y.ergBit = (bitAt x.tstatus.toNat 2 && x.ergHeld) ∧ y.line = none ∧
    { y with pc := x.pc, trapBit := x.trapBit, pl := x.pl, ergBit := x.ergBit, line := x.line, ergHeld := x.ergHeld,
             ergSize := x.ergSize } = x)

/-! ### System registers -/

/-- R204, R95: SYSR and SYSW: who may read and write each register, the checks in their order, the value read, the write performed, and the no-op of a register that nothing writes. -/
def Obligations.SystemRegisterAccess : Prop :=
  ((∀ n, n ∈ [0x000, 0x070, 0x071, 0x072] → sysAccess n = some (0, none)) ∧
  (∀ n, n ∈ [0x010, 0x011] → sysAccess n = some (0, some 0)) ∧
  (∀ n, n ∈ [0x020, 0x040, 0x041, 0x042, 0x043, 0x044, 0x045, 0x046, 0x047] → sysAccess n = some (0, some 1)) ∧
  sysAccess 0x073 = some (0, some 3) ∧
  (∀ n, n ∈ [0x001, 0x002, 0x003, 0x004, 0x005, 0x006, 0x021, 0x030, 0x031, 0x032, 0x033, 0x050, 0x051, 0x052, 0x060,
      0x080, 0x081, 0x082] → sysAccess n = some (1, some 1)) ∧
  (∀ n, n < 0x1000 → (sysAccess n).isSome = true → n ≤ 0x082)) ∧
  (∀ s d n, s.OpsReady [] [dstX d] → sysAccess n.toNat = none →
    exec (.sysr d n) s = .next (s.traps s Cause.illegalOp n.toNat 0)) ∧
  (∀ s n a, sysAccess n.toNat = none →
    exec (.sysw n a) s = .next (s.traps s Cause.illegalOp n.toNat 0)) ∧
  (∀ s d n r w, s.OpsReady [] [dstX d] → sysAccess n.toNat = some (r, w) → s.me.pl < r →
    exec (.sysr d n) s = .next (s.traps s Cause.priv n.toNat 0)) ∧
  (∀ s n a r w, s.OpsReady [srcX a] [] → sysAccess n.toNat = some (r, some w) → s.me.pl < w →
    exec (.sysw n a) s = .next (s.traps s Cause.priv n.toNat 0)) ∧
  (∀ s d n r w, s.OpsReady [] [dstX d] → sysAccess n.toNat = some (r, w) → r ≤ s.me.pl → NumericIdle s →
    exec (.sysr d n) s = .next (s.writes d (wd (s.readSys n.toNat)))) ∧
  (∀ s n a r, s.OpsReady [srcX a] [] → sysAccess n.toNat = some (r, none) → exec (.sysw n a) s = .next (s.ends id)) ∧
  (∀ s n a r w, s.OpsReady [srcX a] [] → sysAccess n.toNat = some (r, some w) → w ≤ s.me.pl → NumericIdle s →
    (s.writeSys n.toNat (val s a).toNat).1 = 0 →
    exec (.sysw n a) s = .next ((s.writeSys n.toNat (val s a).toNat).2.ends id)) ∧
  (∀ s n a r w, s.OpsReady [srcX a] [] → sysAccess n.toNat = some (r, some w) → w ≤ s.me.pl → NumericIdle s →
    (s.writeSys n.toNat (val s a).toNat).1 ≠ 0 →
    exec (.sysw n a) s = .next ((s.writeSys n.toNat (val s a).toNat).2.ends fun x => { x with moving := some (0, 0) }))

/-- R94 to R100, R204: what a berth reads back from each system register that it wrote, with the clamps and the reserved bits of its map: VLANES keeps its value under any other than 8, 16 and 32, and takes 16 for 32 on a narrow core; SAVEPTR keeps it while a slot is in use. A thread at USR changes no register that takes SUP. MBOXDEPTH is clamped after bits [5:0] of the word are taken, by the model's reading (log 16). -/
def Obligations.SystemRegisterFields : Prop :=
  (∀ (s : State) (n v r : Nat), s.cur.isHandler = false → v < 2 ^ 64 → stored n v = some r →
     ((s.writeSys n v).2).readSys n = r) ∧
  (∀ (s : State) (v : Nat),
     ((s.writeSys 0x020 v).2).readSys 0x020 =
       (if v % 64 = 8 ∨ v % 64 = 16 then v % 64 else if v % 64 = 32 then (if s.narrow s.cur.core then 16 else 32)
        else s.readSys 0x020) ∧
     ((s.writeSys 0x021 v).2).readSys 0x021 = min 28 (v % 2 ^ 5) + min 28 (v / 2 ^ 8 % 2 ^ 5) * 2 ^ 8 + v / 2 ^ 16 % 2 * 2 ^ 16 ∧
     ((s.coreAt s.cur.core).saved = [] → ((s.writeSys 0x052 v).2).readSys 0x052 = v % 2 ^ 52 - v % 2 ^ 16 + v % 2 ^ 8) ∧
     ((s.coreAt s.cur.core).saved ≠ [] → ((s.writeSys 0x052 v).2).readSys 0x052 = s.readSys 0x052)) ∧
  (∀ (s : State) (n : BitVec 12) (a : Src) (t : State) (r w : Nat),
     s.me.pl = 0 → s.me.ergBit = false → s.me.entry = false → s.cur.isHandler = false →
     sysAccess n.toNat = some (r, some w) → 1 ≤ w →
     exec (.sysw n a) s = .next t →
     t.core = s.core ∧ t.disp = s.disp ∧ t.pkgid = s.pkgid ∧ t.me.ptbase = s.me.ptbase ∧ t.me.asid = s.me.asid)

/-- R156, R158, R160, R206 to R208, R235, R236: NOP moves on alone; HALT consumes the wake bit, waits without it, takes PRIV at USR and HANDLER_BLOCK in a handler slot; IFENCE releases the core's code words, empties the instruction caches that its lines lie in and fetches anew. Fences and region operations, once the thread's earlier accesses are performed and the homes written to can be reached: a release, an acquire, or both, at the scope over the region, with the errors that are due taken first. An acquire leaves no clean word of its region in the core's L1, and keeps every dirty or registered one. -/
def Obligations.WaitsAndFences : Prop :=
  ((∀ s, exec .nop s = .next (s.ends id) ∧ OnlyRegs s (s.ends id) [] ∧ (s.ends id).me.pc = s.me.next) ∧
   (∀ s, s.me.pl ≠ 0 → s.cur.isHandler = false → s.me.wake = true →
     exec .halt s = .next (s.ends fun x => { x with wake := false })) ∧
   (∀ s, s.me.pl ≠ 0 → s.cur.isHandler = false → s.me.wake = false → exec .halt s = .next { s with waited := true }) ∧
   (∀ s, s.me.pl = 0 → exec .halt s = .next (s.traps s Cause.priv 0 0)) ∧
   (∀ s, s.me.pl ≠ 0 → s.cur.isHandler = true → exec .halt s = .next (s.traps s Cause.handlerBlock 0 0)) ∧
   (∀ s, s.MayRelease 0 1023 →
     let s₁ := s.release (s.me.l1s s.cur.core) 0 1023
     s₁.Quiet → exec .ifence s =
       .next (((s₁.me.l1s s₁.cur.core).foldl (fun s k => s.updCore k.1 fun k => { k with icache := [] }) s₁).updMe
         fun x => { x.advance with line := none }.done))) ∧
  ((∀ s sc n, s.unperformed s.me.uid = false →
     exec (.acq sc n) s = .next ((s.acquire (s.me.l1s s.cur.core) sc.code n.toNat).ends id)) ∧
   (∀ s sc n, s.MayRelease sc.code n.toNat → (s.release (s.me.l1s s.cur.core) sc.code n.toNat).Quiet →
     exec (.rel sc n) s = .next ((s.release (s.me.l1s s.cur.core) sc.code n.toNat).ends id)) ∧
   (∀ s sc n, s.MayRelease sc.code n.toNat → (s.release (s.me.l1s s.cur.core) sc.code n.toNat).Quiet →
     let s₁ := s.release (s.me.l1s s.cur.core) sc.code n.toNat
     exec (.acqrel sc n) s = .next ((s₁.acquire (s₁.me.l1s s₁.cur.core) sc.code n.toNat).ends id)) ∧
   (∀ s, s.Quiet → exec .fence s = .next (s.ends id)) ∧
   (∀ s sc n, exec (.rgninv sc n) s = .next ((s.acquire (s.me.l1s s.cur.core) sc.code n.toNat).ends id)) ∧
   (∀ s n, s.unperformed s.me.uid = false → s.WayFree (s.writeBackHomes n.toNat) → (s.writeBackMine n.toNat).Quiet →
     exec (.rgnwb n) s = .next ((s.writeBackMine n.toNat).ends id)) ∧
   (∀ s, s.unperformed s.me.uid = false → ∀ r, firstReport s.me.reports = some r →
     exec .fence s = .next (s.traps (s.updMe fun x => { x with reports := [] }) r.cause (dataVal 0x80 r.addr) 0)) ∧
   (∀ s, s.unperformed s.me.uid = true →
     exec .fence s = .next (s.updMe fun x => { x with wait := some .ack }))) ∧
  (∀ (s : State) (core g sc : Nat), g ≠ 0 →
     let t := s.acquire [(core, none)] sc g
     (∀ e, e ∈ (t.coreAt core).l1 → e.2.erg = none → covers g e.2.region = true → e.2.dirty = true ∨ e.2.reg = true) ∧
     (∀ e, e ∈ (s.coreAt core).l1 → (e.2.dirty = true ∨ e.2.reg = true ∨ covers g e.2.region = false) →
       e ∈ (t.coreAt core).l1) ∧
     t.mem = s.mem ∧ t.ctx = s.ctx ∧ t.reg = s.reg)

/-! ### Fences, regions and watermarks -/

/-! ### Memory -/

/-- Every operation of memory keeps its canonical form, and a byte reads as what was last written to it. -/
def Obligations.MemoryLaws : Prop :=
  ∀ (m : List Host.Cell) (a v n : Nat), Memory.wf m = true →
    Memory.wf (writeBytes m a v n) = true ∧
    (∀ k, k < n → readByte (writeBytes m a v n) (a + k) = BitVec.ofNat 8 (v / 256 ^ k)) ∧
    (∀ b, (b < a ∨ a + n ≤ b) → readByte (writeBytes m a v n) b = readByte m b) ∧
    readBytes (writeBytes m a v n) a n = v % 256 ^ n ∧
    (∀ m', Memory.wf m' = true → (∀ b, readByte m' b = readByte m b) → m' = m)

/-- R78, R139, R223, R224: LD marks its destination empty and puts its extended value on the way; it changes nothing else but the caches that it reads through. An access of 1, 2, 4 or 8 aligned bytes is one piece, whose checks are its translation and the check of its page; a load on an UNCACHED or SYNC page of local HBM reads the bytes at their home, in little-endian order. -/
def Obligations.Loads : Prop :=
  (∀ (s s' : State) (z : MSize) (d : Reg) (a : Src) (off : BitVec 24) (ps : List Piece) (v : Nat) (bad : Option Nat),
     let n := (loadSize z).1
     let va := addr s a off
     s.OpsReady [srcX a] [.x d.toNat false] → Access s va n .load (plainCheck (va % n == 0) n) ps → Open s ps false →
     (∀ p ∈ ps, paClass p.x.pa ≠ 2) → (readPieces ps).go s = (.ok (v, bad), s') →
     exec (.ld z d a off) s =
       .next ((producing s' d (extend (8 * n) (loadSize z).2 v) va (firstPa ps) bad (source s ps)).ends id)) ∧
  ((∀ (s : State) (va n : Nat) (kind : Kind) (chk : Check) (x : Xl),
     n ∈ [1, 2, 4, 8] → va % n = 0 → va < 2 ^ 64 → s.Translates va kind x → (chk x n).go s = (.ok (), s) →
     Access s va n kind chk [⟨x, 0, n⟩]) ∧
   (∀ (s : State) (x : Xl) (n : Nat) (alloc : Bool), paClass x.pa = 0 → 2 ≤ x.mode → x.pa % 64 + n ≤ 64 → 0 < n →
     (readPiece x n alloc).go s = (.ok (s.homeBytes x.pa n, s.badIn x.pa n), s.metBytes x.pa n) ∧
     (s.poisonIn x.pa n = none → s.badIn x.pa n = none ∧ s.metBytes x.pa n = s) ∧
     ((∀ w ∈ wordsOf x.pa n, s.holder w = none) → s.homeBytes x.pa n = readBytes s.mem x.pa n)))

/-- R224: a misaligned LD or ST on a SYNC page, and a misaligned LDA, STREL, WMADV, SCRUB or AMO of any of the eleven operations anywhere, take MISALIGN with the address. -/
def Obligations.MisalignTraps : Prop :=
  (∀ (s : State) (d : Reg) (a : Src) (off : BitVec 24),
    (∀ z x, s.OpsReady [srcX a] [.x d.toNat false] → addr s a off % (loadSize z).1 ≠ 0 →
      s.Translates (addr s a off) .load x → x.mode = 3 → behindWindow x.pa = false →
      exec (.ld z d a off) s = .next (s.traps s Cause.misalign x.va 0)) ∧
    (∀ z b x, s.OpsReady [srcX a, srcX b] [] → addr s a off % storeSize z ≠ 0 →
      s.Translates (addr s a off) .store x → x.mode = 3 → behindWindow x.pa = false →
      exec (.st z a off b) s = .next (s.traps s Cause.misalign x.va 0)) ∧
    (∀ z sc, s.OpsReady [srcX a] [.x d.toNat false] → s.me.token = none → addr s a off % (loadSize z).1 ≠ 0 →
      exec (.lda z sc d a off) s = .next (s.traps s Cause.misalign (addr s a off) 0)) ∧
    (∀ z sc b, s.OpsReady [srcX a, srcX b] [] → addr s a off % storeSize z ≠ 0 →
      exec (.strel z sc a off b) s = .next (s.traps s Cause.misalign (addr s a off) 0)) ∧
    (∀ sc b, s.OpsReady [srcX a, srcX b] [] → addr s a off % 8 ≠ 0 →
      exec (.wmadv sc a off b) s = .next (s.traps s Cause.misalign (addr s a off) 0) ∧
      exec (.scrub a off b) s = .next (s.traps s Cause.misalign (addr s a off) 0))) ∧
  (AmoMisaligned .amoadd ∧ AmoMisaligned .amoand ∧ AmoMisaligned .amoor ∧ AmoMisaligned .amoxor ∧ AmoMisaligned .amomin ∧
   AmoMisaligned .amomax ∧ AmoMisaligned .amominn ∧ AmoMisaligned .amomaxn ∧ AmoMisaligned .amoswap ∧ AmoMisaligned .amofadd ∧
   (∀ (s : State) w o d a (off : BitVec 16) b c, s.OpsReady [srcX a, srcX b, srcX c] [.x d.toNat false] → s.me.token = none →
     addr s a off % amoBytes w ≠ 0 →
     exec (.amocas w o d a off b c) s = .next (s.traps s Cause.misalign (addr s a off) 0)))

/-- R223 to R225, R234, R237: LDA acquires after its load; ST stores its piece; STREL and WMADV release first, wait for every earlier access, then store; SCRUB rewrites the word at its home. -/
def Obligations.StoresComplete : Prop :=
  (∀ (s s' : State) z a off b ps,
    s.OpsReady [srcX a, srcX b] [] →
    Access s (addr s a off) (storeSize z) .store (plainCheck (addr s a off % storeSize z == 0) (storeSize z)) ps →
    Open s ps true → (writePieces ps ((val s b).toNat % 256 ^ storeSize z)).go s = (.ok (), s') →
    exec (.st z a off b) s = .next (s'.ends id)) ∧
  (∀ (s s' : State) z sc a off b ps,
    s.OpsReady [srcX a, srcX b] [] → addr s a off % storeSize z = 0 →
    Access s (addr s a off) (storeSize z) .store syncCheck ps → Open s ps true →
    s.MayRelease sc.code 1023 → (releases s sc).Quiet →
    (writePieces ps (((releases s sc).me.getX b.r.toNat).toNat % 256 ^ storeSize z)).go (releases s sc) = (.ok (), s') →
    exec (.strel z sc a off b) s = .next (s'.ends id)) ∧
  (∀ (s s' : State) sc a off b ps,
    s.OpsReady [srcX a, srcX b] [] → addr s a off % 8 = 0 → Access s (addr s a off) 8 .store syncCheck ps → Open s ps true →
    s.MayRelease sc.code 1023 → (releases s sc).Quiet →
    (writePieces ps (((releases s sc).me.getX b.r.toNat).toNat % 256 ^ 8)).go (releases s sc) = (.ok (), s') →
    exec (.wmadv sc a off b) s = .next (s'.ends id)) ∧
  (∀ (s : State) a off b x,
    s.OpsReady [srcX a, srcX b] [] → addr s a off % 8 = 0 → Access s (addr s a off) 8 .store scrubCheck [⟨x, 0, 8⟩] →
    Open s [⟨x, 0, 8⟩] true → paClass x.pa ≠ 2 →
    let s₁ := (s.setPoison (x.pa / 8) false).purgeBytes x 8
    exec (.scrub a off b) s = .next (((s₁.homePut x.pa 8 (val s b).toNat).2).ends id)) ∧
  (∀ (s s' : State) z sc d a off x v,
    let n := (loadSize z).1
    let va := addr s a off
    s.me.token = none → s.OpsReady [srcX a] [.x d.toNat false] → va % n = 0 → Access s va n .load syncCheck [⟨x, 0, n⟩] →
    Open s [⟨x, 0, n⟩] false → paClass x.pa ≠ 2 → (readPiece x n false).go s = (.ok (v, none), s') →
    exec (.lda z sc d a off) s =
      .next ((acquires (producing s' d (extend (8 * n) (loadSize z).2 v) va x.pa none (s.originOf x n)) sc).ends id)) ∧
  (∀ (s : State) z sc d a off, s.me.token = some [] → exec (.lda z sc d a off) s = .next ((acquires s sc).ends id))

/-- R5, R139, R140, R159: a store of aligned bytes to an UNCACHED or SYNC page of local HBM, of a word that has no copy, writes exactly its bytes: every address outside them reads as before, and of other contexts it changes no more than the wait of those that watch the word (R232). A store to an OWNED page changes no byte at any home; its core's L1 holds the word afterwards, dirty, with the stored bytes merged into what an access of the core read before. -/
def Obligations.StoreFrame : Prop :=
  (∀ (s t : State) (z : SSize) (a b : Src) (off : BitVec 24) (x : Xl),
     let n := storeSize z
     let va := addr s a off
     s.OpsReady [srcX a, srcX b] [] → va % n = 0 → s.Translates va .store x → x.pa % n = 0 → paClass x.pa = 0 → 2 ≤ x.mode →
     x.wb = false → s.heldBack s.cur.core x.pa n = false → Alone s → AtHome s s.cur.core (x.pa / 8) →
     exec (.st z a off b) s = .next t →
     (∀ k, k < n → readByte t.mem (x.pa + k) = BitVec.ofNat 8 ((val s b).toNat / 256 ^ k)) ∧
     (∀ m, (m < x.pa ∨ x.pa + n ≤ m) → readByte t.mem m = readByte s.mem m) ∧
     (∀ r, t.me.getX r = s.me.getX r) ∧ t.me.fcsr = s.me.fcsr ∧ t.me.vs = s.me.vs ∧
     (∀ c : CtxId, c.key ≠ s.cur.key →
       { t.ctxAt c with wait := (s.ctxAt c).wait, token := (s.ctxAt c).token } = s.ctxAt c)) ∧
  (∀ (s t : State) (z : SSize) (a b : Src) (off : BitVec 24) (x : Xl) (e : L1W),
     let n := storeSize z
     let va := addr s a off
     let w := x.pa / 8
     s.OpsReady [srcX a, srcX b] [] → va % n = 0 → s.Translates va .store x → x.pa % n = 0 → paClass x.pa = 0 → x.mode = 0 →
     x.wb = false → s.heldBack s.cur.core x.pa n = false → Alone s → s.l1 s.cur.core w = some e →
     (∀ k, k < 8 → ∀ e', s.l1 s.cur.core (8 * (w / 8) + k) = some e' → e'.erg = none) →
     exec (.st z a off b) s = .next t →
     t.mem = s.mem ∧
     ∃ e', t.l1 s.cur.core w = some e' ∧ e'.dirty = true ∧
       ∀ k, k < 8 → e'.data.toNat / 256 ^ k % 256 =
         if x.pa ≤ 8 * w + k ∧ 8 * w + k < x.pa + n then (val s b).toNat / 256 ^ (8 * w + k - x.pa) % 256
         else e.data.toNat / 256 ^ k % 256)

/-! ### Atomics -/

/-- R226, R227: the eleven atomic forms end once their operation is performed; with an acquire ordering they acquire after it. An atomic on a word of a scratchpad's window 0 or of a home slice that holds its line, poisoned nowhere and with no copy before its home: the old value goes to the destination, the new one to the word; and the new values. -/
def Obligations.Atomics : Prop :=
  (AmoForm .amoadd .add ∧ AmoForm .amoand .and ∧ AmoForm .amoor .or ∧ AmoForm .amoxor .xor ∧ AmoForm .amomin .min ∧
   AmoForm .amomax .max ∧ AmoForm .amominn .minn ∧ AmoForm .amomaxn .maxn ∧ AmoForm .amoswap .swap ∧ AmoForm .amofadd .fadd ∧
   (∀ (s t : State) w o d a off b c p,
     s.me.token = none → s.OpsReady [srcX a, srcX b, srcX c] [.x d.toNat false] → addr s a off % amoBytes w = 0 →
     Access s (addr s a off) (amoBytes w) .atomic amoCheck [p] → Open s [p] true →
     (∀ sc, ordRel o = some sc → s.MayRelease sc 1023 ∧ (ordReleases s o).Quiet) →
     (amoPerform .cas w o d p.x ((ordReleases s o).me.getX b.r.toNat) ((ordReleases s o).me.getX c.r.toNat)).go (ordReleases s o) =
       (.ok (), t) →
     exec (.amocas w o d a off b c) s = .next (t.updMe Ctx.done)) ∧
   (∀ (s : State) w sc d a off b c, s.me.token = some [] →
     exec (.amoadd w (.acq sc) d a off b) s = .next ((acquires s sc).ends id) ∧
     exec (.amocas w (.ar sc) d a off b c) s = .next ((acquires s sc).ends id))) ∧
  ((∀ (old b c : Word),
     amoNew .add 64 old.toNat b.toNat c.toNat = some (old + b).toNat ∧
     amoNew .and 64 old.toNat b.toNat c.toNat = some (old &&& b).toNat ∧
     amoNew .or 64 old.toNat b.toNat c.toNat = some (old ||| b).toNat ∧
     amoNew .xor 64 old.toNat b.toNat c.toNat = some (old ^^^ b).toNat ∧
     amoNew .min 64 old.toNat b.toNat c.toNat = some (if b.toInt < old.toInt then b else old).toNat ∧
     amoNew .max 64 old.toNat b.toNat c.toNat = some (if old.toInt < b.toInt then b else old).toNat ∧
     amoNew .minn 64 old.toNat b.toNat c.toNat = some (if b.toNat < old.toNat then b else old).toNat ∧
     amoNew .maxn 64 old.toNat b.toNat c.toNat = some (if old.toNat < b.toNat then b else old).toNat ∧
     amoNew .swap 64 old.toNat b.toNat c.toNat = some b.toNat ∧
     amoNew .cas 64 old.toNat b.toNat c.toNat = (if old = c then some b.toNat else none)) ∧
   (∀ (s : State) (op : AmoOp) (w : Bool) (d : Reg) (x : Xl) (b c : Word),
     let n := amoBytes w
     let old := s.homeBytes x.pa n
     let o : Origin := if paClass x.pa = 1 then .spm (spmAddr x.pa).core else .home (bitsAt x.pa 37 2)
     paClass x.pa = 1 ∨ paClass x.pa = 0 ∧ s.homeHolds x.pa = true → x.pa % n = 0 →
     Alone s → AtHome s s.cur.core (x.pa / 8) → d ≠ 0 →
     let s₁ := match amoNew op (8 * n) old (b.toNat % 256 ^ n) (c.toNat % 256 ^ n) with
       | some v => (s.homePut x.pa n v).2
       | none => s
     (amoPerform op w .rlx d x b c).go s =
       (.ok (), (producing s₁ d (extend (8 * n) (amoSigned op) old) x.va x.pa none o).updMe Ctx.advance)))

/-! ### Locks -/

/-- R229, R231: taking, trying and releasing a queue lock or a versioned lock at its home. A free lock is taken at once; a held one queues the caller, who sleeps and ends when it is answered; a release by another than the owner answers 1 and changes nothing; QTRY never waits. -/
def Obligations.LockInstructions : Prop :=
  ∀ (s : State) (sc : Scope) (d : Reg) (a : Src) (off : BitVec 24) (x : Xl),
    let va := addr s a off
    s.OpsReady [srcX a] [.x d.toNat false] → paClass x.pa ≠ 2 →
    (∀ v r, s.me.token = some (v :: r) →
      exec (.qacq sc d a off) s = .next ((acquires (s.updMe fun k => k.setX d.toNat v) sc).ends id) ∧
      exec (.vlock sc d a off) s = .next ((acquires (s.updMe fun k => k.setX d.toNat v) sc).ends id)) ∧
    (s.me.token = none → s.cur.isHandler = false → bitsAt (s.homeBytes x.pa 8) 50 13 = 0 →
      (SyncWord s va 8 x →
        (∀ v s', s.lockAcquire x.pa (s.waiterMe false) = (some v, s') →
          exec (.qacq sc d a off) s = .next ((acquires (s'.updMe fun k => k.setX d.toNat (wd v)) sc).ends id)) ∧
        (∀ s', s.lockAcquire x.pa (s.waiterMe false) = (none, s') →
          exec (.qacq sc d a off) s = .next (s'.updMe fun k => { k with wait := some (.lock x.pa) }))) ∧
      (SyncWord s va 16 x →
        (∀ v s', s.lockAcquire x.pa (s.waiterMe true) = (some v, s') →
          exec (.vlock sc d a off) s = .next ((acquires (s'.updMe fun k => k.setX d.toNat (wd v)) sc).ends id)) ∧
        (∀ s', s.lockAcquire x.pa (s.waiterMe true) = (none, s') →
          exec (.vlock sc d a off) s = .next (s'.updMe fun k => { k with wait := some (.lock x.pa) })))) ∧
    (SyncWord s va 8 x → bitsAt (s.homeBytes x.pa 8) 50 13 = 0 →
      (∀ s', s.lockTry x.pa s.identMe = (0, s') →
        exec (.qtry sc d a off) s = .next ((acquires (s'.updMe fun k => k.setX d.toNat 0) sc).ends id)) ∧
      (∀ s', s.lockTry x.pa s.identMe = (1, s') → exec (.qtry sc d a off) s = .next (s'.writes d 1))) ∧
    (s.me.asks = [] → s.MayRelease sc.code 1023 → (releases s sc).Quiet →
      let s₁ := releases s sc
      (SyncWord s va 8 x →
        exec (.qrel sc d a off) s =
          .next ((s₁.lockRelease x.pa s₁.identMe false).2.writes d (wd (s₁.lockRelease x.pa s₁.identMe false).1))) ∧
      (SyncWord s va 16 x →
        exec (.vunlock sc d a off) s =
          .next ((s₁.lockRelease x.pa s₁.identMe true).2.writes d (wd (s₁.lockRelease x.pa s₁.identMe true).1))))

/-- R32, R33, R228, R229, R231: what the operations on a lock do at its home: the fields of a lock word are read back as written; a held lock goes to the waiter that came first and to nobody else; only the owner releases. What a group does at its home, in a record of a scratchpad's window 0 that holds no poison: JOIN between phases adds a member; an arrival before the last only counts; the last one completes the phase. -/
def Obligations.LocksAndGroups : Prop :=
  ((∀ tail owner, tail < 2 ^ 25 → owner < 2 ^ 25 →
     lockOf (lockWord tail owner) = ⟨true, tail, owner⟩ ∧ lockWord tail owner < 2 ^ 64 ∧
     bitsAt (lockWord tail owner) 50 13 = 0) ∧
   (∀ (s : State) (pa ident : Nat) (w : Waiter),
     ((lockOf (s.homeBytes pa 8)).held = true →
       (s.lockAcquire pa w).1 = none ∧ (s.lockAcquire pa w).2.lockQueue pa = s.lockQueue pa ++ [w] ∧
       s.lockTry pa ident = (1, s)) ∧
     ((lockOf (s.homeBytes pa 8)).held = false → (∀ ver, s.lockRelease pa ident ver = (1, s))) ∧
     ((lockOf (s.homeBytes pa 8)).owner ≠ ident → (∀ ver, s.lockRelease pa ident ver = (1, s))) ∧
     (∀ v r, s.lockQueue pa = v :: r → (s.lockPass pa ident).lockQueue pa = r) ∧
     (s.lockQueue pa = [] → KMap.find none (s.lockPass pa ident).heldLocks pa = none))) ∧
  (∀ (s : State) (pa : Nat) (w : Waiter), paClass pa = 1 → behindWindow pa = false → pa % 16 = 0 → s.poisonIn pa 16 = none →
     s.holder (pa / 8) = none → s.holder (pa / 8 + 1) = none →
     let g := s.group pa
     (g.arrived = 0 → g.members + 1 < 2 ^ 32 →
       (s.groupJoin pa w).1 = some g.phase ∧ (s.groupJoin pa w).2.group pa = ⟨g.members + 1, 0, g.phase⟩) ∧
     (g.arrived ≠ 0 → (s.groupJoin pa w).1 = none ∧ (s.groupJoin pa w).2.groupQueue pa = s.groupQueue pa ++ [w]) ∧
     (g.arrived + 1 < g.members →
       (s.groupBar pa w).1 = none ∧ (s.groupBar pa w).2.groupQueue pa = s.groupQueue pa ++ [w] ∧
       (s.groupBar pa w).2.group pa = ⟨g.members, g.arrived + 1, g.phase⟩) ∧
     (g.members ≤ g.arrived + 1 → (s.groupBar pa w).1 = some ((g.phase + 1) % 2 ^ 16)) ∧
     (g.members = 0 → s.groupLeave pa = (g.phase, s)) ∧
     (1 < g.members → g.arrived + 1 < g.members →
       (s.groupLeave pa).1 = g.phase ∧ (s.groupLeave pa).2.group pa = ⟨g.members - 1, g.arrived, g.phase⟩))

/-! ### Vectors -/

/-- R88 to R91, R244, R245: SETVL grants rows and sets VL, moving banks first where it must; with rows enough it grants what it asks and VL is the smaller of the request and VLMAX; its FREE form gives the state up; VCFG sets a tag, changes no bit of the register, and asks for a grant of 4 with VL 0 where the thread holds none; where VL does not fit the new width it takes VSTATE. -/
def Obligations.VectorConfiguration : Prop :=
  (∀ (s : State) (w : BitVec 2) (g : BitVec 4) (d : Reg) (a : Src),
    s.OpsReady [srcX a] [.x d.toNat false] → isSvc s.cur.core = false → (s.me.ergBit && !s.me.trapBit) = false →
    s.cur.isHandler = false → s.vectorBusy s.cur = false →
    let own := match s.me.vs with
      | some v => v.g
      | none => 0
    let gr := if g.toNat ≠ 0 then 2 ^ (g.toNat - 1) else if own = 0 then 4 else own
    let o := s.occupy (if g.toNat ≠ 0 then 2 ^ (g.toNat - 1) else match s.me.vs with
      | some v => v.g
      | none => 4) (val s a).toNat (8 * 2 ^ w.toNat)
    (o.2.1 = 0 → exec (.setvl w g d a) s = .next (o.2.2.writes d (wd o.1))) ∧
    (o.2.1 ≠ 0 → exec (.setvl w g d a) s =
      .next (o.2.2.ends fun x => { x.markX d.toNat .empty with moving := some (d.toNat, o.1) })) ∧
    (gr ∈ [1, 2, 4, 8, 16, 32] → 32 * gr ≤ 64 * (s.coreAt s.cur.core).banks - s.grantedRows s.cur.core →
      (∀ b, b < 8 → b ≠ s.cur.idx → (s.ctxAt ⟨s.cur.core, b⟩).short = false) → (own = 0 ↔ s.me.vs = none) →
      o.1 = min (val s a).toNat (gr * (64 * (s.coreAt s.cur.core).vlanes) / (8 * 2 ^ w.toNat)) ∧ o.2.1 = 0 ∧
      ∃ v, o.2.2.me.vs = some v ∧ v.g = gr ∧ v.vl = o.1)) ∧
  (∀ (s : State) (d : Reg), s.OpsReady [] [.x d.toNat false] → isSvc s.cur.core = false →
    (s.me.ergBit && !s.me.trapBit) = false → s.cur.isHandler = false → s.vectorBusy s.cur = false →
    exec (.setvlFree d) s = .next (s.ends fun x => ({ x with vs := none, short := false } : Ctx).setX d.toNat 0)) ∧
  (∀ (s : State) (ty : BitVec 4) (sc : Bool) (vd : BitVec 5),
    s.OpsReady [] [.v vd.toNat false] → isSvc s.cur.core = false → (s.me.ergBit && !s.me.trapBit) = false →
    s.cur.isHandler = false → s.vectorBusy s.cur = false →
    let tagged (r : VReg) : VReg := { r with ty := ty.toNat, s := sc, sc := if sc && !r.s then [] else r.sc }
    (∀ v, s.me.vs = some v → Fits s v [tyWidth ty.toNat] → exec (.vcfg ty sc vd) s =
      .next (s.ends fun x => x.updV fun k => { k with v := KMap.ins k.v vd.toNat (tagged (k.getV vd.toNat)) })) ∧
    (∀ v, s.me.vs = some v → vlmax v.g (s.coreAt s.cur.core).vlanes (tyWidth ty.toNat) < v.vl →
      exec (.vcfg ty sc vd) s = .next (s.traps s Cause.vstate v.vl 0)) ∧
    (∀ v, s.me.vs = none → (s.occupy 4 0 8).2.1 = 0 → (s.occupy 4 0 8).2.2.me.vs = some v → v.vl = 0 →
      exec (.vcfg ty sc vd) s = .next ((s.occupy 4 0 8).2.2.ends fun x => x.updV fun k =>
        { k with v := KMap.ins k.v vd.toNat (tagged (k.getV vd.toNat)) })))

/-- R85, R242: the elements of a formed result: below VL an active element has the operation's bits and an inactive one the kept bits; nothing lies at or above VL. -/
def Obligations.VectorElements : Prop :=
  (∀ (v : VState) (kept w : Nat) (act : Nat → Bool) (op : Nat → Nat × Nat) (k : Nat), 0 < w →
    bitsAt (formBits v kept w act op).1 (w * k) w =
      if k < v.vl then (if act k then (op k).1 % 2 ^ w else bitsAt kept (w * k) w) else 0) ∧
  (∀ (v : VState) (md : Nat) (m : MaskF) (bit : Nat → Bool) (k : Nat), md ≠ 0 →
    bitAt (KMap.find 0 (v.setMask md m bit).m md) k =
      if k < v.vl then (if v.active m.me m.mr k then bit k else !m.mz && bitAt (KMap.find 0 v.m md) k)
      else bitAt (KMap.find 0 v.m md) k) ∧
  (∀ (v : VState) (m : MaskF) (bit : Nat → Bool), v.setMask 0 m bit = v)

/-- R246, R103: the two-source and one-source arithmetic, integers modulo 2^w or saturated, floats rounded by FCSR.RM. -/
def Obligations.VectorArithmetic : Prop :=
  Vec2 .vadd isNum (elem2 (fun _ _ x y => x + y) fun f r x y => f.addOp r (f.read x) (f.read y)) ∧
  Vec2 .vsub isNum (elem2 (fun _ w x y => x + 2 ^ w - y) fun f r x y => f.addOp r (f.read x) (f.read y).neg) ∧
  Vec2 .vmul isNum (elem2 (fun _ _ x y => x * y) fun f r x y => f.mulOp r (f.read x) (f.read y)) ∧
  Vec2 .vdiv isNum (elem2 intDiv fun f r x y => f.divOp r (f.read x) (f.read y)) ∧
  Vec2 .vmin isNum (elem2 (fun sg w x y => if sg then (if toSigned w x < toSigned w y then x else y) else if x < y then x else y)
    fun f _ x y => f.minmax false x y) ∧
  Vec2 .vmax isNum (elem2 (fun sg w x y => if sg then (if toSigned w x < toSigned w y then y else x) else if x < y then y else x)
    fun f _ x y => f.minmax true x y) ∧
  Vec2 .vand isInt (fun _ _ x y => (x &&& y, 0)) ∧ Vec2 .vor isInt (fun _ _ x y => (x ||| y, 0)) ∧
  Vec2 .vxor isInt (fun _ _ x y => (Nat.xor x y, 0)) ∧ Vec2 .vshl isInt (fun ty _ x y => (x * 2 ^ (y % tyWidth ty), 0)) ∧
  Vec2 .vshr isInt (fun ty _ x y => (x / 2 ^ (y % tyWidth ty), 0)) ∧
  Vec2 .vshra isInt (fun ty _ x y => (ofSigned (tyWidth ty) (toSigned (tyWidth ty) x / 2 ^ (y % tyWidth ty)), 0)) ∧
  Vec2 .vsadd isInt (fun ty _ x y => let w := tyWidth ty
    (ofSigned w (clampInt (intLo (tySigned ty) w) (intHi (tySigned ty) w) (intOf (tySigned ty) w x + intOf (tySigned ty) w y)), 0)) ∧
  Vec2 .vssub isInt (fun ty _ x y => let w := tyWidth ty
    (ofSigned w (clampInt (intLo (tySigned ty) w) (intHi (tySigned ty) w) (intOf (tySigned ty) w x - intOf (tySigned ty) w y)), 0)) ∧
  Vec2 .vmulh isInt (fun ty _ x y => (intMulh (tySigned ty) (tyWidth ty) x y, 0)) ∧
  Vec1 .vneg isNum (elem1 (fun w x => 2 ^ w - x) fun f _ x => (Nat.xor x (2 ^ (f.ex + f.fr)), 0)) ∧
  Vec1 .vabs isNum (fun ty fcsr x => elem1 (intAbs (tySigned ty)) (fun f _ x => (x % 2 ^ (f.ex + f.fr), 0)) ty fcsr x) ∧
  Vec1 .vsqrt isFlt (elem1 (fun _ x => x) fun f r x => f.sqrtOp r (f.read x)) ∧
  Vec1 .vrcp isFlt (elem1 (fun _ x => x) fun f r x => f.divOp r (.fin false 1 0) (f.read x)) ∧
  Vec1 .vrsq isFlt (elem1 (fun _ x => x) fun f r x => f.rsqOp r (f.read x)) ∧
  Vec1 .vexp2 isFlt (elem1 (fun _ x => x) fun f r x => f.exp2Op r (f.read x)) ∧
  Vec1 .vlog2 isFlt (elem1 (fun _ x => x) fun f r x => f.log2Op r (f.read x)) ∧
  Vec1 .vnot isInt (fun ty _ x => (2 ^ tyWidth ty - 1 - x, 0)) ∧ Vec1 .vclz isInt (fun ty _ x => (clzN (tyWidth ty) x, 0)) ∧
  Vec1 .vpopc isInt (fun ty _ x => (popN (tyWidth ty) x, 0))

/-- R247 to R250: comparisons into a mask, selection by a mask, and multiply-add in one type or widening. -/
def Obligations.VectorCompareAndMultiplyAdd : Prop :=
  VCompare .vcmpEq .eq ∧ VCompare .vcmpNe .ne ∧ VCompare .vcmpLt .lt ∧ VCompare .vcmpLe .le ∧
  VMulAdd .vmadd .madd ∧ VMulAdd .vmsub .msub ∧ VMulAdd .vnmadd .nmadd ∧
  (∀ (s : State) (d : VDst) (a b c : VSrc) (v : VState) (t u : Tag),
    (arg s v a).tag = some t → (arg s v b).tag = some t → (arg s v c).tag = some u →
    Fits s v [tyWidth t.ty, tyWidth u.ty] → (u = t ∧ isNum t.ty = true ∨ u.ty ≠ t.ty ∧ widens t.ty u.ty = true) →
    (maddTags v d a b c (arg s v a) (arg s v b) (arg s v c)).go s = (.ok (t, u), s)) ∧
  (∀ (s : State) (d : VDst) (a b : VSrc) (mk : BitVec 3) (v : VState) (t : Tag),
    VOpen s [a, b] [] (vdst d) v → TagsAre v (arg s v a) (arg s v b) d t → Fits s v [tyWidth t.ty] → isNum t.ty = true →
    let w := tyWidth t.ty
    let r := formBits v 0 w (fun _ => true) fun k =>
      (if v.maskBit mk.toNat k then (arg s v a).bits w k else (arg s v b).bits w k, 0)
    exec (.vsel d a b mk) s = .next (vresult s [a, b] d (plainV t.ty r) 0))

/-- R251 to R253: conversion, quantisation of blocks, reductions over the tree of R117, scaled reduction and dot product. VCVT writes every active element's converted value, under SR with the generator as the elements before it have left it, which ends in SEEDSR; VQNT encodes one block after the other, each with its scale, from the generator that the one before has left; VREDS adds the elements of each block and its scaled sums over the tree. Each goes on to a next state with its flags added. -/
def Obligations.VectorConversionAndReduction : Prop :=
  (∀ (s : State) (dt : BitVec 4) (rm : RMode) (d : VDst) (a : VSrc) (m : MaskF) (v : VState) (t : Tag),
    VOpen s [a] [] (vdst d) v → TagIs v (arg s v a) d t → Fits s v [tyWidth t.ty, tyWidth dt.toNat] →
    let w := tyWidth dt.toNat
    let act := v.active m.me m.mr
    let mode := resolveMode s.me.fcsr rm
    let satn := fcsrSatn s.me.fcsr
    let seed := drawnBefore s.me.seed act fun k x => (cvtElem t dt.toNat mode satn (arg s v a) k x).2.2
    let r := formBits v (keptBits v d m.mz) w act fun k =>
      let e := cvtElem t dt.toNat mode satn (arg s v a) k (seed k)
      (e.1, e.2.1)
    (dt.toNat = t.ty ∧ t.s = false →
      let r := formBits v (keptBits v d m.mz) w act fun k => ((arg s v a).bits w k, 0)
      exec (.vcvt dt rm d a m) s = .next (vresult s [a] d (plainV dt.toNat r) r.2)) ∧
    (¬ (dt.toNat = t.ty ∧ t.s = false) →
      exec (.vcvt dt rm d a m) s =
        .next (vresult (s.updMe fun x => { x with seed := seed v.vl }) [a] d (plainV dt.toNat r) r.2))) ∧
  (∀ (s : State) (dt : BitVec 4) (rm : RMode) (d : VDst) (a : VSrc) (v : VState) (t : Tag),
    VOpen s [a] [] (vdst d) v → TagIs v (arg s v a) d t → Fits s v [tyWidth t.ty, tyWidth dt.toNat] →
    isFlt t.ty = true → t.s = false →
    let block := quantised v t.ty dt.toNat (arg s v a) (resolveMode s.me.fcsr rm)
    let seed := drawnBefore s.me.seed (fun _ => true) fun b x => (block b x).2.2.2
    let one (b : Nat) := block b (seed b)
    let bs := upTo ((v.vl + 255) / 256)
    let bits := bs.foldl (fun n b => n + (one b).1 * 2 ^ (256 * tyWidth dt.toNat * b)) 0
    let sc := bs.foldl (fun m b => KMap.put 127 m b (one b).2.1) (oldScales v d)
    let fl := bs.foldl (fun n b => n ||| (one b).2.2.1) 0
    exec (.vqnt dt rm d a) s =
      .next (vresult (s.updMe fun x => { x with seed := seed bs.length }) [a] d ⟨dt.toNat, true, bits, sc⟩ fl)) ∧
  VReduce .vredSum .sum ∧ VReduce .vredMax .max ∧ VReduce .vredMin .min ∧ VReduce .vredAnd .and ∧ VReduce .vredOr .or ∧
  (∀ (s : State) (rm : RMode) (d : Reg) (a : VSrc) (me : Bool) (mk : BitVec 3) (v : VState) (t : Tag),
    VOpen s [a] [] [.x d.toNat false] v → (arg s v a).tag = some t → Fits s v [tyWidth t.ty] → 10 ≤ t.ty → t.s = true →
    let bs := (upTo ((v.vl + 255) / 256)).map (blockSum v me mk (arg s v a) t.ty (accAdd 9 s.me.fcsr rm))
    let r := tree (accAdd 9 s.me.fcsr rm) treeFuel (bs.map fun e => e.1)
    exec (.vreds rm d a me mk) s =
      .next (vscalars s [a] d (wd (r.1.getD 0)) (bs.foldl (fun n e => n ||| e.2) 0 ||| r.2))) ∧
  (∀ (s : State) (rm : RMode) (d : Reg) (a b : VSrc) (me : Bool) (mk : BitVec 3) (v : VState) (t : Tag),
    VOpen s [a, b] [] [.x d.toNat false] v → TagsVec (arg s v a) (arg s v b) t → Fits s v [tyWidth t.ty] →
    let l := leaves v me mk fun k => dotLeaf t.ty s.me.fcsr rm (s.freeN + k) (arg s v a) (arg s v b) k
    let r := tree (accAdd t.ty s.me.fcsr rm) treeFuel l.1
    exec (.vdot rm d a b me mk) s =
      .next (vscalars { s with freeN := s.freeN + v.vl } [a, b] d (wd (r.1.getD 0)) (l.2 ||| r.2)))

/-- R254 to R258: permutation, slides, extraction and insertion, broadcast, index, compression and expansion. -/
def Obligations.VectorMoves : Prop :=
  (∀ (s : State) (d : VDst) (a b : VSrc) (m : MaskF) (v : VState) (t u : Tag),
    VOpen s [a, b] [] (vdst d) v → (tag2 v a (arg s v a) (arg s v b) (some d)).go s = (.ok (t, u), s) →
    Fits s v [tyWidth t.ty, tyWidth u.ty] → isNum t.ty = true → 4 ≤ u.ty → u.ty < 8 →
    let r := formBits v (keptBits v d m.mz) (tyWidth t.ty) (v.active m.me m.mr) (moved (arg s v a) (tyWidth t.ty) fun k =>
      let i := (arg s v b).bits (tyWidth u.ty) k
      if i < v.vl then some i else none)
    exec (.vperm d a b m) s = .next (vresult s [a, b] d (plainV t.ty r) r.2)) ∧
  (∀ (s : State) (d : VDst) (a : VSrc) (n : Src) (m : MaskF) (v : VState) (t : Tag),
    VOpen s [a] [srcX n] (vdst d) v → TagIs v (arg s v a) d t → Fits s v [tyWidth t.ty] → isNum t.ty = true →
    let c := (val s n).toNat
    let up := formBits v (keptBits v d m.mz) (tyWidth t.ty) (v.active m.me m.mr)
      (moved (arg s v a) (tyWidth t.ty) fun k => if c ≤ k then some (k - c) else none)
    let dn := formBits v (keptBits v d m.mz) (tyWidth t.ty) (v.active m.me m.mr)
      (moved (arg s v a) (tyWidth t.ty) fun k => if k + c < v.vl then some (k + c) else none)
    exec (.vslideUp d a n m) s = .next (vresult s [a] d (plainV t.ty up) up.2) ∧
    exec (.vslideDn d a n m) s = .next (vresult s [a] d (plainV t.ty dn) dn.2)) ∧
  (∀ (s : State) (d : Reg) (a : VSrc) (i : Src) (v : VState) (t : Tag),
    VOpen s [a] [srcX i] [.x d.toNat false] v → (arg s v a).tag = some t → Fits s v [tyWidth t.ty] → isNum t.ty = true →
    exec (.vext d a i) s = .next (vscalars s [a] d
      (if (val s i).toNat < v.vl then elemWord t.ty ((arg s v a).bits (tyWidth t.ty) (val s i).toNat) else 0) 0)) ∧
  (∀ (s : State) (d : VDst) (a : VSrc) (e i : Src) (v : VState) (t : Tag),
    VOpen s [a] [srcX e, srcX i] (vdst d) v → TagIs v (arg s v a) d t → Fits s v [tyWidth t.ty] → isNum t.ty = true →
    let r := formBits v 0 (tyWidth t.ty) (fun _ => true) fun k =>
      (if k = (val s i).toNat then (val s e).toNat % 2 ^ tyWidth t.ty else (arg s v a).bits (tyWidth t.ty) k, 0)
    exec (.vins d a e i) s = .next (vresult s [a] d (plainV t.ty r) r.2)) ∧
  (∀ (s : State) (vd : BitVec 5) (a : VSrc) (me : Bool) (mk : BitVec 3) (v : VState),
    VOpen s [a] [] [.v vd.toNat false] v → let t := dstTag v (.v vd)
    ((arg s v a).tag = none ∨ (arg s v a).tag = some t) → Fits s v [tyWidth t.ty] → isNum t.ty = true →
    let r := formBits v (v.getV vd.toNat).bits (tyWidth t.ty) (v.active me mk) fun _ => ((arg s v a).bits (tyWidth t.ty) 0, 0)
    exec (.vbcast vd a me mk) s = .next (vresult s [a] (.v vd) (plainV t.ty r) r.2)) ∧
  (∀ (s : State) (vd : BitVec 5) (me : Bool) (mk : BitVec 3) (v : VState),
    VOpen s [] [] [.v vd.toNat false] v → let t := dstTag v (.v vd)
    Fits s v [tyWidth t.ty] → isInt t.ty = true →
    let r := formBits v 0 (tyWidth t.ty) (fun _ => true) fun k => (((upTo k).filter (v.active me mk)).length, 0)
    exec (.viota vd me mk) s = .next (vresult s [] (.v vd) (plainV t.ty r) r.2)) ∧
  (∀ (s : State) (d : VDst) (a : VSrc) (me : Bool) (mk : BitVec 3) (v : VState) (t : Tag),
    VOpen s [a] [] (vdst d) v → TagIs v (arg s v a) d t → Fits s v [tyWidth t.ty] → isNum t.ty = true →
    let act := (upTo v.vl).filter (v.active me mk)
    let out := formBits v 0 (tyWidth t.ty) (fun _ => true) (moved (arg s v a) (tyWidth t.ty) fun k => act[k]?)
    let ins := formBits v 0 (tyWidth t.ty) (fun _ => true) (moved (arg s v a) (tyWidth t.ty) fun k =>
      if v.active me mk k then some ((upTo k).filter (v.active me mk)).length else none)
    exec (.vcompress d a me mk) s = .next (vresult s [a] d (plainV t.ty out) out.2) ∧
    exec (.vexpand d a me mk) s = .next (vresult s [a] d (plainV t.ty ins) ins.2))

/-- R259, R260: mask operations below VL, counts and first bits, and the side arrays of scales. -/
def Obligations.MasksAndSideArrays : Prop :=
  (∀ (s : State) (md ma mb : BitVec 3) (m : MaskF) (v : VState), VOpen s [] [] [] v →
    exec (.mand md ma mb m) s = .next (maskSet s md m fun v k => v.maskBit ma.toNat k && v.maskBit mb.toNat k) ∧
    exec (.mor md ma mb m) s = .next (maskSet s md m fun v k => v.maskBit ma.toNat k || v.maskBit mb.toNat k) ∧
    exec (.mxor md ma mb m) s = .next (maskSet s md m fun v k => Bool.xor (v.maskBit ma.toNat k) (v.maskBit mb.toNat k)) ∧
    exec (.mnot md ma m) s = .next (maskSet s md m fun v k => !v.maskBit ma.toNat k)) ∧
  (∀ (s : State) (md : BitVec 3) (x : Src) (m : MaskF) (v : VState), VOpen s [] [srcX x] [] v →
    exec (.mset md x m) s = .next (maskSet s md m fun _ k => decide (k < (val s x).toNat))) ∧
  (∀ (s : State) (d : Reg) (ma : BitVec 3) (me : Bool) (mk : BitVec 3) (v : VState),
    VOpen s [] [] [.x d.toNat false] v →
    let l := (upTo v.vl).filter fun k => v.active me mk k && v.maskBit ma.toNat k
    exec (.mpop d ma me mk) s = .next (vscalars s [] d (wd l.length) 0) ∧
    (l = [] → exec (.mfirst d ma me mk) s = .next (vscalars s [] d (BitVec.allOnes 64) 0)) ∧
    (∀ k r, l = k :: r → exec (.mfirst d ma me mk) s = .next (vscalars s [] d (wd k) 0))) ∧
  (∀ (s : State) (d : VDst) (va : BitVec 5) (fa : Bool) (v : VState),
    VOpen s [⟨.v va, fa⟩] [] (vdst d) v → let r := v.getV va.toNat
    Fits s v [tyWidth r.ty, 8] →
    exec (.vscget d va fa) s = .next (vresult s [] d ⟨4, false,
      (upTo 32).foldl (fun n b => n + (if r.s then KMap.find 127 r.sc b else 127) * 256 ^ b) 0, []⟩ 0)) ∧
  (∀ (s : State) (vd va : BitVec 5) (fa : Bool) (v : VState),
    VOpen s [⟨.v va, fa⟩] [] [.v vd.toNat false] v → let r := v.getV va.toNat
    let t := v.getV vd.toNat
    Fits s v [tyWidth r.ty, tyWidth t.ty] → r.ty = 4 →
    let sc := (upTo 32).foldl (fun (m : KMap Nat) b => KMap.put 127 m b (bitsAt r.bits (8 * b) 8)) []
    exec (.vscset vd va fa) s = .next (s.ends fun x => x.updV fun v => v.setV vd.toNat { t with s := true, sc := sc }))

/-- R240, R241, R342, R372: the gates of vector instructions in their order: BAD_TARGET on a service core, ERG_STATE in an erg, VSTATE without vector state, for every register form and every vector access; for the register forms VSTATE at the first queue that is read with no entry, and where VL is beyond the VLMAX of a source's width; TAG for two sources of unequal tags. -/
def Obligations.VectorGates : Prop :=
  (∀ (s : State) (i : Instr) (op : Nat) (srcs dsts : List Opd), vectorOps i = some (op, srcs, dsts) → s.OpsReady srcs dsts →
    (isSvc s.cur.core = true → exec i s = .next (s.traps s Cause.badTarget 0 0)) ∧
    (isSvc s.cur.core = false → s.me.ergBit = true → s.me.trapBit = false →
      exec i s = .next (s.traps s Cause.ergState (5 + op * 256) 0)) ∧
    (isSvc s.cur.core = false → (s.me.ergBit && !s.me.trapBit) = false → s.me.vs = none →
      exec i s = .next (s.traps s Cause.vstate 0 0))) ∧
  (∀ (s : State) (i : Instr) (op : Nat) (srcs : List VSrc) (more dsts : List Opd) (v : VState),
    vectorForm i = some (op, srcs, more, dsts) →
    (∀ pre post a n, srcs = pre ++ a :: post → s.OpsReady (srcs.map vopd ++ more) dsts → s.VectorReady v →
      (∀ b ∈ pre, hasEntry v b) → (a.op = .pop n ∨ a.op = .peek n) → v.queue n.toNat = [] →
      exec i s = .next (s.traps s Cause.vstate (vspec a) 0)) ∧
    (∀ a t, a ∈ srcs → VOpen s srcs more dsts v → (arg s v a).tag = some t →
      vlmax v.g (s.coreAt s.cur.core).vlanes (tyWidth t.ty) < v.vl →
      exec i s = .next (s.traps s Cause.vstate v.vl 0))) ∧
  (∀ (d : VDst) (m : MaskF) (md mk : BitVec 3),
    (TagGate (.vadd d · · m) (vdst d) isNum ∧ TagGate (.vsub d · · m) (vdst d) isNum ∧ TagGate (.vmul d · · m) (vdst d) isNum ∧
     TagGate (.vdiv d · · m) (vdst d) isNum ∧ TagGate (.vmin d · · m) (vdst d) isNum ∧ TagGate (.vmax d · · m) (vdst d) isNum ∧
     TagGate (.vand d · · m) (vdst d) isInt ∧ TagGate (.vor d · · m) (vdst d) isInt ∧ TagGate (.vxor d · · m) (vdst d) isInt ∧
     TagGate (.vshl d · · m) (vdst d) isInt ∧ TagGate (.vshr d · · m) (vdst d) isInt ∧ TagGate (.vshra d · · m) (vdst d) isInt ∧
     TagGate (.vsadd d · · m) (vdst d) isInt ∧ TagGate (.vssub d · · m) (vdst d) isInt ∧ TagGate (.vmulh d · · m) (vdst d) isInt) ∧
    TagGate (.vsel d · · mk) (vdst d) isNum ∧ TagGate (.vcmpEq md · · m) [] isNum ∧ TagGate (.vcmpNe md · · m) [] isNum ∧
    TagGate (.vcmpLt md · · m) [] isNum ∧ TagGate (.vcmpLe md · · m) [] isNum)

/-- The frame of a vector instruction with a vector result: every other vector register, the masks, the bindings, VL and the grant, the scalar registers, every other context and all of memory stay; l0 is the result and l1 the old l0. -/
def Obligations.VectorFrame : Prop :=
  ∀ (s : State) (srcs : List VSrc) (d : VDst) (r : VReg) (fl : Nat) (v : VState), s.me.vs = some v →
    let t := vresult s srcs d r fl
    (∃ k, t.me.vs = some k ∧ k.l0 = ⟨0, r, .full⟩ ∧ k.l1 = v.l0 ∧ k.m = v.m ∧ k.w = v.w ∧ k.vl = v.vl ∧ k.g = v.g ∧
      (∀ n, d = .v n → k.getV n.toNat = r ∧ k.stV n.toNat = .full) ∧
      (∀ j, (∀ n, d = .v n → j ≠ n.toNat) → k.getV j = v.getV j ∧ k.stV j = v.stV j) ∧
      (∀ q, q ∉ srcs.flatMap popOf → k.queue q = v.queue q) ∧
      (∀ q, q ∈ srcs.flatMap popOf → k.queue q = (v.queue q).tail)) ∧
    (∀ j, t.me.getX j = s.me.getX j ∧ t.me.stX j = s.me.stX j) ∧ t.me.seed = s.me.seed ∧
    t.me.fcsr = s.me.fcsr ||| fl ∧ t.me.pl = s.me.pl ∧ t.me.stream = s.me.stream ∧
    (∀ c : CtxId, c.key ≠ s.cur.key → t.ctxAt c = s.ctxAt c) ∧ (∀ m, readByte t.mem m = readByte s.mem m) ∧
    { t with ctx := s.ctx } = s

/-! ### Vector memory -/

/-- R263 to R268: the vector loads. Every active element below the count is read at its own address, the others take what R242 gives them; the result is on its way with the target's tag set. VLDFF ends VL at the first element that would fail. -/
def Obligations.VectorLoads : Prop :=
  ∀ (s : State) (d : VDst) (a : Src) (imm : BitVec 16) (m : MaskF) (v : VState) (l : Elems),
    let base := (val s a).toNat
    (∀ ty : BitVec 4, let w := tyWidth ty.toNat
      let elem (k : Nat) := unitElem base imm.toInt w k
      let el := (v.actives ty.toNat v.vl m).map elem
      let rest := restBits v d m.mz w (reach ty.toNat v.vl) fun k => v.activeOf ty.toNat m k
      let tv := tagVal 0x3F ⟨ty.toNat, false⟩
      LoadOpen s [srcX a] d v [w] → (w = 4 → imm.toInt % 2 = 0) → Unscaled s l →
      (Elements s .load (fun f => f == ty.toNat) w tv el l →
        LoadsTo s (.vld ty d a imm m none) w d ty.toNat v.vl rest l) ∧
      (∀ l' j, (firstFault ty.toNat (elemCheck (fun f => f == ty.toNat) w tv) el).go s = (.ok (l', j), s) →
        (l = match j with | some j => l'.filter fun e => decide (e.1.k < j) | none => l') →
        (∀ e ∈ l, s.heldBack s.cur.core e.2.pa (elemBytes w) = false) →
        LoadsTo s (.vldff ty d a imm m none) w d ty.toNat (j.getD v.vl)
          (restBits v d m.mz w (reach ty.toNat (j.getD v.vl)) fun k => v.activeOf ty.toNat m k) l)) ∧
    (∀ (ty : BitVec 4) (x : Src), let w := tyWidth ty.toNat
      let elem (k : Nat) := strideElem base imm.toInt (val s x).toInt w k
      LoadOpen s [srcX a, srcX x] d v [w] → w ≠ 4 →
      Elements s .load (fun f => f == ty.toNat) w (tagVal 0x3F ⟨ty.toNat, false⟩) ((v.actives ty.toNat v.vl m).map elem) l →
      ∀ r s', (loadElems w l).go s = (.ok r, s') →
        exec (.vlds ty d a imm x m none) s = .next ((loads s s' d ⟨ty.toNat, false,
          restBits v d m.mz w v.vl (v.activeOf ty.toNat m) + r.bits, []⟩ r.bad w l).ends id)) ∧
    (∀ (wc : BitVec 2) (b : VSrc) (t : Tag), let ty := 4 + wc.toNat
      let w := tyWidth ty
      let elem (k : Nat) := indexElem base imm.toInt ((arg s v b).bits (tyWidth t.ty) k) w k
      s.OpsReady [srcX a, vopd b] (vdst d) → s.VectorReady v → hasEntry v b → Room v d (popOf b) →
      (arg s v b).tag = some t → 4 ≤ t.ty → t.ty < 8 → Fits s v [w, tyWidth t.ty] → s.oneFormat l = none →
      Elements s .load (fun f => tyWidth f == w) w (tagVal 0x3F ⟨ty, false⟩) ((v.actives ty v.vl m).map elem) l →
      ∀ r s', (loadElems w l).go s = (.ok r, s') →
        exec (.vldx wc d a imm b m none) s = .next ((loads s s' d ⟨ty, false,
          restBits v d m.mz w v.vl (v.activeOf 4 m) + r.bits, []⟩ r.bad w l).ends fun x => x.updV (popped [b])))

/-- R263, R264, R268: the addresses of elements, what marks the target of a load, and the element at which VLDFF ends. -/
def Obligations.ElementsAndTargets : Prop :=
  (∀ (base : Nat) (imm stride : Int) (i w k : Nat), 8 ≤ w →
    (unitElem base imm w k).va = ofSigned 64 (base + (imm + k) * (w / 8 : Nat)) ∧
    (strideElem base imm stride w k).va = ofSigned 64 (base + imm * (w / 8 : Nat) + k * stride) ∧
    (indexElem base imm i w k).va = ofSigned 64 (base + (imm + i) * (w / 8 : Nat))) ∧
  (∀ (base : Nat) (imm : Int) (k : Nat),
    (unitElem base imm 4 k).va = ofSigned 64 (base + (imm + k) / 2) ∧ (unitElem base imm 4 k).high = decide ((imm + k) % 2 = 1)) ∧
  (∀ (s : State) (n : BitVec 5) (r : VReg) (bad : List (VElem × Nat)) (w : Nat) (l : Elems) (v : VState),
    s.me.vs = some v →
    let t := loads s s (.v n) r bad w l
    ∃ k, t.me.vs = some k ∧ k.stV n.toNat = .empty ∧ (k.getV n.toNat).ty = r.ty ∧ (k.getV n.toNat).s = r.s ∧
      (k.getV n.toNat).bits = (v.getV n.toNat).bits ∧ (∀ j, j ≠ n.toNat → k.getV j = v.getV j ∧ k.stV j = v.stV j) ∧
      k.m = v.m ∧ k.vl = v.vl ∧ t.pend.length = s.pend.length + 1) ∧
  (∀ (s : State) (ty : Nat) (chk : Xl → M Unit) (e : VElem) (el : List VElem),
    (firstFault ty chk []).go s = (.ok ([], none), s) ∧
    (∀ x cause value mask s', ty ≠ 15 → e.k ≠ 0 → truncates cause = true → e.va % elemBytes (tyWidth ty) = 0 →
      s.Translates e.va .load x → (chk x).go s = (.error (.trap cause value mask), s') →
      (firstFault ty chk (e :: el)).go s = (.ok ([], some e.k), s')))

/-- R168, R233, R269, R404: WMBIND binds to an aligned word or, with x0, unbinds; a misaligned word takes MISALIGN. A load under an unbound watermark takes VSTATE with the binding's number; under a bound one it waits at the word's home, which compares every value written with the load's greatest element address, until every element address is below the watermark; then it acquires at the binding's scope and runs as a load without one. So do all five forms of load. -/
def Obligations.Watermarks : Prop :=
  (∀ (s : State) (ty : BitVec 4) (d : VDst) (a : Src) (imm : BitVec 16) (m : MaskF) (n : BitVec 2) (v : VState),
     (s.VectorReady v → (KMap.find Wm.none v.w n.toNat).bound = false →
       (s.OpsReady [srcX a] (vdst d) →
         exec (.vld ty d a imm m (some n)) s = .next (s.traps s Cause.vstate n.toNat 0) ∧
         exec (.vldff ty d a imm m (some n)) s = .next (s.traps s Cause.vstate n.toNat 0)) ∧
       (∀ x, s.OpsReady [srcX a, srcX x] (vdst d) →
         exec (.vlds ty d a imm x m (some n)) s = .next (s.traps s Cause.vstate n.toNat 0)) ∧
       (∀ wc b, s.OpsReady [srcX a, vopd b] (vdst d) →
         exec (.vldx wc d a imm b m (some n)) s = .next (s.traps s Cause.vstate n.toNat 0)) ∧
       (∀ vb fb mem mk, s.OpsReady [.v (BitVec.toNat vb) fb] (vdst d) →
         exec (.vldt d vb fb mem mk (some n)) s = .next (s.traps s Cause.vstate n.toNat 0))) ∧
     (s.me.vs = some v → (KMap.find Wm.none v.w n.toNat).bound = true → s.me.token = some [] →
       exec (.vld ty d a imm m (some n)) s = exec (.vld ty d a imm m none) s ∧
       exec (.vldff ty d a imm m (some n)) s = exec (.vldff ty d a imm m none) s ∧
       (∀ x, exec (.vlds ty d a imm x m (some n)) s = exec (.vlds ty d a imm x m none) s) ∧
       (∀ wc b, exec (.vldx wc d a imm b m (some n)) s = exec (.vldx wc d a imm b m none) s) ∧
       (∀ vb fb mem mk, exec (.vldt d vb fb mem mk (some n)) s = exec (.vldt d vb fb mem mk none) s)) ∧
     (∀ (l : Elems) (w : Word), let b := KMap.find Wm.none v.w n.toNat
       s.me.token = some [w] →
       (accept v (some n) l).go s = (.ok none, acquires (s.updMe fun c => { c with token := some [] }) b.scope)) ∧
     (∀ (l : Elems) (x : Xl) (w : Nat) (s' : State), let b := KMap.find Wm.none v.w n.toNat
       s.me.token = none → s.Translates b.addr .load x → (syncCheck x 8).go s = (.ok (), s) →
       s.heldBack s.cur.core x.pa 8 = false → (readPiece x 8 true).go s = (.ok (w, none), s') →
       ((∀ e ∈ l, addr64 ((e.1.va : Int) - b.base) / 2 ^ b.shift < w) →
         (accept v (some n) l).go s = (.ok none, acquires (s'.updMe fun c => { c with token := some [] }) b.scope)) ∧
       ((∃ e ∈ l, w ≤ addr64 ((e.1.va : Int) - b.base) / 2 ^ b.shift) → paClass x.pa ≠ 2 →
         (accept v (some n) l).go s = (.error (.sleep (.mark x.pa (markLimit b l))), s')))) ∧
  (∀ (s : State) (n : BitVec 2) (sc : Scope) (a b : Src) (h : BitVec 6) (v : VState),
     s.OpsReady [srcX a, srcX b] [] → isSvc s.cur.core = false → s.me.vs = some v →
     (a.r = 0 → exec (.wmbind n sc a b h) s =
       .next (s.ends fun x => x.updV fun v => { v with w := KMap.put Wm.none v.w n.toNat Wm.none })) ∧
     (a.r ≠ 0 → (val s a).toNat % 8 = 0 → exec (.wmbind n sc a b h) s =
       .next (s.ends fun x => x.updV fun v =>
         { v with w := KMap.put Wm.none v.w n.toNat ⟨true, (val s a).toNat, (val s b).toNat, h.toNat, sc⟩ })) ∧
     (a.r ≠ 0 → (val s a).toNat % 8 ≠ 0 →
       exec (.wmbind n sc a b h) s = .next (s.traps s Cause.misalign (val s a).toNat 0)))

/-- R263, R265 to R267: the vector stores. Every check is made before anything is stored; then each active element is stored at its own address, the lowest first, a queue operand is popped, and no register changes. Where the check of one element fails, its alignment, its translation, its permission or its format, the instruction traps as the first such element does, and stores nothing. -/
def Obligations.VectorStores : Prop :=
  ∀ (s s' : State) (a : Src) (imm : BitVec 16) (b : VSrc) (m : MaskF) (v : VState) (t : Tag) (l : Elems),
    (arg s v b).tag = some t →
    let w := tyWidth t.ty
    let base := (val s a).toNat
    let ok (f : Nat) : Bool := f == t.ty
    let tv := tagVal (vspec b) t
    ((l.forM (writeElem (arg s v b) t.ty)).go s = (.ok (), s') →
    (StoreOpen s [srcX a, vopd b] b v [w] → (w = 4 → imm.toInt % 2 = 0) →
      Elements s .store ok w tv ((v.actives t.ty v.vl m).map (unitElem base imm.toInt w)) l →
      exec (.vst a imm b m) s = .next (s'.ends fun x => x.updV (popped [b]))) ∧
    (∀ x : Src, StoreOpen s [srcX a, srcX x, vopd b] b v [w] → w ≠ 4 →
      Elements s .store ok w tv ((v.actives t.ty v.vl m).map (strideElem base imm.toInt (val s x).toInt w)) l →
      exec (.vsts a imm b x m) s = .next (s'.ends fun x => x.updV (popped [b]))) ∧
    (∀ (idx : BitVec 5), let i := v.getV idx.toNat
      StoreOpen s [srcX a, vopd b, .v idx.toNat true] b v [w, tyWidth i.ty] → w ≠ 4 → 4 ≤ i.ty → i.ty < 8 →
      Elements s .store ok w tv ((v.actives t.ty v.vl m).map fun k => indexElem base imm.toInt (i.arg.bits (tyWidth i.ty) k) w k) l →
      exec (.vstx a imm b idx m) s = .next (s'.ends fun x => x.updV (popped [b])))) ∧
    (∀ (el : List VElem) (t' : State) (cause value mask : Nat),
      (t' = s ∧ cause = Cause.misalign ∧ mask = 0 ∧ ∃ e, el.find? (fun e => e.va % elemBytes w != 0) = some e ∧ value = e.va) ∨
        ((∀ e ∈ el, e.va % elemBytes w = 0) ∧
          (xlElems .store (elemCheck ok w tv) el).go s = (.error (.trap cause value mask), t')) →
      (el = (v.actives t.ty v.vl m).map (unitElem base imm.toInt w) →
        StoreOpen s [srcX a, vopd b] b v [w] → (w = 4 → imm.toInt % 2 = 0) →
        exec (.vst a imm b m) s = .next (s.traps t' cause value mask)) ∧
      (∀ x : Src, el = (v.actives t.ty v.vl m).map (strideElem base imm.toInt (val s x).toInt w) →
        StoreOpen s [srcX a, srcX x, vopd b] b v [w] → w ≠ 4 →
        exec (.vsts a imm b x m) s = .next (s.traps t' cause value mask)) ∧
      (∀ idx : BitVec 5, let i := v.getV idx.toNat
        el = (v.actives t.ty v.vl m).map (fun k => indexElem base imm.toInt (i.arg.bits (tyWidth i.ty) k) w k) →
        StoreOpen s [srcX a, vopd b, .v idx.toNat true] b v [w, tyWidth i.ty] → w ≠ 4 → 4 ≤ i.ty → i.ty < 8 →
        exec (.vstx a imm b idx m) s = .next (s.traps t' cause value mask))) ∧
    (∀ (pre post : List VElem) (e : VElem) (lp : Elems) (cause value mask : Nat) (t' : State),
      (xlElems .store (elemCheck ok w tv) pre).go s = (.ok lp, s) →
      ((xlateM e.va .store).go s = (.error (.trap cause value mask), t') ∨
        ∃ x, s.Translates e.va .store x ∧ (elemCheck ok w tv x).go s = (.error (.trap cause value mask), t')) →
      (xlElems .store (elemCheck ok w tv) (pre ++ e :: post)).go s = (.error (.trap cause value mask), t'))

/-- R270, R271: tensor access. A record that is well formed gives the walk of its box; VLDT loads the elements in range, sets VL to their number and writes the mask; VSTT stores them. A record in a register of another type, or beyond the grant, or with a bad field, traps. -/
def Obligations.TensorAccess : Prop :=
  (∀ (s : State) (d : VDst) (vb : BitVec 5) (fb mem : Bool) (mk : BitVec 3) (v : VState) (h : Shape) (l : Elems),
    s.OpsReady [.v vb.toNat fb] (vdst d) → s.VectorReady v → Room v d [] → (recordOf v vb.toNat true 0).go s = (.ok h, s) →
    let walk := h.walk h.inner
    Elements s .load (fun f => f == h.ty) h.width (tagVal 0x3F ⟨h.ty, false⟩) (boxElems walk) l →
    ∀ r s', (loadElems h.width l).go s = (.ok r, s') →
      exec (.vldt d vb fb mem mk none) s =
        .next ((loads s s' d ⟨h.ty, false, r.bits, []⟩ r.bad h.width l).ends fun x => x.updV fun v =>
          let v := { v with vl := walk.length }
          if mem then v.setMask mk.toNat ⟨false, 0, false⟩ fun k => (walk[k]?.map fun e => e.inr).getD false else v)) ∧
  (∀ (s s' : State) (b : VSrc) (shape : BitVec 5) (m : MaskF) (v : VState) (t : Tag) (h : Shape) (l : Elems),
    s.OpsReady [vopd b, .v shape.toNat true] [] → s.VectorReady v → hasEntry v b → (arg s v b).tag = some t →
    (recordOf v shape.toNat false (tyWidth t.ty)).go s = (.ok h, s) →
    (h.lsz ≠ 255 → tyWidth t.ty ≠ 4) →
    Elements s .store (fun f => f == t.ty) (tyWidth t.ty) (tagVal (vspec b) t)
      ((boxElems (h.walk h.inner)).filter fun e => v.activeOf t.ty m e.k) l →
    (l.forM (writeElem (arg s v b) t.ty)).go s = (.ok (), s') →
    exec (.vstt b shape m) s = .next (s'.ends fun x => x.updV (popped [b]))) ∧
  (∀ (s : State) (d : VDst) (vb : BitVec 5) (fb mem : Bool) (mk : BitVec 3) (v : VState),
    s.OpsReady [.v vb.toNat fb] (vdst d) → s.VectorReady v → Room v d [] →
    let r := v.getV vb.toNat
    let h := Shape.of fun k => bitsAt r.bits (64 * k) 64
    (r.ty ≠ 3 → r.ty ≠ 7 → exec (.vldt d vb fb mem mk none) s =
      .next (s.traps s Cause.tag (vb.toNat + r.ty * 256 + (if r.s then 4096 else 0)) 0)) ∧
    (r.ty = 3 ∨ r.ty = 7 → vlmax v.g (s.coreAt s.cur.core).vlanes 64 < 18 →
      exec (.vldt d vb fb mem mk none) s = .next (s.traps s Cause.shape 18 0)) ∧
    (∀ e, r.ty = 3 ∨ r.ty = 7 → 18 ≤ vlmax v.g (s.coreAt s.cur.core).vlanes 64 →
      h.bad true false (vlmax v.g (s.coreAt s.cur.core).vlanes h.width) = some e →
      exec (.vldt d vb fb mem mk none) s = .next (s.traps s Cause.shape e 0)))

/-- R232, R372: WAITV. The broadcast form answers the word once it is not zero and until then waits at its home, which keeps the word it read; the vector forms answer the first active element whose word is not zero, or their number once none is zero; with no active element they answer at once. An instruction that a home has woken takes the word that woke it and translates nothing again. A handler may not wait. -/
def Obligations.WaitForWords : Prop :=
  (∀ (s s' : State) (d : Reg) (r : Reg) (f : Bool) (mk : BitVec 3) (x : Xl) (v : Nat),
    let va := (s.me.getX r.toNat).toNat
    let s₁ := s.updMe fun c => { c with pas := [x.pa] }
    s.OpsReady [.x r.toNat f] [.x d.toNat false] →
    (s.cur.isHandler = true →
      exec (.waitvAny d ⟨.bc r, f⟩ false mk) s = .next (s.traps s Cause.handlerBlock 0 0)) ∧
    (s.cur.isHandler = false → va % 8 ≠ 0 →
      exec (.waitvAny d ⟨.bc r, f⟩ false mk) s = .next (s.traps s Cause.misalign va 0)) ∧
    (s.cur.isHandler = false → s.me.token = none → s.me.pas = [] → va % 8 = 0 → s.Translates va .load x →
      (syncCheck x 8).go s = (.ok (), s) → s.heldBack s.cur.core x.pa 8 = false → paClass x.pa ≠ 2 →
      (readPiece x 8 true).go s₁ = (.ok (v, none), s') →
      (wd v ≠ 0 → exec (.waitvAny d ⟨.bc r, f⟩ false mk) s = .next (s'.writes d (wd v)) ∧
        exec (.waitvAll d ⟨.bc r, f⟩ false mk) s = .next (s'.writes d (wd v))) ∧
      (wd v = 0 →
        exec (.waitvAny d ⟨.bc r, f⟩ false mk) s =
          .next (s'.updMe fun k => { k with token := none, wait := some (.words false [(x.pa, 0)]) }) ∧
        exec (.waitvAll d ⟨.bc r, f⟩ false mk) s =
          .next (s'.updMe fun k => { k with token := none, wait := some (.words false [(x.pa, 0)]) }))) ∧
    (∀ (pa : Nat) (w : Word), s.cur.isHandler = false → pa < 2 ^ 64 → s.me.pas = [pa] → s.me.token = some [wd pa, w] → w ≠ 0 →
      va % 8 = 0 → s.heldBack s.cur.core pa 8 = false →
      exec (.waitvAny d ⟨.bc r, f⟩ false mk) s = .next (s.writes d w) ∧
      exec (.waitvAll d ⟨.bc r, f⟩ false mk) s = .next (s.writes d w))) ∧
  (∀ (s s' : State) (d : Reg) (sa : VSrc) (mem : Bool) (mk : BitVec 3) (v : VState) (l : Elems) (vals : List ((VElem × Xl) × Word)),
    (∀ r, sa.op ≠ .bc r) → s.OpsReady [vopd sa] [.x d.toNat false] → s.VectorReady v → s.cur.isHandler = false → hasEntry v sa →
    (arg s v sa).tag = some ⟨7, false⟩ → Fits s v [64] → s.me.token = none → s.me.pas = [] →
    let act := (upTo v.vl).filter (v.active mem mk)
    let el : List VElem := byVa (act.map fun k => ⟨k, (arg s v sa).bits 64 k, false⟩)
    let s₁ := s.updMe fun c => { c with pas := l.map fun e => e.2.pa }
    act.length ≤ 32 → (∀ e ∈ el, e.va % 8 = 0) → (xlElems .load (fun x => syncCheck x 8) el).go s = (.ok l, s) →
    (∀ e ∈ l, s.heldBack s.cur.core e.2.pa 8 = false ∧ paClass e.2.pa ≠ 2) →
    (l.mapM fun e => do let r ← readWait e.2; return (e, r) : M _).go s₁ = (.ok vals, s') →
    let sleeps (all : Bool) : State := s'.updMe fun k =>
      { k with token := none, wait := some (.words all (vals.map fun e => (e.1.2.pa, e.2.toNat)).eraseDups) }
    (∀ k, act.find? (fun k => vals.any fun e => e.1.1.k == k && e.2 != 0) = some k →
      exec (.waitvAny d sa mem mk) s = .next (vscalars s' [sa] d (wd k) 0)) ∧
    (vals ≠ [] → (∀ e ∈ vals, e.2 = 0) → exec (.waitvAny d sa mem mk) s = .next (sleeps false)) ∧
    (vals = [] → exec (.waitvAny d sa mem mk) s = .next (vscalars s' [sa] d (BitVec.allOnes 64) 0)) ∧
    ((∀ e ∈ vals, e.2 ≠ 0) → exec (.waitvAll d sa mem mk) s = .next (vscalars s' [sa] d (wd vals.length) 0)) ∧
    ((∃ e ∈ vals, e.2 = 0) → exec (.waitvAll d sa mem mk) s = .next (sleeps true))) ∧
  (∀ (s : State) (d : Reg) (sa : VSrc) (mem : Bool) (mk : BitVec 3) (v : VState),
    (∀ r, sa.op ≠ .bc r) → s.OpsReady [vopd sa] [.x d.toNat false] → s.VectorReady v → s.cur.isHandler = false → hasEntry v sa →
    (arg s v sa).tag = some ⟨7, false⟩ → Fits s v [64] → 32 < ((upTo v.vl).filter (v.active mem mk)).length →
    exec (.waitvAny d sa mem mk) s =
      .next (s.traps s Cause.vstate ((upTo v.vl).filter (v.active mem mk)).length 0))

/-! ### The outer-product array -/

/-- R275, R279, R284 to R286: leases, claims and frees. MLEASE enters the stream, asks in its turn for a lease of at most 256 commands, and its thread sleeps until it is granted; MFREE enters the stream and ends the state in its turn; both wait while the stream is full; a claim takes every slot or tile and puts its clearing into the stream; a free waits for the stream and gives up what the thread owns. -/
def Obligations.LeasesAndClaims : Prop :=
  ∀ (s : State), isSvc s.cur.core = false → (s.me.ergBit && !s.me.trapBit) = false → s.cur.isHandler = false →
    (∀ k : Src, s.me.token.isSome = true → exec (.mlease k) s = .next (s.ends id)) ∧
    (s.me.stream.length < 16 →
      (∀ k : Src, s.me.token = none → s.OpsReady [srcX k] [] →
        let v := (val s k).toNat
        let c := if v = 0 ∨ 256 < v then 256 else v
        exec (.mlease k) s = .next
          (((queues s (.mlease c)).opaTick (clusterOf s.cur.core)).updMe fun x => { x with wait := some (.lease s.me.lease) })) ∧
      exec .mfree s = .next (((queues s .mfree).opaTick (clusterOf s.cur.core)).ends id)) ∧
    (16 ≤ s.me.stream.length → exec .mfree s = .next { s with waited := true } ∧
      ∀ k : Src, s.me.token = none → s.OpsReady [srcX k] [] → exec (.mlease k) s = .next { s with waited := true }) ∧
    (∀ (x : Ctx) (k t : Nat),
      (x.stream = [⟨.mlease k, false, t⟩] → x.leaseIdle =
        { x with lease := .waiting, leaseK := k, leaseUsed := 0, leaseSince := max t x.leaseSince, stream := [] }) ∧
      (x.stream = [⟨.mfree, false, t⟩] → x.leaseIdle = { x with lease := .none, stream := [] })) ∧
    (s.me.stream.length < 16 → ∀ a b : BitVec 6,
      (∀ n, a.toNat ≤ n → n ≤ b.toNat → ((cluster s).slot n).owner = none ∨ OwnsSlot s n) →
      ∃ t new, exec (.slclaim a b) s = .next t ∧
        (∀ n, n ∈ new ↔ a.toNat ≤ n ∧ n ≤ b.toNat ∧ ¬ OwnsSlot s n) ∧
        t.me.stream = s.me.stream ++ [⟨.slclaim new, false, s.fc⟩] ∧
        (∀ n, ((cluster t).slot n).owner = if a.toNat ≤ n ∧ n ≤ b.toNat then some s.me.uid else ((cluster s).slot n).owner)) ∧
    (s.me.stream.length < 16 → ∀ (i32 : Bool) (t : BitVec 2), ((cluster s).tile t.toNat).owner = none ∨ OwnsTile s t.toNat →
      exec (.aclaim i32 t) s = .next (((queues s (.aclaim t.toNat i32)).updTile (clusterOf s.cur.core) t.toNat fun x =>
        { x with owner := some s.me.uid }).ends id)) ∧
    (s.me.stream = [] → ∀ a b : BitVec 6,
      ∃ t, exec (.slfree a b) s = .next t ∧
        ∀ n, ((cluster t).slot n).owner = if a.toNat ≤ n ∧ n ≤ b.toNat ∧ ((cluster s).slot n).owner = some s.me.uid then none else ((cluster s).slot n).owner) ∧
    (s.me.stream = [] → ∀ t : BitVec 2,
      exec (.afree t) s = .next ((s.updTile (clusterOf s.cur.core) t.toNat fun x =>
        if x.owner = some s.me.uid then { x with owner := none } else x).ends id)) ∧
    (s.me.stream ≠ [] → ∀ (a b : BitVec 6) (t : BitVec 2),
      exec (.slfree a b) s = .next { s with waited := true } ∧ exec (.afree t) s = .next { s with waited := true } ∧
      exec .msync s = .next { s with waited := true }) ∧
    (s.me.stream = [] → s.unperformed s.me.uid = false → s.me.reports ++ s.me.msyncReports = [] →
      exec .msync s = .next (s.ends fun x => { x with reports := [], msyncReports := [] }))

/-- R280, R287, R289 to R291: the commands of the array. With its slots and tiles owned, its types and ranges right and its addresses checked, each enters the thread's stream with its operands; MRD leaves its register empty until the command completes, MWR carries the bits of its register, MST the rounding and the generator of its thread. -/
def Obligations.ArrayCommands : Prop :=
  ∀ (s : State), ArrayReady s →
    (∀ (fmt : BitVec 4) (slot : BitVec 6) (a : Src) (imm : BitVec 16) (b c : Src) (q : Option Window) (r : Runs),
      let w := tyWidth fmt.toNat
      let base := (val s a + imm.signExtend 64).toNat
      let st := (val s b).toNat
      let l0 := bitsAt (val s c).toNat 0 9
      let n := bitsAt (val s c).toNat 16 9
      let y := spacing q (w / 8)
      s.OpsReady [srcX a, srcX b, srcX c] [] → OwnsSlot s slot.toNat →
      (n = 0 ∨ l0 + n ≤ if w = 16 then 64 else if w = 4 then 128 else 256) →
      (w = 8 → 128 < l0 + n → OwnsPair s slot.toNat) → (baseWindow base .load).go s = (.ok q, s) →
      base % max 1 y = 0 → st % max 1 y = 0 →
      (RowPages s .load (slCheck fmt.toNat false) base st (max 1 y) (if y = 0 then 128 else if w = 4 then 256 else 128) (upTo n) r →
        exec (.slloadRow fmt slot a imm b c) s =
          .next ((queues s (.slload false fmt.toNat slot.toNat l0 n base st y r.pages)).ends id)) ∧
      (w ≠ 4 → RowPages s .load (slCheck fmt.toNat false) base st (max 1 y) n (if n = 0 then [] else upTo 128) r →
        exec (.slloadCol fmt slot a imm b c) s =
          .next ((queues s (.slload true fmt.toNat slot.toNat l0 n base st y r.pages)).ends id))) ∧
    (∀ (slot : BitVec 6) (a : Src) (imm : BitVec 16) (r : Runs), let base := (val s a + imm.signExtend 64).toNat
      s.OpsReady [srcX a] [] → OwnsSlot s slot.toNat → base % 8 = 0 →
      (runPages .load (slCheck 0 true) base 1 128 ⟨[], []⟩).go s = (.ok r, s) →
      exec (.slloadScale slot a imm) s = .next ((queues s (.scale slot.toNat base r.pages)).ends id)) ∧
    (∀ (t : BitVec 2) (sa sb : BitVec 6) (fa fb : BitVec 4) (i : Bool),
      Leased s → OwnsSlot s sa.toNat → OwnsSlot s sb.toNat → OwnsTile s t.toNat → (tileI32 t.toNat).go s = (.ok i, s) →
      (∀ k : Src, let n := (val s k).toNat % 512
        s.OpsReady [srcX k] [] → opaPair false fa.toNat fb.toNat = some i → n ≤ (if tyWidth fa.toNat = 16 then 64 else 256) →
        (tyWidth fa.toNat = 8 → 128 < n → OwnsPair s sa.toNat ∧ OwnsPair s sb.toNat) →
        exec (.mop t sa sb fa fb k) s =
          .next ((queues s (.mop t.toNat sa.toNat sb.toNat fa.toNat fb.toNat n)).ends id)) ∧
      (opaPair true fa.toNat fb.toNat = some i → (tyWidth fa.toNat = 8 → OwnsPair s sa.toNat ∧ OwnsPair s sb.toNat) →
        exec (.mops t sa sb fa fb) s =
          .next ((queues s (.mops t.toNat sa.toNat sb.toNat fa.toNat fb.toNat)).ends id))) ∧
    (∀ t : BitVec 2, Leased s → OwnsTile s t.toNat →
      exec (.mzero t) s = .next ((queues s (.mzero t.toNat)).ends id)) ∧
    (∀ (a : Src) (mem : Bool) (mk : BitVec 3) (v : VState) (i : Bool),
      let t := bitsAt (val s a).toNat 8 2
      let i0 := bitsAt (val s a).toNat 0 7
      let ty := if i then 2 else 9
      s.me.vs = some v → Fits s v [32] → Leased s → OwnsTile s t → i0 * 128 + v.vl ≤ 16384 →
      (tileI32 t).go s = (.ok i, s) →
      (∀ d : VDst, s.OpsReady [srcX a] (vdst d) →
        exec (.mrd d a mem mk) s = .next ((queues
          ((produce (vtarget d) [] ⟨ty, false, restBits v d false 32 v.vl (bitAt (v.activeSet mem mk)), []⟩ 0 0 none .here (64, false)).go s).2
          (.mrd s.nextPend t i0 v.vl (v.activeSet mem mk))).ends id)) ∧
      (∀ vs : BitVec 5, s.OpsReady [.v vs.toNat true, srcX a] [] → (v.getV vs.toNat).ty = ty →
        exec (.mwr a vs mem mk) s =
          .next ((queues s (.mwr t i0 v.vl (v.activeSet mem mk) (v.getV vs.toNat).bits)).ends id))) ∧
    (∀ (t : BitVec 2) (a : Src) (imm : BitVec 16) (b c : Src) (q : Option Window) (r : Runs),
      let base := (val s a + imm.signExtend 64).toNat
      let st := (val s b).toNat
      let n := bitsAt (val s c).toNat 8 8
      let i0 := bitsAt (val s c).toNat 0 7
      let d := spacing q 4
      let dm := fcsrMode s.me.fcsr
      s.OpsReady [srcX a, srcX b, srcX c] [] → Leased s → OwnsTile s t.toNat → n ≤ 128 → i0 + n ≤ 128 →
      (baseWindow base .store).go s = (.ok q, s) → base % d = 0 → st % d = 0 →
      RowPages s .store mstCheck base st d 128 (upTo n) r → (∀ x ∈ r.xls, x.wb = false) →
      exec (.mst t a imm b c) s =
        .next ((queues s (.mst t.toNat i0 n base st d dm (fcsrSatn s.me.fcsr) s.me.seed r.pages)).ends fun x =>
          { x with seed := draws (((upTo n).map fun k => rowDraws s r.pages dm ((base + k * st) % 2 ^ 64) d).foldl (· + ·) 0) x.seed }))

/-- R275, R279, R283, R285 to R287, R289 to R291: where the array's instructions trap or wait: every one on a service core and in an erg; in a handler; a leased command in state NONE or after MFREE; a slot or tile of another thread, or not the thread's own; a pair of types that the tile does not take, a range beyond a slot or a tile; a full stream. An access is checked before ownership. -/
def Obligations.ArrayTraps : Prop :=
  (∀ (s : State) (i : Instr) (op : Nat) (srcs dsts : List Opd), arrayOps i = some (op, srcs, dsts) → s.OpsReady srcs dsts →
    (isSvc s.cur.core = true → exec i s = .next (s.traps s Cause.badTarget 0 0)) ∧
    (isSvc s.cur.core = false → s.me.ergBit = true → s.me.trapBit = false →
      exec i s = .next (s.traps s Cause.ergState (5 + op * 256) 0))) ∧
  (∀ (s : State) (t : BitVec 2) (a b : BitVec 6) (fa fb : BitVec 4) (i32 : Bool) (k : Src),
    isSvc s.cur.core = false → (s.me.ergBit && !s.me.trapBit) = false → s.cur.isHandler = true →
    (∀ i ∈ ([.mfree, .slclaim a b, .slfree a b, .aclaim i32 t, .afree t, .mzero t, .mops t a b fa fb, .msync] : List Instr),
      exec i s = .next (s.traps s Cause.lease 1 0)) ∧
    (s.OpsReady [srcX k] [] → exec (.mop t a b fa fb k) s = .next (s.traps s Cause.lease 1 0)) ∧
    (s.me.token = none → s.OpsReady [srcX k] [] → exec (.mlease k) s = .next (s.traps s Cause.handlerBlock 0 0))) ∧
  (∀ (s : State) (t : BitVec 2) (sa sb : BitVec 6) (fa fb : BitVec 4) (k : Src),
    isSvc s.cur.core = false → (s.me.ergBit && !s.me.trapBit) = false → s.cur.isHandler = false → s.OpsReady [srcX k] [] →
    (¬ Leased s → ∀ i ∈ ([.mzero t, .mop t sa sb fa fb k, .mops t sa sb fa fb] : List Instr),
      exec i s = .next (s.traps s Cause.lease 0 0)) ∧
    (Leased s → ¬ OwnsTile s t.toNat → exec (.mzero t) s = .next (s.traps s Cause.tile (t.toNat + 2 * 256) 0)) ∧
    (Leased s → OwnsTile s t.toNat → 16 ≤ s.me.stream.length → exec (.mzero t) s = .next { s with waited := true }) ∧
    (Leased s → ∀ i ∈ ([.mop t sa sb fa fb k, .mops t sa sb fa fb] : List Instr),
      (¬ OwnsSlot s sa.toNat → exec i s = .next (s.traps s Cause.slot (sa.toNat + 2 * 256) 0)) ∧
      (OwnsSlot s sa.toNat → ¬ OwnsSlot s sb.toNat → exec i s = .next (s.traps s Cause.slot (sb.toNat + 2 * 256) 0)) ∧
      (OwnsSlot s sa.toNat → OwnsSlot s sb.toNat → ¬ OwnsTile s t.toNat →
        exec i s = .next (s.traps s Cause.tile (t.toNat + 2 * 256) 0))) ∧
    (∀ x : Bool, Leased s → OwnsSlot s sa.toNat → OwnsSlot s sb.toNat → OwnsTile s t.toNat → (tileI32 t.toNat).go s = (.ok x, s) →
      (opaPair false fa.toNat fb.toNat ≠ some x →
        exec (.mop t sa sb fa fb k) s = .next (s.traps s Cause.tile (t.toNat + 5 * 256) 0)) ∧
      (opaPair true fa.toNat fb.toNat ≠ some x →
        exec (.mops t sa sb fa fb) s = .next (s.traps s Cause.tile (t.toNat + 5 * 256) 0)) ∧
      (opaPair false fa.toNat fb.toNat = some x → (if tyWidth fa.toNat = 16 then 64 else 256) < (val s k).toNat % 512 →
        exec (.mop t sa sb fa fb k) s =
          .next (s.traps s Cause.slot (sa.toNat + 4 * 256 + (val s k).toNat % 2 ^ 32 * 2 ^ 32) 0)) ∧
      (opaPair true fa.toNat fb.toNat = some x → tyWidth fa.toNat = 8 → sa.toNat % 2 = 1 →
        exec (.mops t sa sb fa fb) s = .next (s.traps s Cause.slot (sa.toNat + 3 * 256) 0)))) ∧
  (∀ (s : State) (a b : BitVec 6) (t : BitVec 2) (i32 : Bool),
    isSvc s.cur.core = false → (s.me.ergBit && !s.me.trapBit) = false → s.cur.isHandler = false →
    (∀ u, ((cluster s).tile t.toNat).owner = some u → u ≠ s.me.uid →
      exec (.aclaim i32 t) s = .next (s.traps s Cause.tile (t.toNat + 256) 0)) ∧
    (∀ n u, a.toNat ≤ n → n ≤ b.toNat → ((cluster s).slot n).owner = some u → u ≠ s.me.uid →
      (∀ m, a.toNat ≤ m → m < n → ((cluster s).slot m).owner = none ∨ OwnsSlot s m) →
      exec (.slclaim a b) s = .next (s.traps s Cause.slot (n + 256) 0))) ∧
  (∀ (s : State) (fmt : BitVec 4) (slot : BitVec 6) (t : BitVec 2) (a : Src) (imm : BitVec 16) (b c : Src),
    isSvc s.cur.core = false → (s.me.ergBit && !s.me.trapBit) = false → s.OpsReady [srcX a, srcX b, srcX c] [] →
    let l0 := bitsAt (val s c).toNat 0 9
    let n := bitsAt (val s c).toNat 16 9
    let w := tyWidth fmt.toNat
    (w = 4 → exec (.slloadCol fmt slot a imm b c) s = .next (s.traps s Cause.subbyteStride s.me.pc 0)) ∧
    (∀ col i, (col = false ∧ i = .slloadRow fmt slot a imm b c ∨ col = true ∧ i = .slloadCol fmt slot a imm b c) →
      SlloadChecked s col fmt.toNat a imm b c →
      (s.cur.isHandler = true → exec i s = .next (s.traps s Cause.lease 1 0)) ∧
      (s.cur.isHandler = false → ¬ OwnsSlot s slot.toNat → exec i s = .next (s.traps s Cause.slot (slot.toNat + 2 * 256) 0)) ∧
      (s.cur.isHandler = false → OwnsSlot s slot.toNat → 0 < n →
        (if w = 16 then 64 else if w = 4 then 128 else 256) < l0 + n →
        exec i s = .next (s.traps s Cause.slot (slot.toNat + 4 * 256 + (val s c).toNat % 2 ^ 32 * 2 ^ 32) 0))) ∧
    (MstChecked s a imm b c →
      (s.cur.isHandler = true → exec (.mst t a imm b c) s = .next (s.traps s Cause.lease 1 0)) ∧
      (s.cur.isHandler = false → ¬ Leased s → exec (.mst t a imm b c) s = .next (s.traps s Cause.lease 0 0)) ∧
      (s.cur.isHandler = false → Leased s → ¬ OwnsTile s t.toNat →
        exec (.mst t a imm b c) s = .next (s.traps s Cause.tile (t.toNat + 2 * 256) 0)))) ∧
  (∀ (s : State) (a : Src) (d : VDst) (vs : BitVec 5) (mem : Bool) (mk : BitVec 3) (v : VState) (i : Bool) (x : Instr),
    let t := bitsAt (val s a).toNat 8 2
    let i0 := bitsAt (val s a).toNat 0 7
    s.VectorReady v → Fits s v [32] → s.cur.isHandler = false →
    (x = .mrd d a mem mk ∧ s.OpsReady [srcX a] (vdst d) ∨
      x = .mwr a vs mem mk ∧ s.OpsReady [.v vs.toNat true, srcX a] [] ∧ (tileI32 t).go s = (.ok i, s) ∧
        (v.getV vs.toNat).ty = (if i then 2 else 9)) →
    (¬ Leased s → exec x s = .next (s.traps s Cause.lease 0 0)) ∧
    (Leased s → ¬ OwnsTile s t → exec x s = .next (s.traps s Cause.tile (t + 2 * 256) 0)) ∧
    (Leased s → OwnsTile s t → 16384 < i0 * 128 + v.vl →
      exec x s = .next (s.traps s Cause.tile (t + 4 * 256 + (val s a).toNat % 2 ^ 32 * 2 ^ 32) 0)))

/-! ### Ferry engines -/

/-- R297, R298, R301 to R304, R372: a Ferry command that passes its checks is forked, with a release at DI where its scope is CL (the model's reading, log 21), and appended while the FIFO has room; FERRYNB answers 1 without effect where it has none, FERRY sleeps, and once woken checks nothing again; the landing-word instructions read and set the word, an LWWAIT translating once; FJOIN sleeps while a command of its tag is open, then returns FBAD and clears it; FCPOLL returns zeros from an empty ring, takes a record from another, and takes none whose address cannot be translated, which fails the quad with REG_EMPTY. -/
def Obligations.FerryInstructions : Prop :=
  (∀ (s : State) (q : QSrc) (d : Reg) (land : Option Nat), let c := s.ferryCmd (quad s q)
    s.OpsReady (quadSrcs q) [.x d.toNat false] → s.OpsReady (quadSrcs q) [] → (ferryCheck c).go s = (.ok land, s) →
    s.me.token = none →
    ((s.coreAt s.cur.core).fifo.length < 16 → s.MayRelease (max 1 c.scope) 1023 →
      (s.release (s.me.l1s s.cur.core) (max 1 c.scope) 1023).Quiet →
      exec (.ferry q) s = .next ((forks s c land).ends id) ∧ exec (.ferrynb d q) s = .next ((forks s c land).writes d 0)) ∧
    (16 ≤ (s.coreAt s.cur.core).fifo.length →
      exec (.ferrynb d q) s = .next (s.writes d 1) ∧
      (s.cur.isHandler = false → exec (.ferry q) s = .next (s.updMe fun c => { c with wait := some (.fifo land) })) ∧
      (s.cur.isHandler = true → exec (.ferry q) s = .next (s.traps s Cause.handlerBlock 0 0)))) ∧
  (∀ (s : State) (q : QSrc) (l : List Word), let c := s.ferryCmd (quad s q)
    s.OpsReady (quadSrcs q) [] → s.me.token = some l → (s.coreAt s.cur.core).fifo.length < 16 →
    s.MayRelease (max 1 c.scope) 1023 → (s.release (s.me.l1s s.cur.core) (max 1 c.scope) 1023).Quiet →
    exec (.ferry q) s = .next ((forks s c (l.head?.map fun w => w.toNat)).ends id)) ∧
  (∀ (s : State) (q : QSrc) (d : Reg), let c := s.ferryCmd (quad s q)
    s.OpsReady (quadSrcs q) [.x d.toNat false] →
    (c.op = 0 ∨ 4 < c.op ∨ bitsAt c.w0 12 4 ≠ 0 ∨ (c.op = 2 ∧ c.count ≠ 0) ∨ (c.compl = 3 ∧ c.w3 ≠ 0)) →
    exec (.ferrynb d q) s = .next (s.traps s Cause.ferryFault c.w0 0)) ∧
  (∀ (s : State) (d : Reg) (a : Src) (imm : BitVec 16) (x : Xl),
    let va := (val s a + imm.signExtend 64).toNat
    let l := s.landing x.pa
    (∀ b : Src, s.OpsReady [srcX a, srcX b] [.x d.toNat false] → LandWord s va .store x → x.wb = false →
      s.landReady x.pa = true →
      exec (.lwinit d a imm b) s =
        .next (((s.landRestore x.pa).setLanding x.pa { l with target := (val s b).toNat % 2 ^ 32, count := 0 }).writes d (wd l.gen))) ∧
    (∀ (sc : Scope) (b : Src), s.OpsReady [srcX a, srcX b] [.x d.toNat false] → s.cur.isHandler = false →
      let g := (val s b).toNat % 2 ^ 16
      let s₁ := s.updMe fun k => { k with pas := [x.pa] }
      (s.me.pas = [] → LandWord s va .load x → s.landPoison x.pa = false →
        (s.me.token.isSome = true ∨ landed l.gen g = true →
          exec (.lwwait sc d a imm b) s = .next ((acquires s₁ sc).writes d (wd l.gen))) ∧
        (s.me.token = none → landed l.gen g = false →
          exec (.lwwait sc d a imm b) s = .next ((s₁.setLanding x.pa { l with waiters := l.waiters + 1 }).updMe fun k =>
            { k with wait := some (.landing x.pa g) }))) ∧
      (s.me.pas = [x.pa] → s.me.token.isSome = true →
        exec (.lwwait sc d a imm b) s = .next ((acquires s sc).writes d (wd l.gen)))) ∧
    (s.OpsReady [srcX a] [.x d.toNat false] → LandWord s va .load x → s.landPoison x.pa = false →
      exec (.lwread d a imm) s =
        .next ((producing s d (wd (l.count * 2 ^ 32 + l.waiters * 2 ^ 16 + l.gen)) x.va x.pa none (.spm (spmAddr x.pa).core)).ends id)) ∧
    (∀ gen g, landed gen g = true ↔ (gen + 2 ^ 16 - g % 2 ^ 16) % 2 ^ 16 < 2 ^ 15)) ∧
  (∀ (s : State) (sc : Scope) (d : Reg) (a : Src), s.OpsReady [srcX a] [.x d.toNat false] → s.cur.isHandler = false →
    (s.unjoined s.cur.core s.me.uid ((val s a).toNat % 2 ^ 16) = false →
      exec (.fjoin sc d a) s = .next ((acquires s sc).ends fun x => { x.setX d.toNat (if s.me.fbad then 1 else 0) with fbad := false })) ∧
    (s.unjoined s.cur.core s.me.uid ((val s a).toNat % 2 ^ 16) = true →
      exec (.fjoin sc d a) s = .next (s.updMe fun k => { k with wait := some (.join ((val s a).toNat % 2 ^ 16)) }))) ∧
  (∀ (s : State) (sc : Scope) (q : Quad) (a : Src) (imm : BitVec 16) (h : Xl) (base lg prod cons : Nat),
    let va := (val s a + imm.signExtend 64).toNat
    s.OpsReady [srcX a] (quadDsts q) → va % 64 = 0 → s.Translates va .atomic h → ringPlace h = true →
    s.heldBack s.cur.core h.pa 64 = false → h.wb = false →
    (ringWord h 0).go s = (.ok (base, none), s) → (ringWord h 8).go s = (.ok (lg, none), s) →
    (ringWord h 16).go s = (.ok (prod, none), s) → (ringWord h 24).go s = (.ok (cons, none), s) →
    (prod = cons → exec (.fcpoll sc q a imm) s = .next ((producingQuad s q [0, 0, 0, 0] va h.pa none (s.originOf h 8)).ends id)) ∧
    (∀ x s' v, let rec' := (base + 32 * (cons % 2 ^ (lg % 32))) % 2 ^ 64
      prod ≠ cons → paClass (h.pa + 24) ≠ 2 → s.Translates rec' .load x → (ringRead x).go s = (.ok (v, none), s') →
      let s₁ := (s'.homePut (h.pa + 24) 8 ((cons + 1) % 2 ^ 64)).2
      let s₂ := if v.getD 0 0 ≠ 0 then acquires s₁ sc else s₁
      exec (.fcpoll sc q a imm) s = .next ((producingQuad s₂ q v rec' x.pa none (s₂.originOf x 8)).ends id)) ∧
    (∀ s' cause value mask, let rec' := (base + 32 * (cons % 2 ^ (lg % 32))) % 2 ^ 64
      prod ≠ cons → (xlateM rec' .load).go s = (.error (.trap cause value mask), s') →
      exec (.fcpoll sc q a imm) s =
        .next ((producingQuad s' q [0, 0, 0, 0] rec' h.pa (some (Cause.regEmpty, rec', 0)) (s'.originOf h 8)).ends id)))

/-! ### Threads, groups -/

/-- R29, R30, R33, R48, R305 to R307, R312: SPAWN makes a thread in the lowest free berth of its target after a release at PK, or answers all ones; EXIT ends the thread; YIELD holds the berth for 8 fc; JOIN, LEAVE and GBAR act on the record at its home and return the phase, or sleep until it advances; GETID reads identities. -/
def Obligations.ThreadsAndGroups : Prop :=
  (∀ (s : State) (d : Reg) (a b c : Src), s.OpsReady [srcX a, srcX b, srcX c] [.x d.toNat false] →
    let t := (val s c).toNat
    let any := bitAt t 10
    let core := t % 1024
    ((val s a).toNat % 64 ≠ 0 →
      exec (.spawn d a b c) s = .next (s.traps s Cause.badTarget (val s a).toNat 0)) ∧
    ((val s a).toNat % 64 = 0 → (2 ^ 11 ≤ t ∨ (any = true ∧ core % 4 ≠ 0) ∨ s.corePresent core = false) →
      exec (.spawn d a b c) s = .next (s.traps s Cause.badTarget t 0)) ∧
    ((val s a).toNat % 64 = 0 → t < 2 ^ 11 → (any = true → core % 4 = 0) → s.corePresent core = true →
      s.edgeHeld (dieOf s.cur.core) (dieOf core) = false → s.MayRelease Scope.pk.code 1023 → (releases s .pk).Quiet →
      let s₁ := releases s .pk
      (s₁.spawnPlace any core = none → exec (.spawn d a b c) s = .next (s₁.writes d (BitVec.allOnes 64))) ∧
      (∀ p, s₁.spawnPlace any core = some p →
        let s₂ := s₁.startThread p ⟨(val s a).toNat, s₁.space.pl, s₁.space.ptbase, s₁.space.asid,
          if s₁.cur.isHandler then none else s₁.me.inst, s₁.me.getX b.r.toNat, wd (kindTid s₁.cur s₁.me.tid), 0⟩
        exec (.spawn d a b c) s =
          .next ((if any then s₂.updCl (core / 4) fun k => { k with spawnLast := p.core % 4 } else s₂).writes d (wd p.tid))))) ∧
  (∀ (t : Start) (c : CtxId) (uid : Nat), let x := t.ctx c uid
    x.getX 1 = t.x1 ∧ x.getX 2 = t.x2 ∧ x.getX 3 = t.x3 ∧ (∀ r, r = 0 ∨ 3 < r → x.getX r = 0) ∧ x.pc = t.entry + 2 ∧ x.pl = t.pl ∧
    x.ptbase = t.ptbase ∧ x.asid = t.asid ∧ x.seed = c.tid + 1 ∧ x.tid = c.tid ∧ x.vs = none ∧ x.fcsr = 0x100 ∧ x.fbad = false ∧
    x.trapBit = false ∧ x.occ = .occupied) ∧
  (∀ s : State,
    (s.cur.isHandler = false →
      (s.ergWaits s.cur = false → s.endLacks s.cur = [] → exec .exit s = .next ((s.endThread s.cur).updMe Ctx.done)) ∧
      (s.ergWaits s.cur = true → exec .exit s = .next { s with waited := true }) ∧
      exec .hret s = .next (s.traps s Cause.priv 0 0) ∧
      exec .yield s = .next (s.ends fun x => { x with hold := some (s.fc + 8) })) ∧
    (s.cur.isHandler = true →
      (s.endLacks s.cur = [] →
        (s.ergWaits s.cur = false → exec .exit s = .next ((s.endHandler s.cur).updMe Ctx.done)) ∧
        exec .hret s = .next ((s.endHandler s.cur).updMe Ctx.done)) ∧
      exec .yield s = .next (s.ends id)) ∧
    (∀ (k : IdKind) (d : Reg), s.OpsReady [] [.x d.toNat false] → exec (.getid k d) s = .next (s.writes d (wd (s.getId k))))) ∧
  (∀ (s : State) (d : Reg) (a : Src) (imm : BitVec 16) (x : Xl) (sc : Scope),
    let va := (val s a + (imm.signExtend 24).signExtend 64).toNat
    s.OpsReady [srcX a] [.x d.toNat false] → s.cur.isHandler = false → SyncWord s va 16 x → paClass x.pa ≠ 2 →
    (s.me.token = none →
      (∀ v s', s.groupJoin x.pa (s.waiterMe true) = (some v, s') → exec (.join d a imm) s = .next (s'.writes d (wd v))) ∧
      (∀ s', s.groupJoin x.pa (s.waiterMe true) = (none, s') →
        exec (.join d a imm) s = .next (s'.updMe fun k => { k with wait := some (.group x.pa) }))) ∧
    (s.MayRelease sc.code 1023 → (releases s sc).Quiet → s.me.asks = [] →
      let s₁ := releases s sc
      exec (.leave sc d a imm) s = .next ((s₁.groupLeave x.pa).2.writes d (wd (s₁.groupLeave x.pa).1)) ∧
      (s.me.token = none →
        (∀ v s', s₁.groupBar x.pa (s₁.waiterMe false) = (some v, s') →
          exec (.gbar sc d a imm) s = .next ((acquires (s'.updMe fun k => k.setX d.toNat (wd v)) sc).ends id)) ∧
        (∀ s', s₁.groupBar x.pa (s₁.waiterMe false) = (none, s') →
          exec (.gbar sc d a imm) s = .next (s'.updMe fun k => { k with wait := some (.group x.pa) }))))) ∧
  (∀ (s : State) (sc : Scope) (d : Reg) (a : Src) (imm : BitVec 16) (v : Word) (r : List Word), s.me.token = some (v :: r) →
    exec (.join d a imm) s = .next (s.writes d v) ∧
    exec (.gbar sc d a imm) s = .next ((acquires (s.updMe fun k => k.setX d.toNat v) sc).ends id))

/-! ### Messages and tasks -/

/-- R35 to R37, R44, R308, R309: SEND and SENDNB release and send to a place that exists while the send queue has room; at a full queue SEND traps and SENDNB answers 1; a handler may send replies only. HMASK and HUNMASK set the mask of a channel and answer what it was. -/
def Obligations.Messages : Prop :=
  (∀ (s : State) (rep : Bool) (sc : Scope) (d : Reg) (q : QSrc) (b : Src),
    s.OpsReady (quadSrcs q ++ [srcX b]) [] → s.OpsReady (quadSrcs q ++ [srcX b]) [.x d.toNat false] →
    let v := (val s b).toNat
    (s.cur.isHandler = true → rep = false →
      exec (.send rep sc q b) s = .next (s.traps s Cause.handlerBlock 0 0)) ∧
    ((s.cur.isHandler = true → rep = true) → s.dest v = none →
      exec (.send rep sc q b) s = .next (s.traps s Cause.badTarget v 0) ∧
      exec (.sendnb rep sc d q b) s = .next (s.traps s Cause.badTarget v 0)) ∧
    (∀ t, s.cur.isHandler = false → s.dest v = some t → (t.pkg ≠ s.pkgid → s.outHeld (dieOf s.cur.core) t.pkg (Nat.xor s.cur.core t.core) = false) →
      (s.sendFull rep = true →
        exec (.send rep sc q b) s = .next (s.traps s Cause.sendqFull v 0) ∧
        exec (.sendnb rep sc d q b) s = .next (s.writes d 1)) ∧
      (s.sendFull rep = false → s.MayRelease sc.code 1023 → (releases s sc).Quiet →
        exec (.send rep sc q b) s = .next ((sends s rep sc t q).ends id) ∧
        exec (.sendnb rep sc d q b) s = .next ((sends s rep sc t q).writes d 0))) ∧
    (2 ^ 42 ≤ v ∨ bitsAt v 17 15 ≠ 0 ∨ (bitAt v 16 = true ∧ 16 ≤ bitsAt v 6 10) → s.dest v = none)) ∧
  (∀ (s s' : State) (d : Reg) (a : Src) (sup : Bool), s.OpsReady [srcX a] [.x d.toNat false] →
    let v := (val s a).toNat
    s.supChannel s.cur.core (v % 64) = (sup, s') → s'.lacks = s.lacks →
    (sup = true → s'.me.pl = 0 →
      exec (.hmask d a) s = .next (s.traps s' Cause.priv (v % 64) 0) ∧
      exec (.hunmask d a) s = .next (s.traps s' Cause.priv (v % 64) 0)) ∧
    ((sup = true → s'.me.pl ≠ 0) → 64 ≤ v →
      exec (.hmask d a) s = .next (s.traps s' Cause.badTarget v 0)) ∧
    ((sup = true → s'.me.pl ≠ 0) → v < 64 →
      let old : Word := if bitAt (s'.coreAt s'.cur.core).chmask v then 1 else 0
      exec (.hmask d a) s =
        .next ((s'.updCore s'.cur.core fun k => { k with chmask := setBit k.chmask v true }).writes d old) ∧
      exec (.hunmask d a) s =
        .next ((s'.updCore s'.cur.core fun k => { k with chmask := setBit k.chmask v false }).writes d old)))

/-- R57, R58, R63, R310, R311: TSPAWN releases, reads its record, with the dependence pair where it names one, and pushes an instance, or traps where the record is malformed or a queue is full; GRANT takes the next rectangle of the thread's instance, zeros without one; WATCH takes the lowest free watchpoint of the home slice and records its own level for the pushes that it makes (the model's choice, log 44); UNWATCH removes the one that its handle names. -/
def Obligations.TasksAndWatchpoints : Prop :=
  (∀ (s s' t : State) (a : Src) (imm : BitVec 16) (words : List Nat) (r : Except (Nat × Nat) Unit),
    let va := (val s a + imm.signExtend 64).toNat
    s.OpsReady [srcX a] [] → s.me.asks = [] → s.MayRelease Scope.pk.code 1023 → (releases s .pk).Quiet →
    (va % 64 ≠ 0 → exec (.tspawn a imm) s = .next (s.traps (releases s .pk) Cause.badTarget va 0)) ∧
    (va % 64 = 0 → ((upTo 8).mapM fun k => pushWord (va + 8 * k)).go (releases s .pk) = (.ok words, s') →
      ((recordBad fun k => words.getD k 0) = true →
        exec (.tspawn a imm) s = .next (s.traps s' Cause.badTarget va 0)) ∧
      (∀ s₂ pair, (recordBad fun k => words.getD k 0) = false →
        (words.getD 6 0 = 0 ∧ pair = (0, 0) ∧ s₂ = s' ∨
          words.getD 6 0 ≠ 0 ∧ ∃ s₁, (pushWord (words.getD 6 0)).go s' = (.ok (Prod.fst pair), s₁) ∧
            (pushWord (words.getD 6 0 + 8)).go s₁ = (.ok (Prod.snd pair), s₂)) →
        s₂.pushInst ⟨s₂.space.ptbase, s₂.space.asid, s₂.space.pl != 0, svcOfCore s₂.cur.core, va, words, pair⟩ = (r, t) →
        t.lacks = s₂.lacks →
        (r = .ok () → exec (.tspawn a imm) s = .next (t.ends id)) ∧
        (∀ k, r = .error (1, k) → exec (.tspawn a imm) s = .next (s.traps t Cause.badTarget va 0)) ∧
        (∀ n k, n ≠ 1 → r = .error (n, k) →
          exec (.tspawn a imm) s = .next (s.traps t Cause.taskQueueFull va 0))))) ∧
  (∀ (s : State) (q : Quad), s.OpsReady [] (quadDsts q) →
    (s.me.inst = none → exec (.grant q) s = .next ((producingQuad s q [0, 0, 0, 0] 0 0 none .here).ends id)) ∧
    (∀ i v, s.me.inst = some i → s.instAt i = some v → s.edgeHeld (dieOf s.cur.core) (v.owner / 4) = false →
      let vl := match s.me.vs with
        | some v => v.vl
        | none => 0
      exec (.grant q) s =
        .next ((producingQuad ((s.setInst i (v.grant vl).2).leaveQueue i) q (v.grant vl).1 0 0 none (.home (v.owner / 4))).ends id))) ∧
  (∀ (v : Inst) (vl : Nat),
    (v.rows ≤ v.rb ∨ v.cols = 0 → v.grant vl = ([0, 0, 0, 0], v)) ∧
    (v.rb < v.rows → v.c < v.cols →
      let n := min (max v.grain 1) (v.rows - v.rb)
      let w := min (max vl 1) (v.cols - v.c)
      (v.grant vl).1 = [wd v.rb, wd n, wd v.c, wd w] ∧
      (v.c + w < v.cols → (v.grant vl).2 = { v with c := v.c + w }) ∧
      (v.c + w = v.cols → (v.grant vl).2 = { v with c := 0, rb := v.rb + n }))) ∧
  (∀ (s : State) (once : Bool) (n : BitVec 3) (d : Reg) (q : QSrc) (x : Xl),
    let range := (s.me.getX q.q.code).toNat
    s.OpsReady (quadSrcs q) [.x d.toNat false] →
    (range % 8 ≠ 0 ∨ 8 < range / 8 % 8 + (n.toNat + 1) →
      exec (.watch once n d q) s = .next (s.traps s Cause.misalign range 0)) ∧
    (range % 8 = 0 → range / 8 % 8 + (n.toNat + 1) ≤ 8 → s.Translates range .load x →
      (paClass x.pa ≠ 0 → exec (.watch once n d q) s = .next (s.traps s Cause.badTarget range 0)) ∧
      (paClass x.pa = 0 → let cl := s.homeSlice x.pa
        s.edgeHeld (dieOf s.cur.core) (cl / 64) = false →
        ((∀ f, f < 16 → s.watchAt cl f ≠ none) →
          exec (.watch once n d q) s = .next (s.traps s Cause.watchFull range 0)) ∧
        (∀ f, f < 16 → s.watchAt cl f = none → (∀ g, g < f → s.watchAt cl g ≠ none) →
          let h := (s.clAt cl).watchSeq % 2 ^ 16 * 2 ^ 16 + cl * 16 + f
          exec (.watch once n d q) s = .next ((s.updCl cl fun c =>
            { c with watch := KMap.ins c.watch f (some ⟨h, x.pa, n.toNat + 1, s.me.getX (q.q.code + 1), s.me.getX (q.q.code + 2),
                       (s.me.getX (q.q.code + 3)).toNat, once, s.space.ptbase, s.space.asid, s.space.pl != 0⟩),
                     watchSeq := (c.watchSeq + 1) % 2 ^ 16 }).writes d (wd h)))))) ∧
  (∀ (s : State) (d : Reg) (a : Src), s.OpsReady [srcX a] [.x d.toNat false] →
    let h := (val s a).toNat
    let cl := bitsAt h 4 8
    (2 ^ 32 ≤ h ∨ bitsAt h 12 4 ≠ 0 ∨ s.clusterPresent cl = false →
      exec (.unwatch d a) s = .next (s.traps s Cause.badTarget h 0)) ∧
    (h < 2 ^ 32 → bitsAt h 12 4 = 0 → s.clusterPresent cl = true → s.edgeHeld (dieOf s.cur.core) (cl / 64) = false →
      ((∀ k, s.watchAt cl (h % 16) = some k → k.handle ≠ h) → exec (.unwatch d a) s = .next (s.writes d 1)) ∧
      (∀ k, s.watchAt cl (h % 16) = some k → k.handle = h →
        exec (.unwatch d a) s =
          .next ((s.updCl cl fun c => { c with watch := KMap.ins c.watch (h % 16) none }).writes d 0))))

/-! ### Conflict batching -/

/-- R314 to R331, with log 26 for a CBTAKEV at VL = 0 (the model's reading: it answers whatever its handle is): CBOPEN, CBPOST, CBTAKE, CBTAKEV, CBDONE and CBCLOSE complete. CBOPEN takes the lowest free slot of a cluster's unit and answers its handle, or all ones; CBPOST releases, then its item enters, or it waits and completes when the item has entered; CBTAKE and CBTAKEV take the oldest issuable items and acquire, answer the drained result, or wait and complete with what they are given, the destination failing where a payload was lost on the way; CBDONE frees its tokens; CBCLOSE closes the session. A stale handle traps, but for a take. An item is issuable exactly when it is not taken and shares no body with an earlier item of its session that is not done, taken or not; takes give the oldest first; the result names the item's sequence number, session, entry and payload. -/
def Obligations.ConflictBatching : Prop :=
  (∀ (s : State) (d : Reg) (a : Src), isSvc s.cur.core = false → s.OpsReady [srcX a] [.x d.toNat false] →
    let x := (val s a).toNat
    let own := bitAt x 8
    let cl := if own then clusterOf s.cur.core else bitsAt x 0 8
    (2 ^ 11 ≤ x ∨ (own = true ∧ bitsAt x 0 8 ≠ 0) ∨ s.clusterPresent cl = false →
      exec (.cbopen d a) s = .next (s.traps s Cause.badTarget x 0)) ∧
    (x < 2 ^ 11 → (own = true → bitsAt x 0 8 = 0) → s.clusterPresent cl = true →
      s.edgeHeld (dieOf s.cur.core) (cl / 64) = false →
      ((∀ k, k < 8 → s.session cl k ≠ none) → exec (.cbopen d a) s = .next (s.writes d (BitVec.allOnes 64))) ∧
      (∀ k, k < 8 → s.session cl k = none → (∀ j, j < k → s.session cl j ≠ none) →
        let n := (s.clAt cl).cbuSeq
        exec (.cbopen d a) s = .next (((s.setSession cl k (some ⟨n, bitsAt x 9 2, 0, false, [], []⟩)).updCl cl fun c =>
          { c with cbuSeq := (n + 1) % 65536 }).writes d (Handle.word ⟨n, bitsAt x 9 2, cl, k⟩))))) ∧
  (∀ (s : State) (q : QSrc), BatchReady s → s.OpsReady (quadSrcs q) [] →
    (∀ (h : Handle), HandleIs s (s.me.getX (q.q.code + 3)) h → s.me.token = none → s.MayRelease h.scope 1023 →
      (releasesAt s h.scope).Quiet →
      let s₁ := releasesAt s h.scope
      let bodies := postBodies (s.me.getX (q.q.code + 1)).toNat (s.me.getX (q.q.code + 2)).toNat
      let payload := (s.me.getX q.q.code).toNat % 2 ^ 32
      let word := (s.me.getX (q.q.code + 3)).toNat
      (s₁.handleSession h = none → exec (.cbpost q) s = .next (s.traps s₁ Cause.cbuState (cbuReason 1 word) 0)) ∧
      (∀ v, s₁.handleSession h = some v →
        (v.closed = true → exec (.cbpost q) s = .next (s.traps s₁ Cause.cbuState (cbuReason 2 word) 0)) ∧
        (v.closed = false → (s₁.clAt h.cl).cbuPosts = [] → s₁.cbuFits h.cl h.slot bodies = true →
          exec (.cbpost q) s = .next (((s₁.cbuEnter h.cl h.slot bodies payload).serveCbu h.cl).ends id)) ∧
        (v.closed = false → ((s₁.clAt h.cl).cbuPosts ≠ [] ∨ s₁.cbuFits h.cl h.slot bodies = false) →
          exec (.cbpost q) s = .next ((s₁.updCl h.cl fun k =>
            { k with cbuPosts := k.cbuPosts ++ [⟨s₁.cur.key, s.me.uid, h.slot, h.seq, 0, bodies, payload⟩] }).updMe
              fun k => { k with wait := some .post })))) ∧
    (s.me.token = some [] → exec (.cbpost q) s = .next (s.ends id)) ∧
    (∀ w r, s.me.token = some (w :: r) → exec (.cbpost q) s = .next (s.traps s Cause.cbuState (cbuReason 1 w.toNat) 0))) ∧
  (∀ (s : State) (d : Reg) (a : Src),
    (∀ (h : Handle), BatchReady s → s.OpsReady [srcX a] [.x d.toNat false] → HandleIs s (val s a) h → s.me.token = none →
      (s.handleSession h = none → exec (.cbtake d a) s = .next (s.writes d (BitVec.allOnes 64))) ∧
      (∀ v, s.handleSession h = some v →
        (v.takes = [] → ∀ i r, v.ready = i :: r →
          exec (.cbtake d a) s = .next (if i.bad then (takes s h v [i]).ends fun x => x.markX d.toNat (.failed Cause.uncorrectable 0 0)
            else (takes s h v [i]).writes d (i.result h.slot))) ∧
        (v.ready = [] → s.drained h.cl h.slot v = true → exec (.cbtake d a) s = .next (s.writes d (BitVec.allOnes 64))) ∧
        (v.ready = [] → s.drained h.cl h.slot v = false →
          exec (.cbtake d a) s = .next (takeWaits s h v 1 (.x d.toNat) (s.me.stX d.toNat))))) ∧
    (s.me.token = some [] ∨ (∃ sc, s.me.token = some [sc]) →
      exec (.cbtake d a) s = .next (s.writes d (BitVec.allOnes 64))) ∧
    (∀ sc w b r, s.me.token = some (sc :: w :: b :: r) →
      exec (.cbtake d a) s = .next (if b ≠ 0 then (acquiresAt s sc.toNat).ends fun x => x.markX d.toNat (.failed Cause.uncorrectable 0 0)
        else (acquiresAt s sc.toNat).writes d w))) ∧
  (∀ (s : State) (vd : BitVec 5) (a : Src),
    (∀ (h : Handle) (vs : VState), BatchReady s → s.OpsReady [srcX a] [.v vd.toNat false] →
      (s.me.ergBit && !s.me.trapBit) = false → s.me.vs = some vs → Fits s vs [64] → s.me.token = none →
      (vs.vl = 0 → exec (.cbtakev vd a) s = .next (s.ends fun x => x.updV fun v =>
        (v.setV vd.toNat (caravan [])).pushL (caravan []))) ∧
      (vs.vl ≠ 0 → HandleIs s (val s a) h →
        (s.handleSession h = none → exec (.cbtakev vd a) s = .next (vtaken s vd [])) ∧
        (∀ v, s.handleSession h = some v →
          let l := v.ready.take (min vs.vl 256)
          (v.takes = [] → v.ready ≠ [] → (∀ i ∈ l, i.bad = false) →
            exec (.cbtakev vd a) s = .next (vtaken (takes s h v l) vd (l.map fun i => i.result h.slot))) ∧
          (v.ready = [] → s.drained h.cl h.slot v = true → exec (.cbtakev vd a) s = .next (vtaken s vd [])) ∧
          (v.ready = [] → s.drained h.cl h.slot v = false →
            exec (.cbtakev vd a) s = .next (takeWaits s h v (min vs.vl 256) (.v vd.toNat) (vs.stV vd.toNat)))))) ∧
    (∀ sc l, s.me.token = some (sc :: l.flatMap fun w => [w, 0]) →
      exec (.cbtakev vd a) s = .next (vtaken (if l = [] then s else acquiresAt s sc.toNat) vd l))) ∧
  (∀ (s : State) (a : Src) (mk : BitVec 3), isSvc s.cur.core = false →
    (∀ (r : Reg) (f : Bool) (h : Handle) (v : Session), s.OpsReady [.x r.toNat f, srcX a] [] → HandleIs s (val s a) h →
      s.MayRelease h.scope 1023 → (releasesAt s h.scope).Quiet →
      let s₁ := releasesAt s h.scope
      (s₁.handleSession h = none →
        exec (.cbdone ⟨.bc r, f⟩ a false mk) s = .next (s.traps s₁ Cause.cbuState (cbuReason 1 (val s a).toNat) 0)) ∧
      (s₁.handleSession h = some v →
      let tok := bitsAt (s.me.getX r.toNat).toNat 32 32
      (badToken v h.slot [tok] = none → exec (.cbdone ⟨.bc r, f⟩ a false mk) s = .next ((doneItems s₁ h v [tok]).ends id)) ∧
      (∀ why t, badToken v h.slot [tok] = some (why, t) →
        exec (.cbdone ⟨.bc r, f⟩ a false mk) s = .next (s.traps s₁ Cause.cbuState (cbuReason why t) 0)))) ∧
    (∀ (b : VSrc) (me : Bool) (vs : VState), (∀ r, b.op ≠ .bc r) → s.cur.isHandler = false → s.OpsReady [vopd b, srcX a] [] →
      (s.me.ergBit && !s.me.trapBit) = false → s.me.vs = some vs → hasEntry vs b → Fits s vs [64] →
      (arg s vs b).tag = some ⟨7, false⟩ →
      let toks := tokensOf s vs b me mk
      (toks = [] → exec (.cbdone b a me mk) s = .next (s.ends fun x => x.updV (popped [b]))) ∧
      (∀ (h : Handle) (v : Session), toks ≠ [] → HandleIs s (val s a) h → s.MayRelease h.scope 1023 →
        (releasesAt s h.scope).Quiet → (releasesAt s h.scope).handleSession h = some v → badToken v h.slot toks = none →
        exec (.cbdone b a me mk) s = .next ((doneItems (releasesAt s h.scope) h v toks).ends fun x => x.updV (popped [b]))))) ∧
  (∀ (s : State) (a : Src) (h : Handle), isSvc s.cur.core = false → s.OpsReady [srcX a] [] → HandleIs s (val s a) h →
    (s.handleSession h = none →
      exec (.cbclose a) s = .next (s.traps s Cause.cbuState (cbuReason 1 (val s a).toNat) 0)) ∧
    (∀ v, s.handleSession h = some v →
      exec (.cbclose a) s = .next (((s.setSession h.cl h.slot (some { v with closed := true })).serveCbu h.cl).ends id))) ∧
  ((∀ (v : Session) (l r : List Item) (i : Item), v.items = l ++ i :: r →
     (i.taken = false ∧ (∀ e ∈ l, ∀ b ∈ e.bodies, b ∉ i.bodies) → i ∈ v.ready)) ∧
   (∀ (v : Session) (i : Item), i ∈ v.ready → i ∈ v.items ∧ i.taken = false) ∧
   (∀ (v : Session) (l r : List Item) (i : Item), v.items.Nodup → v.items = l ++ i :: r → i ∈ v.ready →
     ∀ e ∈ l, ∀ b ∈ e.bodies, b ∉ i.bodies) ∧
   (∀ (v : Session), v.ready.Sublist v.items) ∧
   (∀ (v : Session), v.ready.Pairwise fun a b => ∀ x ∈ a.bodies, x ∉ b.bodies) ∧
   (∀ (i : Item) (slot : Nat), i.tseq < 2 ^ 17 → slot < 8 → i.entry < 2 ^ 11 → i.payload < 2 ^ 32 →
     let w := (i.result slot).toNat
     bitsAt w 0 32 = i.payload ∧ bitsAt w 32 11 = i.entry ∧ bitsAt w 43 3 = slot ∧ bitsAt w 46 17 = i.tseq ∧ bitsAt w 63 1 = 0) ∧
   (∀ b10 b32, (postBodies b10 b32).Nodup ∧ 0xFFFFFFFF ∉ postBodies b10 b32))

/-! ### Ergs -/

/-- R334, R335, R346, R347: COMPOSE makes its caller an erg's home when every member is there, answers 2 where a member does not lend once the arbiter has come to it, 1 where NOWAIT would wait, and else waits in the arbiter's order; its checks trap in their order. DECOMP hands the members back, ERGINFO reads. That MASK is the own core alone in trap context, and that a dead core is no member to be had, is log 27 (the model's reading). -/
def Obligations.Ergs : Prop :=
  ∀ (s : State) (nowait four : Bool) (d : Reg), s.OpsReady [] [.x d.toNat false] →
    let n := if four then 4 else 2
    let q := (s.clAt (clusterOf s.cur.core)).ergQueue
    let lends (core : Nat) : Prop := ∀ k ∈ ergOthers core n, (s.coreAt k).lend = true
    (∀ l, s.me.token = some l → exec (.compose nowait four d) s = .next (s.writes d (l.headD 0))) ∧
    (MayCompose s →
      (q = [] ∨ nowait = true → ¬ lends s.cur.core → exec (.compose nowait four d) s = .next (s.writes d 2)) ∧
      (lends s.cur.core → q = [] → s.membersFree s.cur.core n = true →
        exec (.compose nowait four d) s = .next ((s.formErg s.cur n).writes d 0)) ∧
      (q ≠ [] ∨ s.membersFree s.cur.core n = false →
        (lends s.cur.core → exec (.compose true four d) s = .next (s.writes d 1)) ∧
        ((q = [] → lends s.cur.core) → ∃ t, exec (.compose false four d) s = .next t ∧ t.me.wait = some .compose ∧
          (t.clAt (clusterOf s.cur.core)).ergQueue = q ++ [composeEntry s.cur n]))) ∧
    (∀ (cl : Nat) (c : CtxId) (r : List Nat), CtxId.ofKey c.key = c →
      (¬ lends c.core → s.serveErg cl (composeEntry c n :: r) =
        (s.updCtx c fun x => { x with wait := none, token := some [2] }).serveErg cl r) ∧
      (lends c.core → s.serveErg cl (composeEntry c n :: r) =
        (s.updCl cl fun k => { k with ergQueue := composeEntry c n :: r }).reserveBerths c.core n)) ∧
    (s.me.token = none → isSvc s.cur.core = true →
      exec (.compose nowait four d) s = .next (s.traps s Cause.badTarget 0 0)) ∧
    (s.me.token = none → isSvc s.cur.core = false → s.cur.isHandler = true →
      exec (.compose nowait four d) s = .next (s.traps s Cause.handlerBlock 0 0)) ∧
    (s.me.token = none → isSvc s.cur.core = false → s.cur.isHandler = false →
      (s.me.pl = 0 → (s.coreAt s.cur.core).usrc = false →
        exec (.compose nowait four d) s = .next (s.traps s Cause.priv 0 0)) ∧
      ((s.me.pl = 0 → (s.coreAt s.cur.core).usrc = true) →
        (s.me.ergBit = true → exec (.compose nowait four d) s = .next (s.traps s Cause.ergState 4 0)) ∧
        (s.me.ergBit = false → s.me.vs ≠ none →
          exec (.compose nowait four d) s = .next (s.traps s Cause.ergState 1 0)) ∧
        (s.me.ergBit = false → s.me.vs = none → s.me.lease ≠ .none →
          exec (.compose nowait four d) s = .next (s.traps s Cause.ergState 2 0)) ∧
        (s.me.ergBit = false → s.me.vs = none → s.me.lease = .none → s.ferryOpen s.cur.core s.me.uid = true →
          exec (.compose nowait four d) s = .next (s.traps s Cause.ergState 3 0)))) ∧
    (s.me.composed = true → s.ergWaits s.cur = true → exec (.decomp d) s = .next { s with waited := true }) ∧
    (s.me.composed = true → s.ergWaits s.cur = false →
      exec (.decomp d) s = .next (((s.handBack s.cur).freeLent s.cur.core s.me.ergSize).ends fun x =>
        ({ x with ergBit := false, ergSize := 0, ergHeld := false }).setX d.toNat 0)) ∧
    (s.me.trapBit = true → s.me.ergBit = true →
      exec (.decomp d) s = .next ((if s.me.heldErg then s.freeLent s.cur.core s.me.ergSize else s).ends fun x =>
        ({ x with ergBit := false, ergSize := 0, ergHeld := false, tstatus := wd (setBit x.tstatus.toNat 2 false) }).setX d.toNat 0)) ∧
    (s.me.composed = false → (s.me.trapBit && s.me.ergBit) = false → exec (.decomp d) s = .next (s.writes d 1)) ∧
    exec (.erginfo d) s = .next (s.writes d (wd (ergInfo s.cur s.me))) ∧
    (s.me.composed = false → s.cur.isHandler = false → isSvc s.cur.core = false → s.cur.idx < 8 →
      ergInfo s.cur s.me = s.cur.idx * 2 ^ 10 + s.cur.core % 4 * 2 ^ 8 + 2 ^ (s.cur.core % 4) * 16 + 1)

/-! ### Peers -/

/-- R139, R173, R225, R227, R229, R231, R237, R307, R430: accesses of class 010 that no grant serves. A load on a page of any mode sends a request and goes on, where no cache of its cluster and no byte that its thread has combined concerns it; so do a store to an UNCACHED or SYNC page, STREL after its release, an atomic and a SCRUB; a store to a STREAM page, or to an OWNED one whose write grant the module does not hold, is combined and sends nothing; an LDA waits for its answer; a lock or group instruction waits for the answer and ends with it; the answer is written to the destination. -/
def Obligations.PeerForms : Prop :=
  (∀ (s : State) (z : MSize) (sc : Scope) (d : Reg) (a : Src) (off : BitVec 24) (x : Xl) (o : Nat),
    let n := (loadSize z).1
    let va := addr s a off
    let out := requests s (.x d.toNat) va x.pa (.read (x.pa % 2 ^ 39) n) (8 * n, (loadSize z).2)
    s.OpsReady [srcX a] [.x d.toNat false] → Open s [⟨x, o, n⟩] false → paClass x.pa = 2 →
    (2 ≤ x.mode ∨ (s.granted x.pa = false ∧ s.me.combined x.pa n = false ∧ s.holdsAny x n = false) →
      Access s va n .load (plainCheck (va % n == 0) n) [⟨x, o, n⟩] → exec (.ld z d a off) s = .next (out.ends id)) ∧
    (s.me.token = none → d ≠ 0 → va % n = 0 → Access s va n .load syncCheck [⟨x, o, n⟩] →
      exec (.lda z sc d a off) s = .next (out.updMe fun k => { k with token := some [], wait := some .ack }))) ∧
  (∀ (s : State) (z : SSize) (sc : Scope) (a : Src) (off : BitVec 24) (b : Src) (x : Xl),
    let n := storeSize z
    let va := addr s a off
    let sent (s₁ t : State) : Prop := t.mem = s₁.mem ∧
      t.out.peers = s₁.out.peers ++ [⟨s₁.nextPend, bitsAt x.pa 39 10, s₁.portFor (bitsAt x.pa 39 10) (accessHash (8 * (x.pa / 8))),
        .write (x.pa % 2 ^ 39) ((upTo n).map fun k => BitVec.ofNat 8 ((val s b).toNat / 256 ^ k))⟩]
    s.OpsReady [srcX a, srcX b] [] → va % n = 0 → x.pa % n = 0 → Open s [⟨x, 0, n⟩] true → paClass x.pa = 2 →
    (Access s va n .store (plainCheck true n) [⟨x, 0, n⟩] →
      (2 ≤ x.mode → ∃ t, exec (.st z a off b) s = .next t ∧ sent (s.purgeBytes x n) t) ∧
      (x.mode = 1 ∨ (x.mode = 0 ∧ s.writeGrant (x.pa / 8) = false) →
        let p := storePart x.pa n ((val s b).toNat % 256 ^ n) (x.pa / 8)
        exec (.st z a off b) s = .next ((s.updMe fun c => c.combine (x.pa / 8) p.1 p.2 x.region x.va).ends id))) ∧
    (Access s va n .store syncCheck [⟨x, 0, n⟩] → x.mode = 3 → s.MayRelease sc.code 1023 → (releases s sc).Quiet →
      ∃ t, exec (.strel z sc a off b) s = .next t ∧ sent ((releases s sc).purgeBytes x n) t)) ∧
  (∀ (s : State) (op : AmoOp) (w : Bool) (o : AOrd) (d : Reg) (x : Xl) (b c : Word), paClass x.pa = 2 → ordAcq o = none →
    (amoPerform op w o d x b c).go s = (.ok (), (requests (s.purgeBytes x (amoBytes w)) (amoDst d) x.va x.pa
      (.amo op (x.pa % 2 ^ 39) (amoBytes w) b c) (8 * amoBytes w, amoSigned op)).updMe Ctx.advance)) ∧
  (∀ (s : State) (a : Src) (off : BitVec 24) (b : Src) (x : Xl),
    s.OpsReady [srcX a, srcX b] [] → addr s a off % 8 = 0 → Access s (addr s a off) 8 .store scrubCheck [⟨x, 0, 8⟩] →
    Open s [⟨x, 0, 8⟩] true → paClass x.pa = 2 →
    let s₁ := (s.setPoison (x.pa / 8) false).purgeBytes x 8
    ∃ t, exec (.scrub a off b) s = .next t ∧
      t.out.peers = s₁.out.peers ++ [⟨s₁.nextPend, bitsAt x.pa 39 10, s₁.portFor (bitsAt x.pa 39 10) (accessHash (8 * (x.pa / 8))),
        .scrub (x.pa % 2 ^ 39) (val s b)⟩]) ∧
  (∀ (s : State) (sc : Scope) (d : Reg) (a : Src) (off : BitVec 24) (x : Xl) (v : Nat),
    let va := addr s a off
    let o := x.pa % 2 ^ 39
    s.OpsReady [srcX a] [.x d.toNat false] → paClass x.pa = 2 → s.me.token = none →
    (SyncWord s va 8 x → s.cur.isHandler = false → Answered s x.pa (.qacq o s.identMe false) v →
      exec (.qacq sc d a off) s = .next ((acquires (s.updMe fun k => k.setX d.toNat (wd v)) sc).ends id)) ∧
    (SyncWord s va 16 x → s.cur.isHandler = false → Answered s x.pa (.qacq o s.identMe true) v →
      exec (.vlock sc d a off) s = .next ((acquires (s.updMe fun k => k.setX d.toNat (wd v)) sc).ends id)) ∧
    (SyncWord s va 8 x → Answered s x.pa (.qrel o s.identMe false) v → exec (.qrel sc d a off) s = .next (s.writes d (wd v))) ∧
    (SyncWord s va 16 x → Answered s x.pa (.qrel o s.identMe true) v → exec (.vunlock sc d a off) s = .next (s.writes d (wd v))) ∧
    (SyncWord s va 8 x → Answered s x.pa (.qtry o s.identMe) 1 → exec (.qtry sc d a off) s = .next (s.writes d 1)) ∧
    (SyncWord s va 8 x → Answered s x.pa (.qtry o s.identMe) 0 →
      exec (.qtry sc d a off) s = .next ((acquires (s.updMe fun k => k.setX d.toNat 0) sc).ends id))) ∧
  (∀ (s : State) (sc : Scope) (d : Reg) (a : Src) (imm : BitVec 16) (x : Xl) (v : Nat),
    let o := x.pa % 2 ^ 39
    s.OpsReady [srcX a] [.x d.toNat false] → paClass x.pa = 2 → s.me.token = none → s.cur.isHandler = false →
    SyncWord s (val s a + (imm.signExtend 24).signExtend 64).toNat 16 x →
    (Answered s x.pa (.group 0 o) v → exec (.join d a imm) s = .next (s.writes d (wd v))) ∧
    (Answered s x.pa (.group 1 o) v → exec (.leave sc d a imm) s = .next (s.writes d (wd v))) ∧
    (Answered s x.pa (.group 2 o) v →
      exec (.gbar sc d a imm) s = .next ((acquires (s.updMe fun k => k.setX d.toNat (wd v)) sc).ends id)) ∧
    (s.me.asks = [] → exec (.join d a imm) s = .next
      ((requests (s.updMe fun k => { k with asks := [⟨bitsAt x.pa 39 10, .group 0 o, none⟩] }) (.ask (bitsAt x.pa 39 10) (.group 0 o))
        x.va x.pa (.group 0 o) (64, false)).updMe fun k => { k with wait := some .peer }))) ∧
  (∀ (s : State) (n v p : Nat) (r : Pend) (k : Nat), s.pendAt n = some r → s.inStream n = false → r.origin = .peer p → r.dst = .x k →
    exec (.longLatencyResult n (.answer v)) s = .next (s.whole fun s => s.settle r fun x => x.setX k (extend r.ext.1 r.ext.2 v)))

/-! ### Encodings and reset -/

/-- R183 to R189: words written out from the encoding tables decode to the instructions that they stand for; a head whose T is not its family's, a reserved OP, a reserved operand and a field that is not zero where it must be are refused. -/
def Obligations.DecodedWords : Prop :=
  decodeTableWord 16 0x0000 = some .nop ∧
  decodeTableWord 48 0x000000030006 = some (.br 3) ∧
  decodeTableWord 32 0x01210641 = some (.add 3 ⟨1, true⟩ ⟨2, false⟩) ∧
  decodeTableWord 48 0xFFFFFFE60A4E = some (.addi 5 ⟨6, false⟩ 0x7FFFFFF) ∧
  decodeTableWord 48 0x000008D704C2 = some (.ld .n32 2 ⟨7, true⟩ 8) ∧
  decodeTableWord 64 0xFFFFFFFE12210013 = some (.bccLtn ⟨1, false⟩ ⟨2, true⟩ 0xFFFFFFFE) ∧
  decodeTableWord 64 0x800000000001126B = some (.li 9 0x800000000001) ∧
  decodeTableWord 64 0x000000004C4109C3 = some (.spawn 4 ⟨1, false⟩ ⟨2, false⟩ ⟨3, true⟩) ∧
  decodeTableWord 48 0x03680881890A = some (.vadd (.v 4) ⟨.v 1, false⟩ ⟨.pop 2, true⟩ ⟨true, 3, true⟩) ∧
  decodeTableWord 32 0x05758F3D = some (.vbcast 7 ⟨.bc 5, true⟩ true 2) ∧
  decodeTableWord 48 0x05DCE245018E = some (.mop 2 5 9 11 11 ⟨3, true⟩) ∧
  decodeTableWord 32 0x01210640 = none ∧ decodeTableWord 16 0x0034 = none ∧ decodeTableWord 48 0x0368AA81890A = none ∧
  decodeTableWord 48 0x000000030206 = none

/-- R20, R23, R96 to R98, R100, R353, R356, R359: what reset leaves, where the spec states it: memory in canonical form, time at 0, and each system and device register at the reset value of its table, on every core and in every context. That no cluster is fused off and no core narrow is the model's choice (log 3). -/
def Obligations.ResetState : Prop :=
  State.reset.Inv ∧ State.reset.fc = 0 ∧ State.reset.pend = [] ∧ State.reset.msgs = [] ∧ State.reset.reg = [] ∧
  (∀ c : CtxId, let s := resetAs c
    s.readSys 0x010 = 0x100 ∧ s.readSys 0x020 = 32 ∧ s.readSys 0x021 = 16 + 28 * 2 ^ 8 ∧ s.readSys 0x030 = 32 ∧
    s.readSys 0x031 = 0 ∧ s.readSys 0x032 = 0 ∧ s.readSys 0x033 = 2048 ∧ s.readSys 0x060 = 3 ∧ s.readSys 0x070 = 0 ∧
    s.readSys 0x071 = 0 ∧ s.readSys 0x073 = 0 ∧ s.readSys 0x002 = 0 ∧ s.readSys 0x052 = 0 ∧ s.readSys 0x080 = 2500 ∧
    s.readSys 0x081 = 256 ∧ s.readSys 0x082 = 0 ∧ (∀ k, k < 8 → s.readSys (0x040 + k) = 0)) ∧
  (∀ k, k < 8 → State.reset.readDev (0x40000 + 8 * k) = 4) ∧ (∀ p, p < 1024 → State.reset.readDev (0x30000 + 8 * p) = 0) ∧
  State.reset.readDev 0x32000 = 0 ∧ State.reset.readDev 0x50000 = 0 ∧ State.reset.readDev 0 / 2 ^ 48 = 0xB4A0

/-! ### Events of the module and its cores -/

/-- R21, R23, R30, R52, R78, R92, R93, R179, R182, R306, R359, R367: what reset, a clock change, a fetch, an issue choice, the end of a YIELD hold, a returning result, the end of a bank move, the return of a bank and the end of draining do. That HBM and scratchpads read after a module reset as after power-on is the model's choice (log 1). -/
def Obligations.MachineEvents : Prop :=
  (∀ s : State, ∃ t, exec .moduleReset s = .next t ∧ t.fuse = s.fuse ∧ t.fc = 0 ∧ t.pend = [] ∧ t.msgs = [] ∧ t.insts = [] ∧
    t.poison = [] ∧ t.flaws = [] ∧ t.reg = [] ∧ (∀ c, t.ctxAt c = Ctx.reset) ∧
    (∀ n, t.coreAt n = Core.reset (if s.narrow n then 16 else 32)) ∧ (∀ n, t.clAt n = Cluster.reset) ∧
    (∀ n, t.dispAt n = Disp.reset) ∧ (∀ a, paClass a = 3 → readByte t.mem a = readByte s.mem a) ∧
    (∀ a, paClass a ≠ 3 → readByte t.mem a = 0)) ∧
  (∀ (s : State) (r : Nat), ∃ t, exec (.clockChange r) s = .next t ∧ { t with cl := s.cl, ctx := s.ctx } = s ∧
    (∀ cl, s.clusterPresent cl = true →
      (t.clAt cl).frozen = some ((s.clAt cl).frozen.getD (s.fc + s.fc % 2)) ∧ (t.clAt cl).tiles = (s.clAt cl).tiles ∧
      (t.clAt cl).slots = (s.clAt cl).slots)) ∧
  (∀ (s : State) (c : CtxId), c.idx < 8 → s.live c = true → (s.ctxAt c).line = none → (s.ctxAt c).regErr = none →
    let base := (s.ctxAt c).pc / 64 * 64
    (∀ b h s', (fetchBytes base).go { s with cur := c } = (.ok b, s') → lineOk b = some h → s'.me = s.ctxAt c →
      (s.ctxAt c).pc % 2 = 0 → 1 ≤ (s.ctxAt c).pc % 64 / 2 → (s.ctxAt c).pc % 64 / 2 ≤ h.n → (h.pe && h.pm ≠ 0) = false →
      exec (.instructionFetch c.core c.idx) s =
        .next (s'.updMe fun x => { x with line := some ⟨base, b, h.n, 2 ^ 31 - 1⟩ })) ∧
    (∀ b s', (fetchBytes base).go { s with cur := c } = (.ok b, s') → lineOk b = none → s'.me = s.ctxAt c →
      exec (.instructionFetch c.core c.idx) s =
        .next (if s.trapWaits c Cause.illegalLine then s.trapLater c Cause.illegalLine
          else s'.takeTrap c Cause.illegalLine base 0 (s.ctxAt c).pc)) ∧
    (∀ cause value mask s', (fetchBytes base).go { s with cur := c } = (.error (.trap cause value mask), s') →
      exec (.instructionFetch c.core c.idx) s =
        .next (if s.trapWaits c cause then s.trapLater c cause else s'.takeTrap c cause value mask (s.ctxAt c).pc))) ∧
  (∀ (s : State) (core : Nat), s.corePresent core = true → s.coreDead core = false →
    exec (.issueSelect core) s = .next { (s.select encoded core).2 with chosen := (s.select encoded core).1 } ∧
    (∀ c, (s.select encoded core).1 = some c → c.idx < 10 ∧ (c.core = core ∨ (s.ctxAt c).composed = true)) ∧
    (s.fc < (s.coreAt core).seen → s.select encoded core = (none, s)) ∧
    ((s.coreAt core).seen = s.fc → let s₁ := s.updCore core fun k => { k with seen := s.fc + 1 }
      ((s.coreAt core).hprev = true → (∃ b, b < 8 ∧ s₁.berthReady encoded core b = true ∧ s₁.held (s₁.berthCtx core b) = false) →
        ∃ c, (s.select encoded core).1 = some c ∧ c.isHandler = false) ∧
      ((s.coreAt core).hprev = false → (∃ n, n < 2 ∧ s₁.ready encoded ⟨core, 8 + n⟩ = true) →
        ∃ c, (s.select encoded core).1 = some c ∧ c.isHandler = true))) ∧
  (∀ (s : State) (core idx t : Nat), (s.ctxAt ⟨core, idx⟩).hold = some t →
    (t ≤ s.fc → exec (.yieldHoldEnd core idx) s = .next (s.updCtx ⟨core, idx⟩ fun x => { x with hold := none })) ∧
    (s.fc < t → Idle (.yieldHoldEnd core idx) s)) ∧
  (∀ (s : State) (n : Nat) (r : ResultIn) (p : Pend), s.pendAt n = some p → s.inStream n = false →
    exec (.longLatencyResult n r) s = .next (s.whole fun s => s.resultIn p r) ∧
    (p.origin.isRecall = false → s.resultIn p r = s.deliver p r) ∧
    (∀ k c, p.dst = .x k → 0 < k → p.origin.isPeer = false → p.origin.isBase = false → p.origin.isRecall = false →
      s.resultHeld p = false →
      s.ctxOf p.uid = some c → (s.ctxAt c).uid = p.uid → (s.ctxAt c).occ ≠ .free →
      (p.fail = none → ((s.deliver p .arrives).ctxAt c).getX k = p.xs.headD 0 ∧ ((s.deliver p .arrives).ctxAt c).stX k = .full) ∧
      (∀ cause a mask, p.fail = some (cause, a, mask) →
        ((s.deliver p .arrives).ctxAt c).stX k = .failed cause a mask))) ∧
  (∀ (s : State) (core idx d v : Nat), (s.ctxAt ⟨core, idx⟩).moving = some (d, v) →
    exec (.bankMoveComplete core idx) s =
      .next (s.updCtx ⟨core, idx⟩ fun x => { x.setX d (wd v) with moving := none })) ∧
  (∀ (s : State) (core : Nat), s.corePresent core = true → isSvc core = false →
    let k := s.coreAt core
    (k.vrfb < k.banks ∧ s.grantedRows core + 64 ≤ 64 * k.banks →
      exec (.bankReturn core) s = .next (s.updCore core fun k => { k with banks := k.banks - 1 })) ∧
    (¬ (k.vrfb < k.banks ∧ s.grantedRows core + 64 ≤ 64 * k.banks) → Idle (.bankReturn core) s)) ∧
  (∀ (s : State) (core idx : Nat), let c : CtxId := ⟨core, idx⟩
    idx < 8 → (s.ctxAt c).occ = .draining →
    ((s.ctxAt c).saving = false → s.awaits c = false → (s.ctxAt c).stream = [] → exec (.drainComplete core idx) s =
      .next (((s.logReports core ((s.ctxAt c).reports ++ (s.ctxAt c).msyncReports)).updCtx c Ctx.vacate).threadGone (s.ctxAt c).inst)) ∧
    ((s.ctxAt c).saving = true → s.saveReady c = true → exec (.drainComplete core idx) s = .next (s.whole fun s => s.saveNow c)) ∧
    ((s.ctxAt c).saving = false → (s.awaits c = true ∨ (s.ctxAt c).stream ≠ []) → Idle (.drainComplete core idx) s))

/-- R36 to R48, R410: a message in flight arrives at its core, or a held one enters, and meets it: put into the mailbox where there is room, held or refused where there is none, refused or discarded where the channel is disabled. A reply that its peer returns is logged at its sender. A handler starts in a free slot with the registers of R46; notices free the sender's entry; an ended handler's slot frees when its results have returned. -/
def Obligations.MessageEvents : Prop :=
  (∀ (s : State) (n : Nat) (m : Msg), s.flight n = some m →
    (m.rep = false → exec (.reqMessageArrival (.inflight n)) s = .next (s.whole fun s => (s.dropFlight n).arrive m false)) ∧
    (m.rep = true → m.refused = false →
      exec (.repMessageArrival (.inflight n)) s = .next (s.whole fun s => (s.dropFlight n).arrive m false)) ∧
    (m.rep = true → m.refused = true → exec (.refused (.inflight n)) s = .next (s.whole fun s =>
      ((s.dropFlight n).updCore m.dstCore fun k => { k with reqOut := k.reqOut - 1 }).arrive { m with chan := 63 } false))) ∧
  (∀ (s : State) (m : Msg),
    (m.rep = false → exec (.reqMessageArrival (.peer m)) s = .next (s.whole fun s => s.arrive { m with dstPkg := s.pkgid } false)) ∧
    (m.rep = true → m.refused = false → (m.srcPkg = s.pkgid ∧ m.dstPkg ≠ s.pkgid →
        exec (.repMessageArrival (.peer m)) s = .next ((s.repAccepted m).logFault m.srcCore (kind2 m))) ∧
      (¬ (m.srcPkg = s.pkgid ∧ m.dstPkg ≠ s.pkgid) →
        exec (.repMessageArrival (.peer m)) s = .next (s.whole fun s => s.arrive { m with dstPkg := s.pkgid } false)))) ∧
  (∀ (s s' : State) (m : Msg), Welcome s s' m →
    ((s'.coreAt m.dstCore).boxFull m.rep = false →
      s.arrive m false =
        (if m.rep then (s'.updCore m.dstCore fun c => { c with box := c.box ++ [m] }).repAccepted m
         else s'.updCore m.dstCore fun c => { c with box := c.box ++ [m] })) ∧
    ((s'.coreAt m.dstCore).boxFull m.rep = true → (m.rep = true ∨ (s'.coreAt m.dstCore).mboxpol = false) →
      s.arrive m false = s'.updCore m.dstCore fun c => { c with held := c.held ++ [m] }) ∧
    ((s'.coreAt m.dstCore).boxFull m.rep = true → m.rep = false → (s'.coreAt m.dstCore).mboxpol = true →
      s.arrive m false = s'.refuse m)) ∧
  (∀ (s s' : State) (m : Msg), s.corePresent m.dstCore = true → s.coreDead m.dstCore = false →
    s.chanEnabled m.dstCore m.chan = (false, s') →
    s.arrive m false = (if m.rep then (s'.repAccepted m).discardRep m else s'.refuse m)) ∧
  (∀ (s : State) (core : Nat) (rep : Bool) (n : Nat) (m : Msg),
    let l := (s.coreAt core).held.filter fun m => m.rep == rep
    l[n]? = some m → (s.coreAt core).boxFull rep = false → ((l.take n).any fun h => sameSender h m) = false →
    exec (.heldMessageEnter core rep n) s = .next (s.whole fun t =>
      (t.updCore core fun k => { k with held := k.held.eraseIdx ((s.coreAt core).held.findIdx fun h => h == m) }).arrive m true)) ∧
  (∀ (s : State) (core : Nat), s.corePresent core = true → s.coreDead core = false →
    exec (.handlerStart core) s = .next (s.whole fun s => s.handlerSelect core) ∧
    (s.freeSlot core = none → Idle (.handlerStart core) s)) ∧
  (∀ (uid tid pl entry : Nat) (m : Msg), let x := handlerCtx uid tid pl entry m
    x.pc = entry * 64 + 2 ∧ x.pl = pl ∧ x.seed = 1 ∧ x.vs = none ∧ x.fcsr = 0x100 ∧
    x.getX 1 = m.payload.getD 0 0 ∧ x.getX 2 = (if m.refused then m.info else m.payload.getD 1 0) ∧
    x.getX 3 = m.payload.getD 2 0 ∧ x.getX 4 = m.payload.getD 3 0 ∧
    x.getX 5 = wd (m.srcPkg * 2 ^ 32 + m.chan * 2 ^ 16 + m.srcKind * 2 ^ 14 + m.srcTid) ∧ x.getX 6 = (if m.rep then 1 else 0) ∧
    (∀ r, r = 0 ∨ 6 < r → x.getX r = 0)) ∧
  (∀ (s : State) (n core : Nat), s.notices[n]? = some core → exec (.handlerStartNotice n) s =
    .next (({ s with notices := s.notices.eraseIdx n } : State).updCore core fun k => { k with reqOut := k.reqOut - 1 })) ∧
  (∀ (s : State) (core slot : Nat), slot < 2 → (s.ctxAt ⟨core, 8 + slot⟩).occ = .draining →
    (s.awaits ⟨core, 8 + slot⟩ = false →
      exec (.handlerSlotFree core slot) s = .next (s.updCtx ⟨core, 8 + slot⟩ fun _ => Ctx.reset)) ∧
    (s.awaits ⟨core, 8 + slot⟩ = true → Idle (.handlerSlotFree core slot) s))

/-! ### Events of tasks -/

/-- R62, R64, R67 to R73: a match pushes its instance; a pending instance whose word has reached its threshold becomes ready; the dispatcher starts a thread of the instance that comes first where a berth is free; a waiting instance rises; a victim is saved and a saved thread resumes; an instance with no thread and no command left adds 1 to its completion word. -/
def Obligations.TaskEvents : Prop :=
  (∀ (s : State) (n : Nat) (h : Hit), s.hits[n]? = some h →
    (((s.hits.take n).any fun e => e.cl == h.cl) = false →
      exec (.watchpointMatch n) s = .next (s.whole fun s => ({ s with hits := s.hits.eraseIdx n } : State).watchPush h.cl h.watch)) ∧
    (((s.hits.take n).any fun e => e.cl == h.cl) = true → Idle (.watchpointMatch n) s)) ∧
  (∀ (s : State) (i : Nat) (v : Inst), s.instAt i = some v → v.st = .pending → s.heldBack (1024 + v.owner) v.depPa 8 = false →
    let r := s.homeWord (v.depPa / 8)
    (r.2 = true → exec (.dependenceSatisfied i) s = .next (s.dropDepend i v)) ∧
    (r.2 = false → v.depThr ≤ r.1.toNat → exec (.dependenceSatisfied i) s = .next ((s.satisfy i v).enterQueue v.owner)) ∧
    (r.2 = false → r.1.toNat < v.depThr → Idle (.dependenceSatisfied i) s)) ∧
  (∀ (s : State) (k : Nat), k < 16 → s.dispDead k = false →
    exec (.pendingEnterQueue k) s = .next (s.enterQueue k) ∧
    ((s.dispAt k).satisfied = [] → s.enterQueue k = s)) ∧
  (∀ (s : State) (k i : Nat) (v : Inst) (c : CtxId), s.dispatchNext k = some (i, v, c) →
    exec (.taskDispatch k) s =
      .next (s.whole fun s =>
        (((s.cross (k / 4) (dieOf c.core)).startThread c (v.start i)).updInst i fun v => { v with started := v.started + 1 }).leaveQueue i) ∧
    s.instAt i = some v ∧ (s.ctxAt c).occ = .free ∧ (s.placeOrder v).contains (c.core / 4) = true) ∧
  (∀ (s : State) (k i : Nat) (v : Inst), s.instAt i = some v → v.owner = k → s.dispDead k = false →
    (s.ages v = true → exec (.taskAging k i) s = .next (((s.setInst i { v with prio := v.prio + 1, since := s.fc }).updDisp k fun d =>
      (d.dequeue i).enqueue (v.prio + 1) i).enterQueue k)) ∧
    (s.ages v = false → Idle (.taskAging k i) s) ∧
    (s.ages v = true → v.st = .queued ∧ v.prio < 3 ∧ v.since + 64 * (s.dispAt k).tdage < s.fc)) ∧
  (∀ (s : State) (k : Nat), s.dispDead k = false →
    (∀ c, s.dispVictim k = some c → exec (.preempt k) s = .next (s.preemptAt c)) ∧
    (s.dispVictim k = none → Idle (.preempt k) s)) ∧
  (∀ (s : State) (core : Nat), s.coreDead core = false →
    exec (.resume core) s = .next (s.whole fun s => s.resume core) ∧ ((s.coreAt core).saved = [] → Idle (.resume core) s)) ∧
  (∀ (s : State) (i : Nat) (v : Inst), s.instAt i = some v →
    (s.instOver v = true →
      let t := (s.releaseAllHomes.foldl (fun (s : State) a => s.reach a.1 a.2.1 a.2.2) s).releaseAll
      (t.lacks ≠ s.lacks → exec (.taskCompletion i) s = .next (s.askRecalls t.lacks)) ∧
      (t.lacks = s.lacks → t.releasing = false → t.complBlocked v = false →
        exec (.taskCompletion i) s = .next (t.whole fun s => s.complete i v)) ∧
      (t.lacks = s.lacks → (t.releasing || t.complBlocked v) = true → exec (.taskCompletion i) s = .next t)) ∧
    (s.instOver v = false → Idle (.taskCompletion i) s) ∧
    (s.instOver v = true → v.threads = 0 ∧ v.ferries = 0)) ∧
  (∀ (s : State) (i : Nat) (v : Inst) (x : Xl) (s' : State), v.lost = 0 → v.compl ≠ 0 →
    s.complXl (pushSpace v.ptbase v.asid v.psup v.owner) v.compl = (some x, s') → paClass x.pa = 0 →
    s'.heldBack (1024 + v.owner) x.pa 8 = false →
    let r := s'.homePut x.pa 8 ((s'.homeBytes x.pa 8 + 1) % 2 ^ 64)
    r.1 = none → s.complete i v = { r.2 with insts := KMap.del r.2.insts i })

/-! ### Events of the host, of translation and of the caches -/

/-- R143 to R145, R159, R161, R175, R349, R350, R356, R358, R360, R390, R396: host requests are performed at home, each aligned word in turn, and get no answer from a link that is down; a module that is not booted answers every access but a BAR0 read or a configuration read with an error; BAR0 writes are discarded, HIRQ raises a vector or marks a masked one pending; a shootdown drops the entries it names and ends when nothing uses them; a thread at a write-blocked page walks again after 1,024 fc and traps after 1,048,576; evictions write words home. That a running shootdown keeps the VA and CTL of its GO is the model's choice (log 43). -/
def Obligations.HostAndCacheEvents : Prop :=
  (∀ (s : State) (a : HostAt) (off n : Nat) (data : List Byte) (p : Bool) (v : Word), s.cxlDown = true →
    Idle (.hostMemWrite ⟨a, off⟩ data p) s ∧ Idle (.hostMemRead ⟨a, off⟩ n) s ∧ Idle (.hostBar0Write off v) s) ∧
  (∀ (s : State) (a : HostAt) (off n : Nat) (data : List Byte) (p : Bool) (v : Word), s.cxlDown = false → s.booted = false →
    (a = .bar0 ∨ a = .hdm ∨ a = .msix → exec (.hostMemWrite ⟨a, off⟩ data p) s = .next (s.hostAnswer a off none)) ∧
    (a = .hdm ∨ a = .msix → exec (.hostMemRead ⟨a, off⟩ n) s = .next (s.hostAnswer a off none)) ∧
    exec (.hostBar0Write off v) s = .next (s.hostAnswer .bar0 off none)) ∧
  (∀ (s : State) (off n : Nat) (f : CxlFeature), s.cxlDown = false →
    exec (.hostMemRead ⟨.bar0, off⟩ n) s = .next (s.hostAnswer .bar0 off (some (s.bar0Bytes off n, false))) ∧
    exec (.hostMemRead ⟨.config f, off⟩ n) s =
      .next (s.hostAnswer (.config f) off (some ([if cxlPresent f then 1 else 0], false)))) ∧
  (∀ (s : State) (off : Nat) (v : Word), s.booted = true → Idle (.hostBar0Write off v) s) ∧
  (∀ (s : State) (off : Nat) (data : List Byte) (p : Bool), s.booted = true → s.cxlDown = false →
    exec (.hostMemWrite ⟨.hdm, off⟩ data p) s = .next (s.whole fun s => s.hostWrite off data p) ∧
    (s.hostHeld (s.hostPieces off data.length) = true → Idle (.hostMemWrite ⟨.hdm, off⟩ data p) s) ∧
    (s.hostHeld (s.hostPieces off data.length) = false →
      let q := hostPuts s (bytesVal data) p (s.hostPieces off data.length)
      (q.1 = [] → s.hostWrite off data p = q.2) ∧
      (∀ o svc r, q.1 = (o, svc) :: r → s.hostWrite off data p =
        (q.2.updCore (1024 + svc) fun k => { k with hostdisc := (k.hostdisc + 1) % 2 ^ 32 }).logFault (1024 + svc)
          ⟨11, 0, 0, none, 0, Config.hdmBase + (off + o), 0⟩))) ∧
  (∀ (s : State) (off pa : Nat) (data : List Byte), HostReaches s off 8 → s.hostPa off = some pa → off % 8 = 0 → data.length = 8 →
    ((s.homePut pa 8 (bytesVal data)).1 = none →
      exec (.hostMemWrite ⟨.hdm, off⟩ data false) s = .next (s.homePut pa 8 (bytesVal data)).2) ∧
    (s.poisoned (pa / 8) = false → s.holder (pa / 8) = none →
      exec (.hostMemWrite ⟨.hdm, off⟩ data true) s = .next (s.setPoison (pa / 8) true))) ∧
  (∀ (s : State) (off n : Nat), HostReaches s off n → let l := s.hostPieces off n
    let bytes := l.flatMap fun p => (upTo p.2.2).map fun k => s.homeBytes (p.2.1 + k) 1
    ((∀ p ∈ l, s.poisonIn p.2.1 p.2.2 = none) →
      exec (.hostMemRead ⟨.hdm, off⟩ n) s = .next (s.hostAnswer .hdm off (some (bytes, false)))) ∧
    ((∃ p ∈ l, s.poisonIn p.2.1 p.2.2 ≠ none) → ∃ t, exec (.hostMemRead ⟨.hdm, off⟩ n) s = .next t ∧
      t.out.hostData = s.out.hostData ++ [(.hdm, off, some (bytes, true))])) ∧
  (∀ (s : State) (off n : Nat), s.booted = true → s.hostPieces off n = [] → Idle (.hostMemRead ⟨.hdm, off⟩ n) s) ∧
  (∀ (s : State) (v : Word), let k := v.toNat % 16
    (bitAt s.msixMask k = false →
      exec (.hirq v) s = .next { s with out := { s.out with msix := s.out.msix ++ [(s.fc, k)] } }) ∧
    (bitAt s.msixMask k = true → exec (.hirq v) s = .next { s with msixPend := setBit s.msixPend k true })) ∧
  (∀ s : State, exec .spdmMeasurement s = .next { s with out := { s.out with
      reports := s.out.reports ++ [(s.measurements, Config.signReport s.measurements)] } }) ∧
  (∀ (s : State) (port : Nat) (v : Word), port < 16 → (s.sdPort port).busy = false → bitsAt v.toNat 2 2 ≠ 3 →
    ∃ t p, exec (.shootdownGo port v) s = .next t ∧ t.sdPort port = p ∧ p.busy = true ∧ p.va = (s.sdPort port).va ∧
      p.runVa = p.va ∧ p.runCtl = p.ctl ∧
      bitsAt p.ctl 48 16 = bitsAt v.toNat 48 16 ∧ bitsAt p.ctl 2 4 = bitsAt v.toNat 2 4 ∧
      (∀ n, ∀ e, e ∈ (t.coreAt n).dtlb ↔ e ∈ (s.coreAt n).dtlb ∧ p.matches e = false) ∧
      (∀ n, ∀ e, e ∈ (t.clAt n).tlb ↔ e ∈ (s.clAt n).tlb ∧ p.matches e = false)) ∧
  (∀ (s : State) (port : Nat), port < 16 → (s.sdPort port).busy = true → let p := s.sdPort port
    let s₁ := s.sdDrain p
    (s₁.sdHeld p = false → exec (.shootdownComplete port) s =
      .next (s₁.forgetReads.setSd port { p with busy := false, done := (p.done + 1) % 2 ^ 32 })) ∧
    (s₁.sdHeld p = true → exec (.shootdownComplete port) s = .next s₁) ∧
    (∀ v : Word, exec (.shootdownGo port v) s =
      .next (s.setSd port { p with ctl := bitsAt v.toNat 48 16 * 2 ^ 48 + bitsAt v.toNat 2 4 * 4, lost := true }))) ∧
  (∀ (s : State) (core idx since last va : Nat), (s.ctxAt ⟨core, idx⟩).wait = some (.writeBlock since last va) →
    (last + 1024 ≤ s.fc → exec (.wbRewalk core idx) s =
      .next (s.updCtx ⟨core, idx⟩ fun x => { x with wait := none, token := some [wd since] })) ∧
    (s.fc < last + 1024 → Idle (.wbRewalk core idx) s) ∧
    (since + 1048576 ≤ s.fc → exec (.wbwaitExpiry core idx) s =
      .next (if s.trapWaits ⟨core, idx⟩ Cause.writeBlocked then s.trapLater ⟨core, idx⟩ Cause.writeBlocked
        else s.takeTrap ⟨core, idx⟩ Cause.writeBlocked va 0 (s.ctxAt ⟨core, idx⟩).pc)) ∧
    (s.fc < since + 1048576 → Idle (.wbwaitExpiry core idx) s)) ∧
  (∀ (s : State) (core line : Nat), s.heldBack core (64 * line) 64 = false →
    exec (.l1Eviction core line) s = .next (s.whole fun s => s.evictL1 core line)) ∧
  (∀ (s : State) (cl line : Nat), s.heldBack ((clusterCores cl).headD 0) (64 * line) 64 = false →
    exec (.nearPartitionEviction cl line) s = .next (s.whole fun s => s.evictNear cl line)) ∧
  (∀ (s : State) (line : Nat), s.heldBack (4 * s.homeSlice (64 * line)) (64 * line) 64 = false →
    exec (.homePartitionEviction line) s = .next (s.whole fun s => s.evictHome line)) ∧
  (∀ (s : State) (core line k : Nat) (e : L1W), let w := 8 * line + k
    k < 8 → s.l1 core w = some e → e.dirty = true ∨ e.reg = true → paClass (8 * w) = 0 → e.poison = false → s.poisoned w = false →
    (∀ n, s.near (clusterOf core) w = some n → n.poison = false) →
    (s.evictL1 core line).l1 core w = none ∧ (s.evictL1 core line).holder w = none ∧
    ((s.evictL1 core line).homeWord w).1 = e.data) ∧
  (∀ (s : State) (core line : Nat), (∀ k e, k < 8 → s.l1 core (8 * line + k) = some e → e.dirty = false ∧ e.reg = false) →
    ∀ k, k < 8 → (s.evictL1 core line).l1 core (8 * line + k) = none) ∧
  (∀ (s : State) (core w : Nat), (s.holder w).isSome = true → s.corePresent core = true → s.coreDead core = false →
    s.heldBack core (8 * w) 8 = false →
    exec (.forwardedRead core w) s = .next (s.whole fun s => (s.readNear (clusterOf core) w ⟨s.holderRegion w, 0, none⟩).2)) ∧
  (∀ (s : State) (cl pa : Nat) (data : List Byte), paClass pa = 3 → s.cxlDown = false → s.clusterPresent cl = true →
    let t := (s.homePut pa data.length (bytesVal data)).2
    (s.booted = true → exec (.cxlCacheSnoop cl pa data) s = .next { t with out := { t.out with snoops := t.out.snoops ++
      [(cl, pa, some ((wordsOf (pa / 64 * 64) 64).any fun w => (s.near cl w).isSome))] } }) ∧
    (s.booted = false → exec (.cxlCacheSnoop cl pa data) s =
      .next { s with out := { s.out with snoops := s.out.snoops ++ [(cl, pa, none)] } })) ∧
  (∀ (s : State) (k v : Nat), KMap.find none s.mbiNext k = some v → ∃ t, exec (.mbiLaneTurn k) s = .next t ∧
    KMap.find 4 t.mbicfg k = v ∧ KMap.find none t.mbiNext k = none) ∧
  (∀ (s : State) (n : Nat) (bad : Bool) (b : BaseOp), s.baseq[n]? = some b →
    (((s.baseq.take n).any fun a => a.pa / 64 == b.pa / 64) = false → ((s.pendAt b.pend).all fun p => p.origin.isBase) = true →
      exec (.baseDieAtomicResult n bad) s = .next (s.baseResult n bad)) ∧
    (((s.baseq.take n).any fun a => a.pa / 64 == b.pa / 64) = true → Idle (.baseDieAtomicResult n bad) s))

/-! ### Events of peers, links and agents -/

/-- R173, R174, R351, R355, R398 to R401, R417, R418, R430: grants are given, renewed, recalled and end; a peer's request is answered, one of an earlier incarnation dropped; a link retry that succeeds changes nothing, another leaves an uncorrectable word, message, CBU item or register; links fail and are reaccepted; agents are suspected, declared dead and readmitted. What a retry that fails leaves, and that a second declaration changes nothing, is the model's reading (log 37, log 9); so is a step that happens whole or waits (log 36). -/
def Obligations.PeerAndLinkEvents : Prop :=
  (∀ (s : State) (page pkg : Nat) (write : Bool) (len : Nat), foreignPage page = true → bitsAt (page * 65536) 39 10 = pkg →
    pkg ≠ s.pkgid → s.reached pkg = true → KMap.find none s.grants page = none →
    (s.grantHeld pkg page = false → exec (.pageGrantRequest page pkg ⟨write, len⟩) s = .next { s with
      out := { s.out with grants := s.out.grants ++ [(s.portFor pkg (page % 1024), .request page write)] },
      grants := KMap.put none s.grants page (some ⟨pkg, write, s.fc + max 1 (min 1000 len) * Config.leaseUnit⟩) }) ∧
    (s.grantHeld pkg page = true → s.lacks = [] → Idle (.pageGrantRequest page pkg ⟨write, len⟩) s)) ∧
  (∀ (s : State) (page pkg len : Nat), foreignPage page = false → pkg ≠ s.pkgid → (s.agent (.pkg pkg)).dead = false →
    s.exists (page * 65536) = true → let r := s.lease page
    let gives (write : Bool) (len : Nat) (l : LeaseRec) (t : State) : Prop :=
      t.lease page = l ∧ t.out.grants = s.out.grants ++ [(s.portFor pkg (page % 1024), .grant page pkg write len)]
    (∀ w, r.asks = [] → r.recalled.isSome = true ∨ s.grantHeld pkg page = true →
      exec (.pageGrantRequest page pkg ⟨w, len⟩) s = .next (s.setLease page { r with asks := [⟨pkg, w⟩] })) ∧
    (r.asks = [] → r.writer = none → r.recalled = none → s.grantHeld pkg page = false →
    ((∀ e ∈ r.readers, e.1 = pkg → e.2 ≤ s.fc) → ∃ t, exec (.pageGrantRequest page pkg ⟨false, len⟩) s = .next t ∧
      gives false r.len { r with readers := KMap.ins r.readers pkg (s.fc + r.len * Config.leaseUnit) } t) ∧
    ((∃ e ∈ r.readers, e.1 = pkg ∧ s.fc < e.2) → let n := min 1000 (2 * r.len)
      ∃ t, exec (.pageGrantRequest page pkg ⟨false, len⟩) s = .next t ∧
        gives false n { r with len := n, readers := KMap.ins r.readers pkg (s.fc + n * Config.leaseUnit) } t) ∧
    (s.leasesLeft page pkg = false → ∃ t, exec (.pageGrantRequest page pkg ⟨true, len⟩) s = .next t ∧
      gives true 1 { r with len := 1, readers := [], writer := some pkg } t) ∧
    (s.leasesLeft page pkg = true → exec (.pageGrantRequest page pkg ⟨true, len⟩) s =
      .next (s.setLease page { r with asks := [⟨pkg, true⟩] })))) ∧
  (∀ (s : State) (page : Nat) (g : PageGrant), KMap.find none s.grants page = some g →
    (g.write = false → g.ends ≤ s.fc → (s.dropGrant page).lacks = s.lacks → let t := s.dropGrant page
      exec (.readLeaseExpiry page) s = .next t ∧ KMap.find none t.grants page = none ∧ (∀ core w, w / 8192 = page → t.l1 core w = none) ∧
      (∀ cl w, w / 8192 = page → t.near cl w = none)) ∧
    (g.write = true ∨ s.fc < g.ends → Idle (.readLeaseExpiry page) s)) ∧
  (∀ (s : State) (page pkg inc : Nat) (g : PageGrant), foreignPage page = true →
    KMap.find none s.grants page = some g → let t := (s.dropGrant page).sendGrant g.pkg page (.back page)
    let n := s.whole fun s => s.returnGrant page
    exec (.grantHandOver ⟨page, pkg, inc⟩) s = .next n ∧ exec (.grantRecall page) s = .next n ∧
    (t.lacks = s.lacks → n = t) ∧ KMap.find none t.grants page = none) ∧
  (∀ (s : State) (page pkg inc : Nat), foreignPage page = false →
    (inc % 256 = (s.agent (.pkg pkg)).inc → let r := s.lease page
      let s₁ := s.setLease page { r with readers := r.readers.filter fun e => e.1 != pkg }
      (r.writer = some pkg → exec (.grantHandOver ⟨page, pkg, inc⟩) s = .next ((s₁.endLoan page).servePage page) ∧
        ((s₁.endLoan page).lease page).writer = none) ∧
      (r.writer ≠ some pkg → exec (.grantHandOver ⟨page, pkg, inc⟩) s = .next (s₁.servePage page))) ∧
    (inc % 256 ≠ (s.agent (.pkg pkg)).inc → ∃ k, exec (.grantHandOver ⟨page, pkg, inc⟩) s = .next (s.dropStale (.pkg pkg) k inc)) ∧
    exec (.grantRecall page) s = .next (s.askRecall page) ∧
    (∀ p, (s.lease page).writer = some p → (s.lease page).recalled = none → s.grantHeld p page = false →
      ((s.askRecall page).lease page).recalled = some s.fc ∧
      (s.askRecall page).out.grants = s.out.grants ++ [(s.portFor p (page % 1024), .recallOf page p)])) ∧
  (∀ (s : State) (page pkg : Nat), let r := s.lease page
    ((∃ e ∈ r.readers, e.1 = pkg ∧ e.2 ≤ s.fc) → exec (.leaseRecordExpiry page pkg) s =
      .next ((s.setLease page { r with readers := r.readers.filter fun e => e.1 != pkg }).servePage page)) ∧
    ((∀ e ∈ r.readers, e.1 = pkg → s.fc < e.2) → exec (.leaseRecordExpiry page pkg) s = .next (s.servePage page)) ∧
    (r.asks = [] → s.servePage page = s)) ∧
  (∀ (s : State) (pkg inc : Nat) (op : PeerOp), Heard s pkg inc →
    let s₁ : State := { s with nextPeer := s.nextPeer + 1 }
    (s.exists op.offset = false → exec (.peerModuleAccess ⟨pkg, inc⟩ op) s = .next (s₁.reply s.nextPeer (.bad Cause.regEmpty))) ∧
    (PeerReaches s op.offset pkg →
    (∀ a n, op = .read a n → s.exists op.offset = true → s.poisonIn op.offset n = none →
      exec (.peerModuleAccess ⟨pkg, inc⟩ op) s = .next (s₁.reply s.nextPeer (.value (s.homeBytes op.offset n)))) ∧
    (∀ a data, op = .write a data → s.exists op.offset = true →
      let r := (s₁.peerStored op.offset).homePut op.offset data.length (bytesVal data)
      exec (.peerModuleAccess ⟨pkg, inc⟩ op) s = .next (r.2.reply s.nextPeer (wroteReply r.1))) ∧
    (∀ a ident ver, op = .qacq a ident ver → s.exists op.offset = true → s.poisonIn op.offset (if ver then 16 else 8) = none →
      bitsAt (s.homeBytes op.offset 8) 50 13 ≠ 0 →
      exec (.peerModuleAccess ⟨pkg, inc⟩ op) s = .next (s₁.reply s.nextPeer (.bad Cause.protection))))) ∧
  (∀ (s : State) (f : State → State) (page p : Nat), s.lacks = [] →
    ((f s).lacks = [] → s.whole f = f s) ∧ ((f s).lacks = [none] → s.whole f = s) ∧
    ((f s).lacks = [some page] → (s.lease page).writer = some p → (s.lease page).recalled = none → s.grantHeld p page = false →
      ((s.whole f).lease page).recalled = some s.fc ∧
      { s.whole f with leases := s.leases, out := { (s.whole f).out with grants := s.out.grants } } = s)) ∧
  (∀ (s : State) (pkg inc a : Nat) (data : List Byte), pkg ≠ s.pkgid → inc % 256 ≠ (s.agent (.pkg pkg)).inc →
    ∃ k, exec (.peerModuleAccess ⟨pkg, inc⟩ (.write a data)) s = .next (s.dropStale (.pkg pkg) k inc)) ∧
  (∀ (s : State) (k c i w : Nat), Idle (.linkRetry ⟨k, .corrected⟩) s ∧ Idle (.ergMispredictSquash c i) s ∧
    exec (.linkRetry ⟨k, .word w⟩) s = .next { s with flaws := KMap.put false s.flaws w true } ∧
    exec (.linkRetry ⟨k, .message i⟩) s = .next { s with msgs := s.msgs.modify i fun m => { m with bad := true } } ∧
    (∃ t, exec (.linkRetry ⟨k, .item c i w⟩) s = .next t ∧ { t with cl := s.cl } = s ∧
      ∀ v, s.session c i = some v → (∀ e, e ∈ (s.clAt c).sessions → e.1 = i → e.2 = some v) →
        t.session c i = some { v with items := v.items.modify w fun m => { m with bad := true } }) ∧
    (∀ code, (s.ctxAt ⟨c, i⟩).occ ≠ .free →
      exec (.linkRetry ⟨k, .reg c i code⟩) s = .next (s.updCtx ⟨c, i⟩ fun x => { x with regErr := some code }))) ∧
  (∀ (s : State) (die nb : Nat), die < 4 → nb < 4 → (nb = Nat.xor die 1 ∨ nb = Nat.xor die 2) →
    (min die nb, max die nb) ∉ s.edgeFail →
    exec (.ucieEdgeFail die nb) s =
      .next (({ s with edgeFail := s.edgeFail ++ [(min die nb, max die nb)] } : State).logLink 1 (4 * die + nb))) ∧
  (∀ (s : State) (p : Nat), p < 16 → exec (.ualinkPortFail p) s =
    .next ((({ s with portfail := setBit s.portfail p true } : State).logLink 2 p).suspectUnreached)) ∧
  (∀ s : State, exec .cxlLinkDown s = .next (({ s with cxlDown := true } : State).logLink 3 0)) ∧
  (∀ (s : State) (v : Word), ∃ t, exec (.portfail v) s = .next t ∧ { t with portfail := s.portfail } = s ∧
    ∀ j, j < 16 → bitAt t.portfail j = (bitAt s.portfail j && !bitAt v.toNat j)) ∧
  (∀ (s : State) (a : Agent) (svc pa : Nat), (s.agentValid a = false ∨ pa ∉ s.overdue a ∨ svc ≠ svcOfCluster (s.homeSlice pa)) → Idle (.agentSuspect a svc pa) s) ∧
  (∀ (s : State) (a : Agent) (svc pa : Nat), s.agentValid a = true → pa ∈ s.overdue a → svc = svcOfCluster (s.homeSlice pa) →
    exec (.agentSuspect a svc pa) s = .next ((s.updAgent a fun g => { g with susp := true }).logFault (1024 + svc) ⟨8, agentCause a, 0, none, 0, agentNum a, pa⟩)) ∧
  (∀ (s : State) (a : Agent), s.agentValid a = true →
    ((s.agent a).dead = true → Idle (.agentDeclareDead a) s) ∧
    (∀ n, a = .core n → (s.agent a).dead = false → exec (.agentDeclareDead a) s =
      .next (((s.markDead a).loseCore n).repairLocks fun id => (s.coreIdents n).contains id)) ∧
    (∀ d, a = .die d → (s.agent a).dead = false → let t := s.declareDie d
      exec (.agentDeclareDead a) s = .next t ∧ (t.agent a).dead = true ∧ bitAt t.poisonDie d = true) ∧
    (∀ p, a = .pkg p → (s.agent a).dead = false → let t := s.declarePkg p
      exec (.agentDeclareDead a) s = .next t ∧ (t.agent a).dead = true ∧
      ∀ page g, KMap.find none t.grants page = some g → g.pkg ≠ p) ∧
    ((s.markDead a).agent a = { s.agent a with dead := true, inc := ((s.agent a).inc + 1) % 256 }) ∧
    (∃ t, exec (.agentReadmit a) s = .next t ∧ t.agent a = { s.agent a with dead := false }) ∧
    (∀ v : Word, bitAt v.toNat 8 = false → bitAt v.toNat 9 = true → ∃ t, exec (.agentStateWrite a v) s = .next t ∧
      t.agent a = { s.agent a with dead := false, susp := false })) ∧
  (∀ (s : State) (a : Agent) (svc inc : Nat),
    (inc % 256 = (s.agent a).inc → Idle (.staleMessageDrop a svc inc) s) ∧
    (inc % 256 ≠ (s.agent a).inc → exec (.staleMessageDrop a svc inc) s =
      .next (s.logFault (1024 + svc % 16) ⟨9, 0, 0, none, 0, agentNum a, inc % 256 + (s.agent a).inc * 256⟩)))

/-! ### Events of the engines, the array and the erg arbiter -/

/-- R166, R275 to R279, R299, R300, R334 to R336, R391: an engine takes the next command of its cores; bytes are counted into a landing word, a step of the loop first; a finished command leaves; the arbiter grants a lease in turn; the holder's next leased command is accepted at its boundary; a freeze stops the array's time; the first command of a stream is performed; the oldest COMPOSE forms its erg, and the arbiter comes to the next. -/
def Obligations.UnitEvents : Prop :=
  (∀ (s : State) (cl : Nat), s.enginesLive cl = true → exec (.ferryTake cl) s = .next (s.whole fun s => s.ferryTakeAt cl)) ∧
  (∀ (s : State) (cl n : Nat) (j : FerryJob), s.jobAt cl n = some j →
    (∀ pa, j.land = some pa → s.landPoison pa = false → s.homeDead pa = false →
      s.heldBack ((clusterCores cl).headD 0) pa 16 = false →
      let l := s.landing pa
      (l.target ≠ 0 → l.target ≤ l.count → exec (.landingCount cl n) s = .next (s.whole fun s => s.landAdvance pa)) ∧
      (∀ p r, l.target = 0 ∨ l.count < l.target → j.pieces = p :: r → exec (.landingCount cl n) s =
        .next (s.whole fun s => (s.setLanding pa { l with count := l.count + p }).setJob cl n { j with pieces := r }))) ∧
    (j.land = none → Idle (.landingCount cl n) s) ∧
    exec (.ringRecordWrite cl n) s = .next (s.whole fun s => s.ringRecord cl n) ∧
    (j.cmd.rings = false → Idle (.ringRecordWrite cl n) s) ∧
    (j.moved = true → s.jobCounted j = true → (j.cmd.rings = true → j.recorded = true) → j.status = 1 → j.fcode ≠ 13 →
      exec (.ferryFinish cl n) s =
        .next (((s.updCl cl fun k => { k with jobs := k.jobs.eraseIdx n }).wakeJoin j.cmd.ctx.core j.cmd.uid j.cmd.tag).ferryDone
          j.cmd.inst)) ∧
    (j.moved = false → Idle (.ferryFinish cl n) s) ∧
    (j.blocked = true → exec (.ferryWbRewalk cl n) s =
      .next (s.whole fun s => (s.ferryMove j).2.setJob cl n (s.ferryMove j).1)) ∧
    (j.blocked = false → Idle (.ferryWbRewalk cl n) s)) ∧
  (∀ (s : State) (cl : Nat), let t := s.opaTick cl
    exec (.leaseClockExpiry cl) s = .next t ∧ exec (.opaCommandAccept cl) s = .next t ∧
    ((t.clAt cl).opaHeld.isSome = true ∨ (t.clAt cl).frozen.isSome = true ∨ t.fc ≤ t.grantTime cl →
      exec (.leaseGrant cl) s = .next t) ∧
    (∀ c, (t.clAt cl).opaHeld = none → (t.clAt cl).frozen = none → t.grantTime cl < t.fc → t.nextLease cl (t.grantTime cl) = some c →
      let g := t.grantLease cl c (t.grantTime cl)
      exec (.leaseGrant cl) s = .next g ∧ (g.ctxAt c).lease = .held ∧ (g.ctxAt c).leaseUsed = 0 ∧
      (g.clAt cl).leaseStart = t.grantTime cl) ∧
    (s.clusterPresent cl = true → exec (.opaFreeze cl) s = .next (t.freeze cl s.fc)) ∧
    (∀ f, (s.clAt cl).frozen = some f →
      exec (.opaFreezeEnd cl) s = .next ((s.updCl cl fun k => thaw k s.fc (s.fc - f)).freeEnded cl)) ∧
    ((∀ uid, (∃ e, e ∈ (s.clAt cl).slots ∧ e.2.owner = some uid) ∨ (∃ e, e ∈ (s.clAt cl).tiles ∧ e.2.owner = some uid) →
      s.opaOver uid = false) → s.freeEnded cl = s)) ∧
  (∀ (s : State) (cl : Nat) (c : CtxId), (s.ctxAt c).lease = .held →
    let k := s.clAt cl
    let x := s.ctxAt c
    let limit := k.leaseStart + 2 * Config.leaseAc
    (x.leaseK ≤ x.leaseUsed → k.opaBoundary ≤ s.opaNow cl → s.leaseNext cl c = some (s.lapseLease cl c k.opaBoundary)) ∧
    (x.leaseUsed < x.leaseK → nextForLease x.stream = none → max k.opaBoundary limit ≤ s.opaNow cl →
      s.leaseNext cl c = some (s.lapseLease cl c (max k.opaBoundary limit))) ∧
    (∀ e n l, x.leaseUsed < x.leaseK → nextForLease x.stream = some e → e.cmd.leased = true → e.cmd.ofLease = false →
      acceptFirst x.stream = some (n, l) → let t := max k.opaBoundary (max e.since k.opaThaw)
      t < limit → t ≤ s.opaNow cl →
      s.leaseNext cl c = some ((s.updCtx c fun x => { x with stream := l, leaseUsed := x.leaseUsed + 1 }).updCl cl fun k =>
        { k with opaBoundary := t + 2 * n }))) ∧
  (∀ (s : State) (c : CtxId) (e : OpaErr) (m : StreamEnt) (r : List StreamEnt),
    let t := s.opaTick (clusterOf c.core)
    (t.ctxAt c).stream = m :: r →
    ((t.clAt (clusterOf c.core)).frozen = none → (m.cmd.leased = true → m.accepted = true) → m.cmd.ofLease = false →
      exec (.opaCommandComplete c.core c.idx e) s = .next (t.whole fun s => s.completeHead c m r e) ∧
      (r ≠ [] → (∀ id t' i0 vl mask, m.cmd ≠ .mrd id t' i0 vl mask) →
        t.completeHead c m r e = (t.opaPerform c m.cmd e).updCtx c fun x => { x with stream := r }) ∧
      (∀ id t' i0 vl mask p, r ≠ [] → m.cmd = .mrd id t' i0 vl mask → t.pendAt id = some p →
        t.completeHead c m r .ok = (t.readTile c p t' i0 vl mask).updCtx c fun x => { x with stream := r })) ∧
    ((t.clAt (clusterOf c.core)).frozen.isSome = true ∨ (m.cmd.leased = true ∧ m.accepted = false) →
      exec (.opaCommandComplete c.core c.idx e) s = .next t)) ∧
  (∀ (s : State) (cl e : Nat) (r : List Nat), (s.clAt cl).ergQueue = e :: r → let c := CtxId.ofKey (e / 8)
    let s₁ := s.reserveBerths c.core (e % 8)
    (s₁.composeReady c.core (e % 8) = true → exec (.composeForm cl) s =
      .next (((s₁.formErg c (e % 8)).updCtx c fun x => { x with wait := none, token := some [] }).serveErg cl r)) ∧
    (s₁.composeReady c.core (e % 8) = false → exec (.composeForm cl) s = .next s₁)) ∧
  (∀ (s : State) (cl : Nat), s.serveErg cl [] = s.updCl cl fun k => { k with ergQueue := [] }) ∧
  (∀ (s : State) (cl e : Nat) (r : List Nat), let c := CtxId.ofKey (e / 8)
    ((∃ k ∈ ergOthers c.core (e % 8), (s.coreAt k).lend = false) →
      s.serveErg cl (e :: r) = (s.updCtx c fun x => { x with wait := none, token := some [2] }).serveErg cl r) ∧
    ((∀ k ∈ ergOthers c.core (e % 8), (s.coreAt k).lend = true) →
      s.serveErg cl (e :: r) = (s.updCl cl fun k => { k with ergQueue := e :: r }).reserveBerths c.core (e % 8)))

/-! ### Events that are register writes -/

/-- R20, R42, R44, R94, R98 to R100, R126, R204, R353, R356, R394, R415: writes of system and device registers: each has the effect of the write of its register, with the register's own fields, at a level that may write it, and none at another. Who the writer is, and that DEVICE_REGISTER_WRITE is made at SUP, is the model's choice (log 28). -/
def Obligations.RegisterEvents : Prop :=
  (∀ (s : State) (v : Word),
    (1 ≤ s.me.pl →
      exec (.htab v) s = .next (s.writeSys 0x032 v.toNat).2 ∧ exec (.hotq v) s = .next (s.writeSys 0x082 v.toNat).2 ∧
      exec (.vlanes v) s = .next (s.setLanes s.cur.core (v.toNat % 2 ^ 6)) ∧ exec (.saveptr v) s = .next (s.writeSys 0x052 v.toNat).2 ∧
      exec (.ptbase false v) s = .next (s.writeSys 0x050 v.toNat).2 ∧ exec (.ptbase true v) s = .next (s.writeSys 0x051 v.toNat).2 ∧
      exec (.mboxpol false v) s = .next (s.writeSys 0x031 v.toNat).2 ∧ exec (.mboxpol true v) s = .next (s.writeSys 0x030 v.toNat).2 ∧
      ((s.setFlex s.cur.core v.toNat).1 = 0 → exec (.flexcfg v) s = .next (s.setFlex s.cur.core v.toNat).2) ∧
      ((s.setFlex s.cur.core v.toNat).1 ≠ 0 →
        exec (.flexcfg v) s = .next ((s.setFlex s.cur.core v.toNat).2.updMe fun x => { x with moving := some (0, 0) }))) ∧
    (s.me.pl = 0 → Idle (.htab v) s ∧ Idle (.hotq v) s ∧ Idle (.vlanes v) s ∧ Idle (.saveptr v) s ∧ Idle (.flexcfg v) s ∧
      (∀ b, Idle (.ptbase b v) s ∧ Idle (.mboxpol b v) s)) ∧
    (3 ≤ s.me.pl → exec (.pkgid v) s = .next { s with pkgid := v.toNat % 2 ^ 10 }) ∧
    (s.me.pl < 3 → Idle (.pkgid v) s) ∧
    (NumericIdle s → exec (.fcsr false v) s = .next (s.writeSys 0x010 v.toNat).2 ∧
      exec (.fcsr true v) s = .next (s.writeSys 0x011 v.toNat).2) ∧
    (¬ NumericIdle s → Idle (.fcsr false v) s ∧ Idle (.fcsr true v) s)) ∧
  (∀ (s : State) (core : Nat) (v : Word), core < 1040 → s.corePresent core = true → let c : CtxId := ⟨core, bitsAt v.toNat 8 3⟩
    ((s.ctxAt c).occ = .occupied → exec (.erracc core v) s = .next (s.updCtx c fun x => x.accept (v.toNat % 256))) ∧
    ((s.ctxAt c).occ ≠ .occupied → Idle (.erracc core v) s)) ∧
  (∀ (x : Ctx) (r cause a m : Nat), 1 ≤ r → r < 16 → x.stX r = .failed cause a m →
    (x.accept r).getX r = 0 ∧ (x.accept r).stX r = .full) ∧
  (∀ (s : State) (cl : Nat) (v : Word),
    (s.clusterPresent cl = true → bitAt v.toNat 11 = true → exec (.cbukill cl v) s = .next (s.cbuKill cl (bitsAt v.toNat 8 3))) ∧
    (bitAt v.toNat 11 = false → Idle (.cbukill cl v) s)) ∧
  (∀ (s : State) (k : Nat) (v : Word), k < 8 → exec (.mbicfg k v) s = .next { s with
    mbiNext := KMap.put none s.mbiNext k (some (if v.toNat % 8 = 0 then 1 else v.toNat % 8)) }) ∧
  (∀ (s : State) (p : Nat) (v : Word), p < 1024 → exec (.route p v) s =
    .next (({ s with route := KMap.put 0 s.route p (v.toNat % 2 ^ 17) } : State).suspectUnreached)) ∧
  (∀ (s : State) (off : Nat) (v : Word), exec (.deviceRegisterWrite off v) s = .next (s.writeDev off v.toNat 1) ∧
    (off = 0x20000 → s.writeDev off v.toNat 1 = s.raiseIrq v.toNat) ∧
    (0x30000 ≤ off → off ≤ 0x32000 → s.writeDev off v.toNat 1 = s) ∧
    (0x60000 ≤ off → off < 0x65000 → s.writeDev off v.toNat 1 = s) ∧ (off < 0x10000 → s.writeDev off v.toNat 3 = s))
end

