-- ==== Sys2Proof/Laws/State.lean ====
section
/-! SUPPORT. Maps, and one lemma per field and update: what each named update of the state leaves and what it changes. -/
namespace Sys2Proof

/-! ### Maps -/
namespace KMap

variable {α : Type}

@[simp] theorem find_ins_self (d v : α) (m : KMap α) (k : Nat) : find d (ins m k v) k = v := by
  induction m with
  | nil => simp [ins, find]
  | cons e r ih =>
    obtain ⟨a, w⟩ := e
    simp only [ins]
    split
    · simp [find]
    · split
      · simp [find]
      · rename_i h
        simp [find, h, ih]

theorem find_ins_ne (d v : α) (m : KMap α) {k j : Nat} (h : j ≠ k) : find d (ins m k v) j = find d m j := by
  induction m with
  | nil => simp [ins, find, h.symm]
  | cons e r ih =>
    obtain ⟨a, w⟩ := e
    simp only [ins]
    split
    · simp [find, h.symm]
    · split
      · next h' => subst h'; simp [find, h.symm]
      · simp [find, ih]

@[simp] theorem ins_ins (m : KMap α) (k : Nat) (v w : α) : ins (ins m k v) k w = ins m k w := by
  induction m with
  | nil => simp [ins]
  | cons e r ih =>
    obtain ⟨a, u⟩ := e
    by_cases h : k < a
    · simp [ins, h]
    · by_cases h2 : a = k <;> simp [ins, h, h2, ih]

@[simp] theorem find_del_self (d : α) (m : KMap α) (k : Nat) : find d (del m k) k = d := by
  induction m with
  | nil => rfl
  | cons e r ih =>
    obtain ⟨a, w⟩ := e
    by_cases h : a = k <;> simp [del, find, h, ih]

theorem find_del_ne (d : α) (m : KMap α) {k j : Nat} (h : j ≠ k) : find d (del m k) j = find d m j := by
  induction m with
  | nil => rfl
  | cons e r ih =>
    obtain ⟨a, w⟩ := e
    by_cases h2 : a = k
    · subst h2; simp [del, find, h.symm, ih]
    · simp only [del, h2, if_false, find, ih]

@[simp] theorem find_put_self [DecidableEq α] (d : α) (m : KMap α) (k : Nat) (v : α) : find d (put d m k v) k = v := by
  unfold put
  split
  · next h => simp [h]
  · simp

theorem find_put_ne [DecidableEq α] (d e : α) (m : KMap α) {k j : Nat} (v : α) (h : j ≠ k) :
    find e (put d m k v) j = find e m j := by
  unfold put
  split
  · exact find_del_ne e m h
  · rw [find_ins_ne _ _ _ h, find_del_ne e m h]

end KMap

namespace Machine

/-! ### Parts of the state -/

theorem CtxId.key_inj {c d : CtxId} (hc : c.idx < 16) (hd : d.idx < 16) (h : c.key = d.key) : c = d := by
  obtain ⟨a, b⟩ := c
  obtain ⟨a', b'⟩ := d
  simp only [CtxId.key, CtxId.mk.injEq] at *
  omega

@[simp] theorem CtxId.ofKey_key (c : CtxId) (h : c.idx < 16) : CtxId.ofKey c.key = c := by
  obtain ⟨a, b⟩ := c
  simp only [CtxId.ofKey, CtxId.key, CtxId.mk.injEq] at *
  omega

@[simp] theorem State.ctxAt_updCtx_self (s : State) (c : CtxId) (f : Ctx → Ctx) :
    (s.updCtx c f).ctxAt c = f (s.ctxAt c) := by
  simp [State.updCtx, State.ctxAt]

theorem State.ctxAt_updCtx_ne (s : State) {c d : CtxId} (f : Ctx → Ctx) (h : d.key ≠ c.key) :
    (s.updCtx c f).ctxAt d = s.ctxAt d := by
  simp [State.updCtx, State.ctxAt, KMap.find_ins_ne _ _ _ h]

@[simp] theorem State.updCtx_updCtx (s : State) (c : CtxId) (f g : Ctx → Ctx) :
    (s.updCtx c f).updCtx c g = s.updCtx c fun x => g (f x) := by
  simp [State.updCtx, State.ctxAt]

@[simp] theorem State.me_updMe (s : State) (f : Ctx → Ctx) : (s.updMe f).me = f s.me := by
  simp [State.updMe, State.me, State.updCtx, State.ctxAt]

@[simp] theorem State.updMe_updMe (s : State) (f g : Ctx → Ctx) : (s.updMe f).updMe g = s.updMe fun x => g (f x) := by
  simp [State.updMe, State.updCtx, State.ctxAt]

/-- Two changes of the acting context that agree on it. -/
theorem State.updMe_congr (s : State) {f g : Ctx → Ctx} (h : f s.me = g s.me) : s.updMe f = s.updMe g := by
  simp only [State.updMe, State.updCtx, State.me] at *
  rw [h]

theorem State.ctxAt_updMe_ne (s : State) {d : CtxId} (f : Ctx → Ctx) (h : d.key ≠ s.cur.key) :
    (s.updMe f).ctxAt d = s.ctxAt d := State.ctxAt_updCtx_ne s f h

@[simp] theorem State.coreAt_updCtx (s : State) (c : CtxId) (f : Ctx → Ctx) (n : Nat) :
    (s.updCtx c f).coreAt n = s.coreAt n := rfl
@[simp] theorem State.clAt_updCtx (s : State) (c : CtxId) (f : Ctx → Ctx) (n : Nat) : (s.updCtx c f).clAt n = s.clAt n := rfl
@[simp] theorem State.dispAt_updCtx (s : State) (c : CtxId) (f : Ctx → Ctx) (n : Nat) :
    (s.updCtx c f).dispAt n = s.dispAt n := rfl
@[simp] theorem State.coreAt_updMe (s : State) (f : Ctx → Ctx) (n : Nat) : (s.updMe f).coreAt n = s.coreAt n := rfl
@[simp] theorem State.clAt_updMe (s : State) (f : Ctx → Ctx) (n : Nat) : (s.updMe f).clAt n = s.clAt n := rfl
@[simp] theorem State.dispAt_updMe (s : State) (f : Ctx → Ctx) (n : Nat) : (s.updMe f).dispAt n = s.dispAt n := rfl

@[simp] theorem State.coreAt_updCore_self (s : State) (n : Nat) (f : Core → Core) :
    (s.updCore n f).coreAt n = f (s.coreAt n) := by
  simp [State.updCore, State.coreAt]

theorem State.coreAt_updCore_ne (s : State) {n m : Nat} (f : Core → Core) (h : m ≠ n) :
    (s.updCore n f).coreAt m = s.coreAt m := by
  simp only [State.updCore, State.coreAt, KMap.find_ins_ne _ _ _ h]
  rfl

@[simp] theorem State.ctxAt_updCore (s : State) (n : Nat) (f : Core → Core) (c : CtxId) :
    (s.updCore n f).ctxAt c = s.ctxAt c := rfl
@[simp] theorem State.me_updCore (s : State) (n : Nat) (f : Core → Core) : (s.updCore n f).me = s.me := rfl
@[simp] theorem State.clAt_updCore (s : State) (n m : Nat) (f : Core → Core) : (s.updCore n f).clAt m = s.clAt m := rfl

@[simp] theorem State.clAt_updCl_self (s : State) (n : Nat) (f : Cluster → Cluster) :
    (s.updCl n f).clAt n = f (s.clAt n) := by
  simp [State.updCl, State.clAt]

theorem State.clAt_updCl_ne (s : State) {n m : Nat} (f : Cluster → Cluster) (h : m ≠ n) :
    (s.updCl n f).clAt m = s.clAt m := by
  simp [State.updCl, State.clAt, KMap.find_ins_ne _ _ _ h]

@[simp] theorem State.ctxAt_updCl (s : State) (n : Nat) (f : Cluster → Cluster) (c : CtxId) :
    (s.updCl n f).ctxAt c = s.ctxAt c := rfl
@[simp] theorem State.me_updCl (s : State) (n : Nat) (f : Cluster → Cluster) : (s.updCl n f).me = s.me := rfl
@[simp] theorem State.coreAt_updCl (s : State) (n m : Nat) (f : Cluster → Cluster) :
    (s.updCl n f).coreAt m = s.coreAt m := rfl

@[simp] theorem State.dispAt_updDisp_self (s : State) (n : Nat) (f : Disp → Disp) :
    (s.updDisp n f).dispAt n = f (s.dispAt n) := by
  simp [State.updDisp, State.dispAt]

/-! ### Fields that an update leaves -/

@[simp] theorem State.updCtx_mem (s : State) (c : CtxId) (f : Ctx → Ctx) : (s.updCtx c f).mem = s.mem := rfl
@[simp] theorem State.updCtx_poison (s : State) (c : CtxId) (f : Ctx → Ctx) : (s.updCtx c f).poison = s.poison := rfl
@[simp] theorem State.updCtx_poisonDie (s : State) (c : CtxId) (f : Ctx → Ctx) : (s.updCtx c f).poisonDie = s.poisonDie := rfl
@[simp] theorem State.updCtx_flaws (s : State) (c : CtxId) (f : Ctx → Ctx) : (s.updCtx c f).flaws = s.flaws := rfl
@[simp] theorem State.updCtx_landLost (s : State) (c : CtxId) (f : Ctx → Ctx) : (s.updCtx c f).landLost = s.landLost := rfl
@[simp] theorem State.updCtx_hotReqs (s : State) (c : CtxId) (f : Ctx → Ctx) : (s.updCtx c f).hotReqs = s.hotReqs := rfl
@[simp] theorem State.updCtx_reg (s : State) (c : CtxId) (f : Ctx → Ctx) : (s.updCtx c f).reg = s.reg := rfl
@[simp] theorem State.updCtx_homeLines (s : State) (c : CtxId) (f : Ctx → Ctx) : (s.updCtx c f).homeLines = s.homeLines := rfl
@[simp] theorem State.updCtx_core (s : State) (c : CtxId) (f : Ctx → Ctx) : (s.updCtx c f).core = s.core := rfl
@[simp] theorem State.updCtx_cl (s : State) (c : CtxId) (f : Ctx → Ctx) : (s.updCtx c f).cl = s.cl := rfl
@[simp] theorem State.updCtx_disp (s : State) (c : CtxId) (f : Ctx → Ctx) : (s.updCtx c f).disp = s.disp := rfl
@[simp] theorem State.updCtx_insts (s : State) (c : CtxId) (f : Ctx → Ctx) : (s.updCtx c f).insts = s.insts := rfl
@[simp] theorem State.updCtx_nextInst (s : State) (c : CtxId) (f : Ctx → Ctx) : (s.updCtx c f).nextInst = s.nextInst := rfl
@[simp] theorem State.updCtx_locks (s : State) (c : CtxId) (f : Ctx → Ctx) : (s.updCtx c f).locks = s.locks := rfl
@[simp] theorem State.updCtx_heldLocks (s : State) (c : CtxId) (f : Ctx → Ctx) : (s.updCtx c f).heldLocks = s.heldLocks := rfl
@[simp] theorem State.updCtx_groups (s : State) (c : CtxId) (f : Ctx → Ctx) : (s.updCtx c f).groups = s.groups := rfl
@[simp] theorem State.updCtx_msgs (s : State) (c : CtxId) (f : Ctx → Ctx) : (s.updCtx c f).msgs = s.msgs := rfl
@[simp] theorem State.updCtx_pend (s : State) (c : CtxId) (f : Ctx → Ctx) : (s.updCtx c f).pend = s.pend := rfl
@[simp] theorem State.updCtx_nextPend (s : State) (c : CtxId) (f : Ctx → Ctx) : (s.updCtx c f).nextPend = s.nextPend := rfl
@[simp] theorem State.updCtx_baseq (s : State) (c : CtxId) (f : Ctx → Ctx) : (s.updCtx c f).baseq = s.baseq := rfl
@[simp] theorem State.updCtx_hits (s : State) (c : CtxId) (f : Ctx → Ctx) : (s.updCtx c f).hits = s.hits := rfl
@[simp] theorem State.updCtx_notices (s : State) (c : CtxId) (f : Ctx → Ctx) : (s.updCtx c f).notices = s.notices := rfl
@[simp] theorem State.updCtx_pkgid (s : State) (c : CtxId) (f : Ctx → Ctx) : (s.updCtx c f).pkgid = s.pkgid := rfl
@[simp] theorem State.updCtx_route (s : State) (c : CtxId) (f : Ctx → Ctx) : (s.updCtx c f).route = s.route := rfl
@[simp] theorem State.updCtx_mbicfg (s : State) (c : CtxId) (f : Ctx → Ctx) : (s.updCtx c f).mbicfg = s.mbicfg := rfl
@[simp] theorem State.updCtx_mbiNext (s : State) (c : CtxId) (f : Ctx → Ctx) : (s.updCtx c f).mbiNext = s.mbiNext := rfl
@[simp] theorem State.updCtx_portfail (s : State) (c : CtxId) (f : Ctx → Ctx) : (s.updCtx c f).portfail = s.portfail := rfl
@[simp] theorem State.updCtx_bootstat (s : State) (c : CtxId) (f : Ctx → Ctx) : (s.updCtx c f).bootstat = s.bootstat := rfl
@[simp] theorem State.updCtx_sd (s : State) (c : CtxId) (f : Ctx → Ctx) : (s.updCtx c f).sd = s.sd := rfl
@[simp] theorem State.updCtx_agCore (s : State) (c : CtxId) (f : Ctx → Ctx) : (s.updCtx c f).agCore = s.agCore := rfl
@[simp] theorem State.updCtx_agDie (s : State) (c : CtxId) (f : Ctx → Ctx) : (s.updCtx c f).agDie = s.agDie := rfl
@[simp] theorem State.updCtx_agPkg (s : State) (c : CtxId) (f : Ctx → Ctx) : (s.updCtx c f).agPkg = s.agPkg := rfl
@[simp] theorem State.updCtx_fuse (s : State) (c : CtxId) (f : Ctx → Ctx) : (s.updCtx c f).fuse = s.fuse := rfl
@[simp] theorem State.updCtx_badStacks (s : State) (c : CtxId) (f : Ctx → Ctx) : (s.updCtx c f).badStacks = s.badStacks := rfl
@[simp] theorem State.updCtx_grants (s : State) (c : CtxId) (f : Ctx → Ctx) : (s.updCtx c f).grants = s.grants := rfl
@[simp] theorem State.updCtx_leases (s : State) (c : CtxId) (f : Ctx → Ctx) : (s.updCtx c f).leases = s.leases := rfl
@[simp] theorem State.updCtx_edgeFail (s : State) (c : CtxId) (f : Ctx → Ctx) : (s.updCtx c f).edgeFail = s.edgeFail := rfl
@[simp] theorem State.updCtx_cxlDown (s : State) (c : CtxId) (f : Ctx → Ctx) : (s.updCtx c f).cxlDown = s.cxlDown := rfl
@[simp] theorem State.updCtx_msixMask (s : State) (c : CtxId) (f : Ctx → Ctx) : (s.updCtx c f).msixMask = s.msixMask := rfl
@[simp] theorem State.updCtx_msixPend (s : State) (c : CtxId) (f : Ctx → Ctx) : (s.updCtx c f).msixPend = s.msixPend := rfl
@[simp] theorem State.updCtx_fc (s : State) (c : CtxId) (f : Ctx → Ctx) : (s.updCtx c f).fc = s.fc := rfl
@[simp] theorem State.updCtx_nextPeer (s : State) (c : CtxId) (f : Ctx → Ctx) : (s.updCtx c f).nextPeer = s.nextPeer := rfl
@[simp] theorem State.updCtx_out (s : State) (c : CtxId) (f : Ctx → Ctx) : (s.updCtx c f).out = s.out := rfl
@[simp] theorem State.updCtx_agenda (s : State) (c : CtxId) (f : Ctx → Ctx) : (s.updCtx c f).agenda = s.agenda := rfl
@[simp] theorem State.updCtx_chosen (s : State) (c : CtxId) (f : Ctx → Ctx) : (s.updCtx c f).chosen = s.chosen := rfl
@[simp] theorem State.updCtx_cur (s : State) (c : CtxId) (f : Ctx → Ctx) : (s.updCtx c f).cur = s.cur := rfl
@[simp] theorem State.updCtx_waited (s : State) (c : CtxId) (f : Ctx → Ctx) : (s.updCtx c f).waited = s.waited := rfl
@[simp] theorem State.updCtx_lacks (s : State) (c : CtxId) (f : Ctx → Ctx) : (s.updCtx c f).lacks = s.lacks := rfl
@[simp] theorem State.updCtx_freeN (s : State) (c : CtxId) (f : Ctx → Ctx) : (s.updCtx c f).freeN = s.freeN := rfl
@[simp] theorem State.updCtx_nextUid (s : State) (c : CtxId) (f : Ctx → Ctx) : (s.updCtx c f).nextUid = s.nextUid := rfl
@[simp] theorem State.updCtx_turn (s : State) (c : CtxId) (f : Ctx → Ctx) : (s.updCtx c f).turn = s.turn := rfl

@[simp] theorem State.updCore_mem (s : State) (n : Nat) (f : Core → Core) : (s.updCore n f).mem = s.mem := rfl
@[simp] theorem State.updCore_poison (s : State) (n : Nat) (f : Core → Core) : (s.updCore n f).poison = s.poison := rfl
@[simp] theorem State.updCore_poisonDie (s : State) (n : Nat) (f : Core → Core) : (s.updCore n f).poisonDie = s.poisonDie := rfl
@[simp] theorem State.updCore_flaws (s : State) (n : Nat) (f : Core → Core) : (s.updCore n f).flaws = s.flaws := rfl
@[simp] theorem State.updCore_landLost (s : State) (n : Nat) (f : Core → Core) : (s.updCore n f).landLost = s.landLost := rfl
@[simp] theorem State.updCore_hotReqs (s : State) (n : Nat) (f : Core → Core) : (s.updCore n f).hotReqs = s.hotReqs := rfl
@[simp] theorem State.updCore_reg (s : State) (n : Nat) (f : Core → Core) : (s.updCore n f).reg = s.reg := rfl
@[simp] theorem State.updCore_homeLines (s : State) (n : Nat) (f : Core → Core) : (s.updCore n f).homeLines = s.homeLines := rfl
@[simp] theorem State.updCore_ctx (s : State) (n : Nat) (f : Core → Core) : (s.updCore n f).ctx = s.ctx := rfl
@[simp] theorem State.updCore_cl (s : State) (n : Nat) (f : Core → Core) : (s.updCore n f).cl = s.cl := rfl
@[simp] theorem State.updCore_disp (s : State) (n : Nat) (f : Core → Core) : (s.updCore n f).disp = s.disp := rfl
@[simp] theorem State.updCore_insts (s : State) (n : Nat) (f : Core → Core) : (s.updCore n f).insts = s.insts := rfl
@[simp] theorem State.updCore_nextInst (s : State) (n : Nat) (f : Core → Core) : (s.updCore n f).nextInst = s.nextInst := rfl
@[simp] theorem State.updCore_locks (s : State) (n : Nat) (f : Core → Core) : (s.updCore n f).locks = s.locks := rfl
@[simp] theorem State.updCore_heldLocks (s : State) (n : Nat) (f : Core → Core) : (s.updCore n f).heldLocks = s.heldLocks := rfl
@[simp] theorem State.updCore_groups (s : State) (n : Nat) (f : Core → Core) : (s.updCore n f).groups = s.groups := rfl
@[simp] theorem State.updCore_msgs (s : State) (n : Nat) (f : Core → Core) : (s.updCore n f).msgs = s.msgs := rfl
@[simp] theorem State.updCore_pend (s : State) (n : Nat) (f : Core → Core) : (s.updCore n f).pend = s.pend := rfl
@[simp] theorem State.updCore_nextPend (s : State) (n : Nat) (f : Core → Core) : (s.updCore n f).nextPend = s.nextPend := rfl
@[simp] theorem State.updCore_baseq (s : State) (n : Nat) (f : Core → Core) : (s.updCore n f).baseq = s.baseq := rfl
@[simp] theorem State.updCore_hits (s : State) (n : Nat) (f : Core → Core) : (s.updCore n f).hits = s.hits := rfl
@[simp] theorem State.updCore_notices (s : State) (n : Nat) (f : Core → Core) : (s.updCore n f).notices = s.notices := rfl
@[simp] theorem State.updCore_pkgid (s : State) (n : Nat) (f : Core → Core) : (s.updCore n f).pkgid = s.pkgid := rfl
@[simp] theorem State.updCore_route (s : State) (n : Nat) (f : Core → Core) : (s.updCore n f).route = s.route := rfl
@[simp] theorem State.updCore_mbicfg (s : State) (n : Nat) (f : Core → Core) : (s.updCore n f).mbicfg = s.mbicfg := rfl
@[simp] theorem State.updCore_mbiNext (s : State) (n : Nat) (f : Core → Core) : (s.updCore n f).mbiNext = s.mbiNext := rfl
@[simp] theorem State.updCore_portfail (s : State) (n : Nat) (f : Core → Core) : (s.updCore n f).portfail = s.portfail := rfl
@[simp] theorem State.updCore_bootstat (s : State) (n : Nat) (f : Core → Core) : (s.updCore n f).bootstat = s.bootstat := rfl
@[simp] theorem State.updCore_sd (s : State) (n : Nat) (f : Core → Core) : (s.updCore n f).sd = s.sd := rfl
@[simp] theorem State.updCore_agCore (s : State) (n : Nat) (f : Core → Core) : (s.updCore n f).agCore = s.agCore := rfl
@[simp] theorem State.updCore_agDie (s : State) (n : Nat) (f : Core → Core) : (s.updCore n f).agDie = s.agDie := rfl
@[simp] theorem State.updCore_agPkg (s : State) (n : Nat) (f : Core → Core) : (s.updCore n f).agPkg = s.agPkg := rfl
@[simp] theorem State.updCore_fuse (s : State) (n : Nat) (f : Core → Core) : (s.updCore n f).fuse = s.fuse := rfl
@[simp] theorem State.updCore_badStacks (s : State) (n : Nat) (f : Core → Core) : (s.updCore n f).badStacks = s.badStacks := rfl
@[simp] theorem State.updCore_grants (s : State) (n : Nat) (f : Core → Core) : (s.updCore n f).grants = s.grants := rfl
@[simp] theorem State.updCore_leases (s : State) (n : Nat) (f : Core → Core) : (s.updCore n f).leases = s.leases := rfl
@[simp] theorem State.updCore_edgeFail (s : State) (n : Nat) (f : Core → Core) : (s.updCore n f).edgeFail = s.edgeFail := rfl
@[simp] theorem State.updCore_cxlDown (s : State) (n : Nat) (f : Core → Core) : (s.updCore n f).cxlDown = s.cxlDown := rfl
@[simp] theorem State.updCore_msixMask (s : State) (n : Nat) (f : Core → Core) : (s.updCore n f).msixMask = s.msixMask := rfl
@[simp] theorem State.updCore_msixPend (s : State) (n : Nat) (f : Core → Core) : (s.updCore n f).msixPend = s.msixPend := rfl
@[simp] theorem State.updCore_fc (s : State) (n : Nat) (f : Core → Core) : (s.updCore n f).fc = s.fc := rfl
@[simp] theorem State.updCore_nextPeer (s : State) (n : Nat) (f : Core → Core) : (s.updCore n f).nextPeer = s.nextPeer := rfl
@[simp] theorem State.updCore_out (s : State) (n : Nat) (f : Core → Core) : (s.updCore n f).out = s.out := rfl
@[simp] theorem State.updCore_agenda (s : State) (n : Nat) (f : Core → Core) : (s.updCore n f).agenda = s.agenda := rfl
@[simp] theorem State.updCore_chosen (s : State) (n : Nat) (f : Core → Core) : (s.updCore n f).chosen = s.chosen := rfl
@[simp] theorem State.updCore_cur (s : State) (n : Nat) (f : Core → Core) : (s.updCore n f).cur = s.cur := rfl
@[simp] theorem State.updCore_waited (s : State) (n : Nat) (f : Core → Core) : (s.updCore n f).waited = s.waited := rfl
@[simp] theorem State.updCore_lacks (s : State) (n : Nat) (f : Core → Core) : (s.updCore n f).lacks = s.lacks := rfl
@[simp] theorem State.updCore_freeN (s : State) (n : Nat) (f : Core → Core) : (s.updCore n f).freeN = s.freeN := rfl
@[simp] theorem State.updCore_nextUid (s : State) (n : Nat) (f : Core → Core) : (s.updCore n f).nextUid = s.nextUid := rfl
@[simp] theorem State.updCore_turn (s : State) (n : Nat) (f : Core → Core) : (s.updCore n f).turn = s.turn := rfl

@[simp] theorem State.updCl_mem (s : State) (n : Nat) (f : Cluster → Cluster) : (s.updCl n f).mem = s.mem := rfl
@[simp] theorem State.updCl_poison (s : State) (n : Nat) (f : Cluster → Cluster) : (s.updCl n f).poison = s.poison := rfl
@[simp] theorem State.updCl_poisonDie (s : State) (n : Nat) (f : Cluster → Cluster) : (s.updCl n f).poisonDie = s.poisonDie := rfl
@[simp] theorem State.updCl_flaws (s : State) (n : Nat) (f : Cluster → Cluster) : (s.updCl n f).flaws = s.flaws := rfl
@[simp] theorem State.updCl_landLost (s : State) (n : Nat) (f : Cluster → Cluster) : (s.updCl n f).landLost = s.landLost := rfl
@[simp] theorem State.updCl_hotReqs (s : State) (n : Nat) (f : Cluster → Cluster) : (s.updCl n f).hotReqs = s.hotReqs := rfl
@[simp] theorem State.updCl_reg (s : State) (n : Nat) (f : Cluster → Cluster) : (s.updCl n f).reg = s.reg := rfl
@[simp] theorem State.updCl_homeLines (s : State) (n : Nat) (f : Cluster → Cluster) : (s.updCl n f).homeLines = s.homeLines := rfl
@[simp] theorem State.updCl_ctx (s : State) (n : Nat) (f : Cluster → Cluster) : (s.updCl n f).ctx = s.ctx := rfl
@[simp] theorem State.updCl_core (s : State) (n : Nat) (f : Cluster → Cluster) : (s.updCl n f).core = s.core := rfl
@[simp] theorem State.updCl_disp (s : State) (n : Nat) (f : Cluster → Cluster) : (s.updCl n f).disp = s.disp := rfl
@[simp] theorem State.updCl_insts (s : State) (n : Nat) (f : Cluster → Cluster) : (s.updCl n f).insts = s.insts := rfl
@[simp] theorem State.updCl_nextInst (s : State) (n : Nat) (f : Cluster → Cluster) : (s.updCl n f).nextInst = s.nextInst := rfl
@[simp] theorem State.updCl_locks (s : State) (n : Nat) (f : Cluster → Cluster) : (s.updCl n f).locks = s.locks := rfl
@[simp] theorem State.updCl_heldLocks (s : State) (n : Nat) (f : Cluster → Cluster) : (s.updCl n f).heldLocks = s.heldLocks := rfl
@[simp] theorem State.updCl_groups (s : State) (n : Nat) (f : Cluster → Cluster) : (s.updCl n f).groups = s.groups := rfl
@[simp] theorem State.updCl_msgs (s : State) (n : Nat) (f : Cluster → Cluster) : (s.updCl n f).msgs = s.msgs := rfl
@[simp] theorem State.updCl_pend (s : State) (n : Nat) (f : Cluster → Cluster) : (s.updCl n f).pend = s.pend := rfl
@[simp] theorem State.updCl_nextPend (s : State) (n : Nat) (f : Cluster → Cluster) : (s.updCl n f).nextPend = s.nextPend := rfl
@[simp] theorem State.updCl_baseq (s : State) (n : Nat) (f : Cluster → Cluster) : (s.updCl n f).baseq = s.baseq := rfl
@[simp] theorem State.updCl_hits (s : State) (n : Nat) (f : Cluster → Cluster) : (s.updCl n f).hits = s.hits := rfl
@[simp] theorem State.updCl_notices (s : State) (n : Nat) (f : Cluster → Cluster) : (s.updCl n f).notices = s.notices := rfl
@[simp] theorem State.updCl_pkgid (s : State) (n : Nat) (f : Cluster → Cluster) : (s.updCl n f).pkgid = s.pkgid := rfl
@[simp] theorem State.updCl_route (s : State) (n : Nat) (f : Cluster → Cluster) : (s.updCl n f).route = s.route := rfl
@[simp] theorem State.updCl_mbicfg (s : State) (n : Nat) (f : Cluster → Cluster) : (s.updCl n f).mbicfg = s.mbicfg := rfl
@[simp] theorem State.updCl_mbiNext (s : State) (n : Nat) (f : Cluster → Cluster) : (s.updCl n f).mbiNext = s.mbiNext := rfl
@[simp] theorem State.updCl_portfail (s : State) (n : Nat) (f : Cluster → Cluster) : (s.updCl n f).portfail = s.portfail := rfl
@[simp] theorem State.updCl_bootstat (s : State) (n : Nat) (f : Cluster → Cluster) : (s.updCl n f).bootstat = s.bootstat := rfl
@[simp] theorem State.updCl_sd (s : State) (n : Nat) (f : Cluster → Cluster) : (s.updCl n f).sd = s.sd := rfl
@[simp] theorem State.updCl_agCore (s : State) (n : Nat) (f : Cluster → Cluster) : (s.updCl n f).agCore = s.agCore := rfl
@[simp] theorem State.updCl_agDie (s : State) (n : Nat) (f : Cluster → Cluster) : (s.updCl n f).agDie = s.agDie := rfl
@[simp] theorem State.updCl_agPkg (s : State) (n : Nat) (f : Cluster → Cluster) : (s.updCl n f).agPkg = s.agPkg := rfl
@[simp] theorem State.updCl_fuse (s : State) (n : Nat) (f : Cluster → Cluster) : (s.updCl n f).fuse = s.fuse := rfl
@[simp] theorem State.updCl_badStacks (s : State) (n : Nat) (f : Cluster → Cluster) : (s.updCl n f).badStacks = s.badStacks := rfl
@[simp] theorem State.updCl_grants (s : State) (n : Nat) (f : Cluster → Cluster) : (s.updCl n f).grants = s.grants := rfl
@[simp] theorem State.updCl_leases (s : State) (n : Nat) (f : Cluster → Cluster) : (s.updCl n f).leases = s.leases := rfl
@[simp] theorem State.updCl_edgeFail (s : State) (n : Nat) (f : Cluster → Cluster) : (s.updCl n f).edgeFail = s.edgeFail := rfl
@[simp] theorem State.updCl_cxlDown (s : State) (n : Nat) (f : Cluster → Cluster) : (s.updCl n f).cxlDown = s.cxlDown := rfl
@[simp] theorem State.updCl_msixMask (s : State) (n : Nat) (f : Cluster → Cluster) : (s.updCl n f).msixMask = s.msixMask := rfl
@[simp] theorem State.updCl_msixPend (s : State) (n : Nat) (f : Cluster → Cluster) : (s.updCl n f).msixPend = s.msixPend := rfl
@[simp] theorem State.updCl_fc (s : State) (n : Nat) (f : Cluster → Cluster) : (s.updCl n f).fc = s.fc := rfl
@[simp] theorem State.updCl_nextPeer (s : State) (n : Nat) (f : Cluster → Cluster) : (s.updCl n f).nextPeer = s.nextPeer := rfl
@[simp] theorem State.updCl_out (s : State) (n : Nat) (f : Cluster → Cluster) : (s.updCl n f).out = s.out := rfl
@[simp] theorem State.updCl_agenda (s : State) (n : Nat) (f : Cluster → Cluster) : (s.updCl n f).agenda = s.agenda := rfl
@[simp] theorem State.updCl_chosen (s : State) (n : Nat) (f : Cluster → Cluster) : (s.updCl n f).chosen = s.chosen := rfl
@[simp] theorem State.updCl_cur (s : State) (n : Nat) (f : Cluster → Cluster) : (s.updCl n f).cur = s.cur := rfl
@[simp] theorem State.updCl_waited (s : State) (n : Nat) (f : Cluster → Cluster) : (s.updCl n f).waited = s.waited := rfl
@[simp] theorem State.updCl_lacks (s : State) (n : Nat) (f : Cluster → Cluster) : (s.updCl n f).lacks = s.lacks := rfl
@[simp] theorem State.updCl_freeN (s : State) (n : Nat) (f : Cluster → Cluster) : (s.updCl n f).freeN = s.freeN := rfl
@[simp] theorem State.updCl_nextUid (s : State) (n : Nat) (f : Cluster → Cluster) : (s.updCl n f).nextUid = s.nextUid := rfl
@[simp] theorem State.updCl_turn (s : State) (n : Nat) (f : Cluster → Cluster) : (s.updCl n f).turn = s.turn := rfl

@[simp] theorem State.updDisp_mem (s : State) (n : Nat) (f : Disp → Disp) : (s.updDisp n f).mem = s.mem := rfl
@[simp] theorem State.updDisp_poison (s : State) (n : Nat) (f : Disp → Disp) : (s.updDisp n f).poison = s.poison := rfl
@[simp] theorem State.updDisp_poisonDie (s : State) (n : Nat) (f : Disp → Disp) : (s.updDisp n f).poisonDie = s.poisonDie := rfl
@[simp] theorem State.updDisp_flaws (s : State) (n : Nat) (f : Disp → Disp) : (s.updDisp n f).flaws = s.flaws := rfl
@[simp] theorem State.updDisp_landLost (s : State) (n : Nat) (f : Disp → Disp) : (s.updDisp n f).landLost = s.landLost := rfl
@[simp] theorem State.updDisp_hotReqs (s : State) (n : Nat) (f : Disp → Disp) : (s.updDisp n f).hotReqs = s.hotReqs := rfl
@[simp] theorem State.updDisp_reg (s : State) (n : Nat) (f : Disp → Disp) : (s.updDisp n f).reg = s.reg := rfl
@[simp] theorem State.updDisp_homeLines (s : State) (n : Nat) (f : Disp → Disp) : (s.updDisp n f).homeLines = s.homeLines := rfl
@[simp] theorem State.updDisp_ctx (s : State) (n : Nat) (f : Disp → Disp) : (s.updDisp n f).ctx = s.ctx := rfl
@[simp] theorem State.updDisp_core (s : State) (n : Nat) (f : Disp → Disp) : (s.updDisp n f).core = s.core := rfl
@[simp] theorem State.updDisp_cl (s : State) (n : Nat) (f : Disp → Disp) : (s.updDisp n f).cl = s.cl := rfl
@[simp] theorem State.updDisp_insts (s : State) (n : Nat) (f : Disp → Disp) : (s.updDisp n f).insts = s.insts := rfl
@[simp] theorem State.updDisp_nextInst (s : State) (n : Nat) (f : Disp → Disp) : (s.updDisp n f).nextInst = s.nextInst := rfl
@[simp] theorem State.updDisp_locks (s : State) (n : Nat) (f : Disp → Disp) : (s.updDisp n f).locks = s.locks := rfl
@[simp] theorem State.updDisp_heldLocks (s : State) (n : Nat) (f : Disp → Disp) : (s.updDisp n f).heldLocks = s.heldLocks := rfl
@[simp] theorem State.updDisp_groups (s : State) (n : Nat) (f : Disp → Disp) : (s.updDisp n f).groups = s.groups := rfl
@[simp] theorem State.updDisp_msgs (s : State) (n : Nat) (f : Disp → Disp) : (s.updDisp n f).msgs = s.msgs := rfl
@[simp] theorem State.updDisp_pend (s : State) (n : Nat) (f : Disp → Disp) : (s.updDisp n f).pend = s.pend := rfl
@[simp] theorem State.updDisp_nextPend (s : State) (n : Nat) (f : Disp → Disp) : (s.updDisp n f).nextPend = s.nextPend := rfl
@[simp] theorem State.updDisp_baseq (s : State) (n : Nat) (f : Disp → Disp) : (s.updDisp n f).baseq = s.baseq := rfl
@[simp] theorem State.updDisp_hits (s : State) (n : Nat) (f : Disp → Disp) : (s.updDisp n f).hits = s.hits := rfl
@[simp] theorem State.updDisp_notices (s : State) (n : Nat) (f : Disp → Disp) : (s.updDisp n f).notices = s.notices := rfl
@[simp] theorem State.updDisp_pkgid (s : State) (n : Nat) (f : Disp → Disp) : (s.updDisp n f).pkgid = s.pkgid := rfl
@[simp] theorem State.updDisp_route (s : State) (n : Nat) (f : Disp → Disp) : (s.updDisp n f).route = s.route := rfl
@[simp] theorem State.updDisp_mbicfg (s : State) (n : Nat) (f : Disp → Disp) : (s.updDisp n f).mbicfg = s.mbicfg := rfl
@[simp] theorem State.updDisp_mbiNext (s : State) (n : Nat) (f : Disp → Disp) : (s.updDisp n f).mbiNext = s.mbiNext := rfl
@[simp] theorem State.updDisp_portfail (s : State) (n : Nat) (f : Disp → Disp) : (s.updDisp n f).portfail = s.portfail := rfl
@[simp] theorem State.updDisp_bootstat (s : State) (n : Nat) (f : Disp → Disp) : (s.updDisp n f).bootstat = s.bootstat := rfl
@[simp] theorem State.updDisp_sd (s : State) (n : Nat) (f : Disp → Disp) : (s.updDisp n f).sd = s.sd := rfl
@[simp] theorem State.updDisp_agCore (s : State) (n : Nat) (f : Disp → Disp) : (s.updDisp n f).agCore = s.agCore := rfl
@[simp] theorem State.updDisp_agDie (s : State) (n : Nat) (f : Disp → Disp) : (s.updDisp n f).agDie = s.agDie := rfl
@[simp] theorem State.updDisp_agPkg (s : State) (n : Nat) (f : Disp → Disp) : (s.updDisp n f).agPkg = s.agPkg := rfl
@[simp] theorem State.updDisp_fuse (s : State) (n : Nat) (f : Disp → Disp) : (s.updDisp n f).fuse = s.fuse := rfl
@[simp] theorem State.updDisp_badStacks (s : State) (n : Nat) (f : Disp → Disp) : (s.updDisp n f).badStacks = s.badStacks := rfl
@[simp] theorem State.updDisp_grants (s : State) (n : Nat) (f : Disp → Disp) : (s.updDisp n f).grants = s.grants := rfl
@[simp] theorem State.updDisp_leases (s : State) (n : Nat) (f : Disp → Disp) : (s.updDisp n f).leases = s.leases := rfl
@[simp] theorem State.updDisp_edgeFail (s : State) (n : Nat) (f : Disp → Disp) : (s.updDisp n f).edgeFail = s.edgeFail := rfl
@[simp] theorem State.updDisp_cxlDown (s : State) (n : Nat) (f : Disp → Disp) : (s.updDisp n f).cxlDown = s.cxlDown := rfl
@[simp] theorem State.updDisp_msixMask (s : State) (n : Nat) (f : Disp → Disp) : (s.updDisp n f).msixMask = s.msixMask := rfl
@[simp] theorem State.updDisp_msixPend (s : State) (n : Nat) (f : Disp → Disp) : (s.updDisp n f).msixPend = s.msixPend := rfl
@[simp] theorem State.updDisp_fc (s : State) (n : Nat) (f : Disp → Disp) : (s.updDisp n f).fc = s.fc := rfl
@[simp] theorem State.updDisp_nextPeer (s : State) (n : Nat) (f : Disp → Disp) : (s.updDisp n f).nextPeer = s.nextPeer := rfl
@[simp] theorem State.updDisp_out (s : State) (n : Nat) (f : Disp → Disp) : (s.updDisp n f).out = s.out := rfl
@[simp] theorem State.updDisp_agenda (s : State) (n : Nat) (f : Disp → Disp) : (s.updDisp n f).agenda = s.agenda := rfl
@[simp] theorem State.updDisp_chosen (s : State) (n : Nat) (f : Disp → Disp) : (s.updDisp n f).chosen = s.chosen := rfl
@[simp] theorem State.updDisp_cur (s : State) (n : Nat) (f : Disp → Disp) : (s.updDisp n f).cur = s.cur := rfl
@[simp] theorem State.updDisp_waited (s : State) (n : Nat) (f : Disp → Disp) : (s.updDisp n f).waited = s.waited := rfl
@[simp] theorem State.updDisp_lacks (s : State) (n : Nat) (f : Disp → Disp) : (s.updDisp n f).lacks = s.lacks := rfl
@[simp] theorem State.updDisp_freeN (s : State) (n : Nat) (f : Disp → Disp) : (s.updDisp n f).freeN = s.freeN := rfl
@[simp] theorem State.updDisp_nextUid (s : State) (n : Nat) (f : Disp → Disp) : (s.updDisp n f).nextUid = s.nextUid := rfl
@[simp] theorem State.updDisp_turn (s : State) (n : Nat) (f : Disp → Disp) : (s.updDisp n f).turn = s.turn := rfl

@[simp] theorem State.updMe_mem (s : State) (f : Ctx → Ctx) : (s.updMe f).mem = s.mem := rfl
@[simp] theorem State.updMe_poison (s : State) (f : Ctx → Ctx) : (s.updMe f).poison = s.poison := rfl
@[simp] theorem State.updMe_poisonDie (s : State) (f : Ctx → Ctx) : (s.updMe f).poisonDie = s.poisonDie := rfl
@[simp] theorem State.updMe_flaws (s : State) (f : Ctx → Ctx) : (s.updMe f).flaws = s.flaws := rfl
@[simp] theorem State.updMe_landLost (s : State) (f : Ctx → Ctx) : (s.updMe f).landLost = s.landLost := rfl
@[simp] theorem State.updMe_hotReqs (s : State) (f : Ctx → Ctx) : (s.updMe f).hotReqs = s.hotReqs := rfl
@[simp] theorem State.updMe_reg (s : State) (f : Ctx → Ctx) : (s.updMe f).reg = s.reg := rfl
@[simp] theorem State.updMe_homeLines (s : State) (f : Ctx → Ctx) : (s.updMe f).homeLines = s.homeLines := rfl
@[simp] theorem State.updMe_core (s : State) (f : Ctx → Ctx) : (s.updMe f).core = s.core := rfl
@[simp] theorem State.updMe_cl (s : State) (f : Ctx → Ctx) : (s.updMe f).cl = s.cl := rfl
@[simp] theorem State.updMe_disp (s : State) (f : Ctx → Ctx) : (s.updMe f).disp = s.disp := rfl
@[simp] theorem State.updMe_insts (s : State) (f : Ctx → Ctx) : (s.updMe f).insts = s.insts := rfl
@[simp] theorem State.updMe_nextInst (s : State) (f : Ctx → Ctx) : (s.updMe f).nextInst = s.nextInst := rfl
@[simp] theorem State.updMe_locks (s : State) (f : Ctx → Ctx) : (s.updMe f).locks = s.locks := rfl
@[simp] theorem State.updMe_heldLocks (s : State) (f : Ctx → Ctx) : (s.updMe f).heldLocks = s.heldLocks := rfl
@[simp] theorem State.updMe_groups (s : State) (f : Ctx → Ctx) : (s.updMe f).groups = s.groups := rfl
@[simp] theorem State.updMe_msgs (s : State) (f : Ctx → Ctx) : (s.updMe f).msgs = s.msgs := rfl
@[simp] theorem State.updMe_pend (s : State) (f : Ctx → Ctx) : (s.updMe f).pend = s.pend := rfl
@[simp] theorem State.updMe_nextPend (s : State) (f : Ctx → Ctx) : (s.updMe f).nextPend = s.nextPend := rfl
@[simp] theorem State.updMe_baseq (s : State) (f : Ctx → Ctx) : (s.updMe f).baseq = s.baseq := rfl
@[simp] theorem State.updMe_hits (s : State) (f : Ctx → Ctx) : (s.updMe f).hits = s.hits := rfl
@[simp] theorem State.updMe_notices (s : State) (f : Ctx → Ctx) : (s.updMe f).notices = s.notices := rfl
@[simp] theorem State.updMe_pkgid (s : State) (f : Ctx → Ctx) : (s.updMe f).pkgid = s.pkgid := rfl
@[simp] theorem State.updMe_route (s : State) (f : Ctx → Ctx) : (s.updMe f).route = s.route := rfl
@[simp] theorem State.updMe_mbicfg (s : State) (f : Ctx → Ctx) : (s.updMe f).mbicfg = s.mbicfg := rfl
@[simp] theorem State.updMe_mbiNext (s : State) (f : Ctx → Ctx) : (s.updMe f).mbiNext = s.mbiNext := rfl
@[simp] theorem State.updMe_portfail (s : State) (f : Ctx → Ctx) : (s.updMe f).portfail = s.portfail := rfl
@[simp] theorem State.updMe_bootstat (s : State) (f : Ctx → Ctx) : (s.updMe f).bootstat = s.bootstat := rfl
@[simp] theorem State.updMe_sd (s : State) (f : Ctx → Ctx) : (s.updMe f).sd = s.sd := rfl
@[simp] theorem State.updMe_agCore (s : State) (f : Ctx → Ctx) : (s.updMe f).agCore = s.agCore := rfl
@[simp] theorem State.updMe_agDie (s : State) (f : Ctx → Ctx) : (s.updMe f).agDie = s.agDie := rfl
@[simp] theorem State.updMe_agPkg (s : State) (f : Ctx → Ctx) : (s.updMe f).agPkg = s.agPkg := rfl
@[simp] theorem State.updMe_fuse (s : State) (f : Ctx → Ctx) : (s.updMe f).fuse = s.fuse := rfl
@[simp] theorem State.updMe_badStacks (s : State) (f : Ctx → Ctx) : (s.updMe f).badStacks = s.badStacks := rfl
@[simp] theorem State.updMe_grants (s : State) (f : Ctx → Ctx) : (s.updMe f).grants = s.grants := rfl
@[simp] theorem State.updMe_leases (s : State) (f : Ctx → Ctx) : (s.updMe f).leases = s.leases := rfl
@[simp] theorem State.updMe_edgeFail (s : State) (f : Ctx → Ctx) : (s.updMe f).edgeFail = s.edgeFail := rfl
@[simp] theorem State.updMe_cxlDown (s : State) (f : Ctx → Ctx) : (s.updMe f).cxlDown = s.cxlDown := rfl
@[simp] theorem State.updMe_msixMask (s : State) (f : Ctx → Ctx) : (s.updMe f).msixMask = s.msixMask := rfl
@[simp] theorem State.updMe_msixPend (s : State) (f : Ctx → Ctx) : (s.updMe f).msixPend = s.msixPend := rfl
@[simp] theorem State.updMe_fc (s : State) (f : Ctx → Ctx) : (s.updMe f).fc = s.fc := rfl
@[simp] theorem State.updMe_nextPeer (s : State) (f : Ctx → Ctx) : (s.updMe f).nextPeer = s.nextPeer := rfl
@[simp] theorem State.updMe_out (s : State) (f : Ctx → Ctx) : (s.updMe f).out = s.out := rfl
@[simp] theorem State.updMe_agenda (s : State) (f : Ctx → Ctx) : (s.updMe f).agenda = s.agenda := rfl
@[simp] theorem State.updMe_chosen (s : State) (f : Ctx → Ctx) : (s.updMe f).chosen = s.chosen := rfl
@[simp] theorem State.updMe_cur (s : State) (f : Ctx → Ctx) : (s.updMe f).cur = s.cur := rfl
@[simp] theorem State.updMe_waited (s : State) (f : Ctx → Ctx) : (s.updMe f).waited = s.waited := rfl
@[simp] theorem State.updMe_lacks (s : State) (f : Ctx → Ctx) : (s.updMe f).lacks = s.lacks := rfl
@[simp] theorem State.updMe_freeN (s : State) (f : Ctx → Ctx) : (s.updMe f).freeN = s.freeN := rfl
@[simp] theorem State.updMe_nextUid (s : State) (f : Ctx → Ctx) : (s.updMe f).nextUid = s.nextUid := rfl
@[simp] theorem State.updMe_turn (s : State) (f : Ctx → Ctx) : (s.updMe f).turn = s.turn := rfl

/-! ### Fields of a context -/

@[simp] theorem Ctx.setX_occ (c : Ctx) (r : Nat) (v : Word) : (c.setX r v).occ = c.occ := by unfold Ctx.setX; split <;> rfl
@[simp] theorem Ctx.setX_uid (c : Ctx) (r : Nat) (v : Word) : (c.setX r v).uid = c.uid := by unfold Ctx.setX; split <;> rfl
@[simp] theorem Ctx.setX_tid (c : Ctx) (r : Nat) (v : Word) : (c.setX r v).tid = c.tid := by unfold Ctx.setX; split <;> rfl
@[simp] theorem Ctx.setX_pc (c : Ctx) (r : Nat) (v : Word) : (c.setX r v).pc = c.pc := by unfold Ctx.setX; split <;> rfl
@[simp] theorem Ctx.setX_pl (c : Ctx) (r : Nat) (v : Word) : (c.setX r v).pl = c.pl := by unfold Ctx.setX; split <;> rfl
@[simp] theorem Ctx.setX_ergBit (c : Ctx) (r : Nat) (v : Word) : (c.setX r v).ergBit = c.ergBit := by unfold Ctx.setX; split <;> rfl
@[simp] theorem Ctx.setX_trapBit (c : Ctx) (r : Nat) (v : Word) : (c.setX r v).trapBit = c.trapBit := by unfold Ctx.setX; split <;> rfl
@[simp] theorem Ctx.setX_nopre (c : Ctx) (r : Nat) (v : Word) : (c.setX r v).nopre = c.nopre := by unfold Ctx.setX; split <;> rfl
@[simp] theorem Ctx.setX_tstatus (c : Ctx) (r : Nat) (v : Word) : (c.setX r v).tstatus = c.tstatus := by unfold Ctx.setX; split <;> rfl
@[simp] theorem Ctx.setX_trappc (c : Ctx) (r : Nat) (v : Word) : (c.setX r v).trappc = c.trappc := by unfold Ctx.setX; split <;> rfl
@[simp] theorem Ctx.setX_trapcause (c : Ctx) (r : Nat) (v : Word) : (c.setX r v).trapcause = c.trapcause := by unfold Ctx.setX; split <;> rfl
@[simp] theorem Ctx.setX_trapval (c : Ctx) (r : Nat) (v : Word) : (c.setX r v).trapval = c.trapval := by unfold Ctx.setX; split <;> rfl
@[simp] theorem Ctx.setX_trapmask (c : Ctx) (r : Nat) (v : Word) : (c.setX r v).trapmask = c.trapmask := by unfold Ctx.setX; split <;> rfl
@[simp] theorem Ctx.setX_ptbase (c : Ctx) (r : Nat) (v : Word) : (c.setX r v).ptbase = c.ptbase := by unfold Ctx.setX; split <;> rfl
@[simp] theorem Ctx.setX_asid (c : Ctx) (r : Nat) (v : Word) : (c.setX r v).asid = c.asid := by unfold Ctx.setX; split <;> rfl
@[simp] theorem Ctx.setX_fcsr (c : Ctx) (r : Nat) (v : Word) : (c.setX r v).fcsr = c.fcsr := by unfold Ctx.setX; split <;> rfl
@[simp] theorem Ctx.setX_seed (c : Ctx) (r : Nat) (v : Word) : (c.setX r v).seed = c.seed := by unfold Ctx.setX; split <;> rfl
@[simp] theorem Ctx.setX_vs (c : Ctx) (r : Nat) (v : Word) : (c.setX r v).vs = c.vs := by unfold Ctx.setX; split <;> rfl
@[simp] theorem Ctx.setX_line (c : Ctx) (r : Nat) (v : Word) : (c.setX r v).line = c.line := by unfold Ctx.setX; split <;> rfl
@[simp] theorem Ctx.setX_wake (c : Ctx) (r : Nat) (v : Word) : (c.setX r v).wake = c.wake := by unfold Ctx.setX; split <;> rfl
@[simp] theorem Ctx.setX_fbad (c : Ctx) (r : Nat) (v : Word) : (c.setX r v).fbad = c.fbad := by unfold Ctx.setX; split <;> rfl
@[simp] theorem Ctx.setX_short (c : Ctx) (r : Nat) (v : Word) : (c.setX r v).short = c.short := by unfold Ctx.setX; split <;> rfl
@[simp] theorem Ctx.setX_hold (c : Ctx) (r : Nat) (v : Word) : (c.setX r v).hold = c.hold := by unfold Ctx.setX; split <;> rfl
@[simp] theorem Ctx.setX_issued (c : Ctx) (r : Nat) (v : Word) : (c.setX r v).issued = c.issued := by unfold Ctx.setX; split <;> rfl
@[simp] theorem Ctx.setX_hmsg (c : Ctx) (r : Nat) (v : Word) : (c.setX r v).hmsg = c.hmsg := by unfold Ctx.setX; split <;> rfl
@[simp] theorem Ctx.setX_hchan (c : Ctx) (r : Nat) (v : Word) : (c.setX r v).hchan = c.hchan := by unfold Ctx.setX; split <;> rfl
@[simp] theorem Ctx.setX_entry (c : Ctx) (r : Nat) (v : Word) : (c.setX r v).entry = c.entry := by unfold Ctx.setX; split <;> rfl
@[simp] theorem Ctx.setX_moving (c : Ctx) (r : Nat) (v : Word) : (c.setX r v).moving = c.moving := by unfold Ctx.setX; split <;> rfl
@[simp] theorem Ctx.setX_inst (c : Ctx) (r : Nat) (v : Word) : (c.setX r v).inst = c.inst := by unfold Ctx.setX; split <;> rfl
@[simp] theorem Ctx.setX_order (c : Ctx) (r : Nat) (v : Word) : (c.setX r v).order = c.order := by unfold Ctx.setX; split <;> rfl
@[simp] theorem Ctx.setX_lease (c : Ctx) (r : Nat) (v : Word) : (c.setX r v).lease = c.lease := by unfold Ctx.setX; split <;> rfl
@[simp] theorem Ctx.setX_leaseK (c : Ctx) (r : Nat) (v : Word) : (c.setX r v).leaseK = c.leaseK := by unfold Ctx.setX; split <;> rfl
@[simp] theorem Ctx.setX_leaseUsed (c : Ctx) (r : Nat) (v : Word) : (c.setX r v).leaseUsed = c.leaseUsed := by unfold Ctx.setX; split <;> rfl
@[simp] theorem Ctx.setX_leaseSince (c : Ctx) (r : Nat) (v : Word) : (c.setX r v).leaseSince = c.leaseSince := by unfold Ctx.setX; split <;> rfl
@[simp] theorem Ctx.setX_stream (c : Ctx) (r : Nat) (v : Word) : (c.setX r v).stream = c.stream := by unfold Ctx.setX; split <;> rfl
@[simp] theorem Ctx.setX_comb (c : Ctx) (r : Nat) (v : Word) : (c.setX r v).comb = c.comb := by unfold Ctx.setX; split <;> rfl
@[simp] theorem Ctx.setX_reports (c : Ctx) (r : Nat) (v : Word) : (c.setX r v).reports = c.reports := by unfold Ctx.setX; split <;> rfl
@[simp] theorem Ctx.setX_msyncReports (c : Ctx) (r : Nat) (v : Word) : (c.setX r v).msyncReports = c.msyncReports := by unfold Ctx.setX; split <;> rfl
@[simp] theorem Ctx.setX_ergSize (c : Ctx) (r : Nat) (v : Word) : (c.setX r v).ergSize = c.ergSize := by unfold Ctx.setX; split <;> rfl
@[simp] theorem Ctx.setX_ergHeld (c : Ctx) (r : Nat) (v : Word) : (c.setX r v).ergHeld = c.ergHeld := by unfold Ctx.setX; split <;> rfl
@[simp] theorem Ctx.setX_wait (c : Ctx) (r : Nat) (v : Word) : (c.setX r v).wait = c.wait := by unfold Ctx.setX; split <;> rfl
@[simp] theorem Ctx.setX_token (c : Ctx) (r : Nat) (v : Word) : (c.setX r v).token = c.token := by unfold Ctx.setX; split <;> rfl
@[simp] theorem Ctx.setX_asks (c : Ctx) (r : Nat) (v : Word) : (c.setX r v).asks = c.asks := by unfold Ctx.setX; split <;> rfl
@[simp] theorem Ctx.setX_pas (c : Ctx) (r : Nat) (v : Word) : (c.setX r v).pas = c.pas := by unfold Ctx.setX; split <;> rfl
@[simp] theorem Ctx.setX_saving (c : Ctx) (r : Nat) (v : Word) : (c.setX r v).saving = c.saving := by unfold Ctx.setX; split <;> rfl
@[simp] theorem Ctx.setX_regErr (c : Ctx) (r : Nat) (v : Word) : (c.setX r v).regErr = c.regErr := by unfold Ctx.setX; split <;> rfl
@[simp] theorem Ctx.advance_occ (c : Ctx) : c.advance.occ = c.occ := by unfold Ctx.advance; split <;> rfl
@[simp] theorem Ctx.advance_uid (c : Ctx) : c.advance.uid = c.uid := by unfold Ctx.advance; split <;> rfl
@[simp] theorem Ctx.advance_tid (c : Ctx) : c.advance.tid = c.tid := by unfold Ctx.advance; split <;> rfl
@[simp] theorem Ctx.advance_x (c : Ctx) : c.advance.x = c.x := by unfold Ctx.advance; split <;> rfl
@[simp] theorem Ctx.advance_xs (c : Ctx) : c.advance.xs = c.xs := by unfold Ctx.advance; split <;> rfl
@[simp] theorem Ctx.advance_pl (c : Ctx) : c.advance.pl = c.pl := by unfold Ctx.advance; split <;> rfl
@[simp] theorem Ctx.advance_ergBit (c : Ctx) : c.advance.ergBit = c.ergBit := by unfold Ctx.advance; split <;> rfl
@[simp] theorem Ctx.advance_trapBit (c : Ctx) : c.advance.trapBit = c.trapBit := by unfold Ctx.advance; split <;> rfl
@[simp] theorem Ctx.advance_nopre (c : Ctx) : c.advance.nopre = c.nopre := by unfold Ctx.advance; split <;> rfl
@[simp] theorem Ctx.advance_tstatus (c : Ctx) : c.advance.tstatus = c.tstatus := by unfold Ctx.advance; split <;> rfl
@[simp] theorem Ctx.advance_trappc (c : Ctx) : c.advance.trappc = c.trappc := by unfold Ctx.advance; split <;> rfl
@[simp] theorem Ctx.advance_trapcause (c : Ctx) : c.advance.trapcause = c.trapcause := by unfold Ctx.advance; split <;> rfl
@[simp] theorem Ctx.advance_trapval (c : Ctx) : c.advance.trapval = c.trapval := by unfold Ctx.advance; split <;> rfl
@[simp] theorem Ctx.advance_trapmask (c : Ctx) : c.advance.trapmask = c.trapmask := by unfold Ctx.advance; split <;> rfl
@[simp] theorem Ctx.advance_ptbase (c : Ctx) : c.advance.ptbase = c.ptbase := by unfold Ctx.advance; split <;> rfl
@[simp] theorem Ctx.advance_asid (c : Ctx) : c.advance.asid = c.asid := by unfold Ctx.advance; split <;> rfl
@[simp] theorem Ctx.advance_fcsr (c : Ctx) : c.advance.fcsr = c.fcsr := by unfold Ctx.advance; split <;> rfl
@[simp] theorem Ctx.advance_seed (c : Ctx) : c.advance.seed = c.seed := by unfold Ctx.advance; split <;> rfl
@[simp] theorem Ctx.advance_vs (c : Ctx) : c.advance.vs = c.vs := by unfold Ctx.advance; split <;> rfl
@[simp] theorem Ctx.advance_wake (c : Ctx) : c.advance.wake = c.wake := by unfold Ctx.advance; split <;> rfl
@[simp] theorem Ctx.advance_fbad (c : Ctx) : c.advance.fbad = c.fbad := by unfold Ctx.advance; split <;> rfl
@[simp] theorem Ctx.advance_short (c : Ctx) : c.advance.short = c.short := by unfold Ctx.advance; split <;> rfl
@[simp] theorem Ctx.advance_hold (c : Ctx) : c.advance.hold = c.hold := by unfold Ctx.advance; split <;> rfl
@[simp] theorem Ctx.advance_issued (c : Ctx) : c.advance.issued = c.issued := by unfold Ctx.advance; split <;> rfl
@[simp] theorem Ctx.advance_hmsg (c : Ctx) : c.advance.hmsg = c.hmsg := by unfold Ctx.advance; split <;> rfl
@[simp] theorem Ctx.advance_hchan (c : Ctx) : c.advance.hchan = c.hchan := by unfold Ctx.advance; split <;> rfl
@[simp] theorem Ctx.advance_entry (c : Ctx) : c.advance.entry = c.entry := by unfold Ctx.advance; split <;> rfl
@[simp] theorem Ctx.advance_moving (c : Ctx) : c.advance.moving = c.moving := by unfold Ctx.advance; split <;> rfl
@[simp] theorem Ctx.advance_inst (c : Ctx) : c.advance.inst = c.inst := by unfold Ctx.advance; split <;> rfl
@[simp] theorem Ctx.advance_order (c : Ctx) : c.advance.order = c.order := by unfold Ctx.advance; split <;> rfl
@[simp] theorem Ctx.advance_lease (c : Ctx) : c.advance.lease = c.lease := by unfold Ctx.advance; split <;> rfl
@[simp] theorem Ctx.advance_leaseK (c : Ctx) : c.advance.leaseK = c.leaseK := by unfold Ctx.advance; split <;> rfl
@[simp] theorem Ctx.advance_leaseUsed (c : Ctx) : c.advance.leaseUsed = c.leaseUsed := by unfold Ctx.advance; split <;> rfl
@[simp] theorem Ctx.advance_leaseSince (c : Ctx) : c.advance.leaseSince = c.leaseSince := by unfold Ctx.advance; split <;> rfl
@[simp] theorem Ctx.advance_stream (c : Ctx) : c.advance.stream = c.stream := by unfold Ctx.advance; split <;> rfl
@[simp] theorem Ctx.advance_comb (c : Ctx) : c.advance.comb = c.comb := by unfold Ctx.advance; split <;> rfl
@[simp] theorem Ctx.advance_reports (c : Ctx) : c.advance.reports = c.reports := by unfold Ctx.advance; split <;> rfl
@[simp] theorem Ctx.advance_msyncReports (c : Ctx) : c.advance.msyncReports = c.msyncReports := by unfold Ctx.advance; split <;> rfl
@[simp] theorem Ctx.advance_ergSize (c : Ctx) : c.advance.ergSize = c.ergSize := by unfold Ctx.advance; split <;> rfl
@[simp] theorem Ctx.advance_ergHeld (c : Ctx) : c.advance.ergHeld = c.ergHeld := by unfold Ctx.advance; split <;> rfl
@[simp] theorem Ctx.advance_wait (c : Ctx) : c.advance.wait = c.wait := by unfold Ctx.advance; split <;> rfl
@[simp] theorem Ctx.advance_token (c : Ctx) : c.advance.token = c.token := by unfold Ctx.advance; split <;> rfl
@[simp] theorem Ctx.advance_asks (c : Ctx) : c.advance.asks = c.asks := by unfold Ctx.advance; split <;> rfl
@[simp] theorem Ctx.advance_pas (c : Ctx) : c.advance.pas = c.pas := by unfold Ctx.advance; split <;> rfl
@[simp] theorem Ctx.advance_saving (c : Ctx) : c.advance.saving = c.saving := by unfold Ctx.advance; split <;> rfl
@[simp] theorem Ctx.advance_regErr (c : Ctx) : c.advance.regErr = c.regErr := by unfold Ctx.advance; split <;> rfl
@[simp] theorem Ctx.done_occ (c : Ctx) : c.done.occ = c.occ := rfl
@[simp] theorem Ctx.done_uid (c : Ctx) : c.done.uid = c.uid := rfl
@[simp] theorem Ctx.done_tid (c : Ctx) : c.done.tid = c.tid := rfl
@[simp] theorem Ctx.done_x (c : Ctx) : c.done.x = c.x := rfl
@[simp] theorem Ctx.done_xs (c : Ctx) : c.done.xs = c.xs := rfl
@[simp] theorem Ctx.done_pc (c : Ctx) : c.done.pc = c.pc := rfl
@[simp] theorem Ctx.done_pl (c : Ctx) : c.done.pl = c.pl := rfl
@[simp] theorem Ctx.done_ergBit (c : Ctx) : c.done.ergBit = c.ergBit := rfl
@[simp] theorem Ctx.done_trapBit (c : Ctx) : c.done.trapBit = c.trapBit := rfl
@[simp] theorem Ctx.done_nopre (c : Ctx) : c.done.nopre = c.nopre := rfl
@[simp] theorem Ctx.done_tstatus (c : Ctx) : c.done.tstatus = c.tstatus := rfl
@[simp] theorem Ctx.done_trappc (c : Ctx) : c.done.trappc = c.trappc := rfl
@[simp] theorem Ctx.done_trapcause (c : Ctx) : c.done.trapcause = c.trapcause := rfl
@[simp] theorem Ctx.done_trapval (c : Ctx) : c.done.trapval = c.trapval := rfl
@[simp] theorem Ctx.done_trapmask (c : Ctx) : c.done.trapmask = c.trapmask := rfl
@[simp] theorem Ctx.done_ptbase (c : Ctx) : c.done.ptbase = c.ptbase := rfl
@[simp] theorem Ctx.done_asid (c : Ctx) : c.done.asid = c.asid := rfl
@[simp] theorem Ctx.done_fcsr (c : Ctx) : c.done.fcsr = c.fcsr := rfl
@[simp] theorem Ctx.done_seed (c : Ctx) : c.done.seed = c.seed := rfl
@[simp] theorem Ctx.done_vs (c : Ctx) : c.done.vs = c.vs := rfl
@[simp] theorem Ctx.done_line (c : Ctx) : c.done.line = c.line := rfl
@[simp] theorem Ctx.done_wake (c : Ctx) : c.done.wake = c.wake := rfl
@[simp] theorem Ctx.done_fbad (c : Ctx) : c.done.fbad = c.fbad := rfl
@[simp] theorem Ctx.done_short (c : Ctx) : c.done.short = c.short := rfl
@[simp] theorem Ctx.done_hold (c : Ctx) : c.done.hold = c.hold := rfl
@[simp] theorem Ctx.done_issued (c : Ctx) : c.done.issued = c.issued := rfl
@[simp] theorem Ctx.done_hmsg (c : Ctx) : c.done.hmsg = c.hmsg := rfl
@[simp] theorem Ctx.done_hchan (c : Ctx) : c.done.hchan = c.hchan := rfl
@[simp] theorem Ctx.done_moving (c : Ctx) : c.done.moving = c.moving := rfl
@[simp] theorem Ctx.done_inst (c : Ctx) : c.done.inst = c.inst := rfl
@[simp] theorem Ctx.done_order (c : Ctx) : c.done.order = c.order := rfl
@[simp] theorem Ctx.done_lease (c : Ctx) : c.done.lease = c.lease := rfl
@[simp] theorem Ctx.done_leaseK (c : Ctx) : c.done.leaseK = c.leaseK := rfl
@[simp] theorem Ctx.done_leaseUsed (c : Ctx) : c.done.leaseUsed = c.leaseUsed := rfl
@[simp] theorem Ctx.done_leaseSince (c : Ctx) : c.done.leaseSince = c.leaseSince := rfl
@[simp] theorem Ctx.done_stream (c : Ctx) : c.done.stream = c.stream := rfl
@[simp] theorem Ctx.done_comb (c : Ctx) : c.done.comb = c.comb := rfl
@[simp] theorem Ctx.done_reports (c : Ctx) : c.done.reports = c.reports := rfl
@[simp] theorem Ctx.done_msyncReports (c : Ctx) : c.done.msyncReports = c.msyncReports := rfl
@[simp] theorem Ctx.done_ergSize (c : Ctx) : c.done.ergSize = c.ergSize := rfl
@[simp] theorem Ctx.done_ergHeld (c : Ctx) : c.done.ergHeld = c.ergHeld := rfl
@[simp] theorem Ctx.done_saving (c : Ctx) : c.done.saving = c.saving := rfl
@[simp] theorem Ctx.done_regErr (c : Ctx) : c.done.regErr = c.regErr := rfl
@[simp] theorem Ctx.goto_occ (c : Ctx) (t : Nat) : (c.goto t).occ = c.occ := rfl
@[simp] theorem Ctx.goto_uid (c : Ctx) (t : Nat) : (c.goto t).uid = c.uid := rfl
@[simp] theorem Ctx.goto_tid (c : Ctx) (t : Nat) : (c.goto t).tid = c.tid := rfl
@[simp] theorem Ctx.goto_x (c : Ctx) (t : Nat) : (c.goto t).x = c.x := rfl
@[simp] theorem Ctx.goto_xs (c : Ctx) (t : Nat) : (c.goto t).xs = c.xs := rfl
@[simp] theorem Ctx.goto_pl (c : Ctx) (t : Nat) : (c.goto t).pl = c.pl := rfl
@[simp] theorem Ctx.goto_ergBit (c : Ctx) (t : Nat) : (c.goto t).ergBit = c.ergBit := rfl
@[simp] theorem Ctx.goto_trapBit (c : Ctx) (t : Nat) : (c.goto t).trapBit = c.trapBit := rfl
@[simp] theorem Ctx.goto_nopre (c : Ctx) (t : Nat) : (c.goto t).nopre = c.nopre := rfl
@[simp] theorem Ctx.goto_tstatus (c : Ctx) (t : Nat) : (c.goto t).tstatus = c.tstatus := rfl
@[simp] theorem Ctx.goto_trappc (c : Ctx) (t : Nat) : (c.goto t).trappc = c.trappc := rfl
@[simp] theorem Ctx.goto_trapcause (c : Ctx) (t : Nat) : (c.goto t).trapcause = c.trapcause := rfl
@[simp] theorem Ctx.goto_trapval (c : Ctx) (t : Nat) : (c.goto t).trapval = c.trapval := rfl
@[simp] theorem Ctx.goto_trapmask (c : Ctx) (t : Nat) : (c.goto t).trapmask = c.trapmask := rfl
@[simp] theorem Ctx.goto_ptbase (c : Ctx) (t : Nat) : (c.goto t).ptbase = c.ptbase := rfl
@[simp] theorem Ctx.goto_asid (c : Ctx) (t : Nat) : (c.goto t).asid = c.asid := rfl
@[simp] theorem Ctx.goto_fcsr (c : Ctx) (t : Nat) : (c.goto t).fcsr = c.fcsr := rfl
@[simp] theorem Ctx.goto_seed (c : Ctx) (t : Nat) : (c.goto t).seed = c.seed := rfl
@[simp] theorem Ctx.goto_vs (c : Ctx) (t : Nat) : (c.goto t).vs = c.vs := rfl
@[simp] theorem Ctx.goto_wake (c : Ctx) (t : Nat) : (c.goto t).wake = c.wake := rfl
@[simp] theorem Ctx.goto_fbad (c : Ctx) (t : Nat) : (c.goto t).fbad = c.fbad := rfl
@[simp] theorem Ctx.goto_short (c : Ctx) (t : Nat) : (c.goto t).short = c.short := rfl
@[simp] theorem Ctx.goto_hold (c : Ctx) (t : Nat) : (c.goto t).hold = c.hold := rfl
@[simp] theorem Ctx.goto_issued (c : Ctx) (t : Nat) : (c.goto t).issued = c.issued := rfl
@[simp] theorem Ctx.goto_hmsg (c : Ctx) (t : Nat) : (c.goto t).hmsg = c.hmsg := rfl
@[simp] theorem Ctx.goto_hchan (c : Ctx) (t : Nat) : (c.goto t).hchan = c.hchan := rfl
@[simp] theorem Ctx.goto_entry (c : Ctx) (t : Nat) : (c.goto t).entry = c.entry := rfl
@[simp] theorem Ctx.goto_moving (c : Ctx) (t : Nat) : (c.goto t).moving = c.moving := rfl
@[simp] theorem Ctx.goto_inst (c : Ctx) (t : Nat) : (c.goto t).inst = c.inst := rfl
@[simp] theorem Ctx.goto_order (c : Ctx) (t : Nat) : (c.goto t).order = c.order := rfl
@[simp] theorem Ctx.goto_lease (c : Ctx) (t : Nat) : (c.goto t).lease = c.lease := rfl
@[simp] theorem Ctx.goto_leaseK (c : Ctx) (t : Nat) : (c.goto t).leaseK = c.leaseK := rfl
@[simp] theorem Ctx.goto_leaseUsed (c : Ctx) (t : Nat) : (c.goto t).leaseUsed = c.leaseUsed := rfl
@[simp] theorem Ctx.goto_leaseSince (c : Ctx) (t : Nat) : (c.goto t).leaseSince = c.leaseSince := rfl
@[simp] theorem Ctx.goto_stream (c : Ctx) (t : Nat) : (c.goto t).stream = c.stream := rfl
@[simp] theorem Ctx.goto_comb (c : Ctx) (t : Nat) : (c.goto t).comb = c.comb := rfl
@[simp] theorem Ctx.goto_reports (c : Ctx) (t : Nat) : (c.goto t).reports = c.reports := rfl
@[simp] theorem Ctx.goto_msyncReports (c : Ctx) (t : Nat) : (c.goto t).msyncReports = c.msyncReports := rfl
@[simp] theorem Ctx.goto_ergSize (c : Ctx) (t : Nat) : (c.goto t).ergSize = c.ergSize := rfl
@[simp] theorem Ctx.goto_ergHeld (c : Ctx) (t : Nat) : (c.goto t).ergHeld = c.ergHeld := rfl
@[simp] theorem Ctx.goto_wait (c : Ctx) (t : Nat) : (c.goto t).wait = c.wait := rfl
@[simp] theorem Ctx.goto_token (c : Ctx) (t : Nat) : (c.goto t).token = c.token := rfl
@[simp] theorem Ctx.goto_asks (c : Ctx) (t : Nat) : (c.goto t).asks = c.asks := rfl
@[simp] theorem Ctx.goto_pas (c : Ctx) (t : Nat) : (c.goto t).pas = c.pas := rfl
@[simp] theorem Ctx.goto_saving (c : Ctx) (t : Nat) : (c.goto t).saving = c.saving := rfl
@[simp] theorem Ctx.goto_regErr (c : Ctx) (t : Nat) : (c.goto t).regErr = c.regErr := rfl

/-! ### Registers (R76) -/

/-- x0 reads zero. -/
@[simp] theorem Ctx.getX_zero (c : Ctx) : c.getX 0 = 0 := rfl

/-- x0 is always full. -/
@[simp] theorem Ctx.stX_zero (c : Ctx) : c.stX 0 = .full := rfl

/-- A write to x0 is discarded. -/
@[simp] theorem Ctx.setX_zero (c : Ctx) (v : Word) : c.setX 0 v = c := rfl

/-- A written register reads the value. -/
theorem Ctx.getX_setX_self (c : Ctx) {r : Nat} (v : Word) (h : r ≠ 0) : (c.setX r v).getX r = v := by
  simp [Ctx.getX, Ctx.setX, h]

/-- Every other register keeps its value. -/
theorem Ctx.getX_setX_ne (c : Ctx) {r q : Nat} (v : Word) (h : q ≠ r) : (c.setX r v).getX q = c.getX q := by
  unfold Ctx.getX Ctx.setX
  split
  · rfl
  · split
    · rfl
    · simp [KMap.find_ins_ne _ _ _ h]

/-- A written register is full. -/
theorem Ctx.stX_setX_self (c : Ctx) (r : Nat) (v : Word) : (c.setX r v).stX r = .full := by
  unfold Ctx.stX Ctx.setX
  split
  · rfl
  · simp

@[simp] theorem Ctx.getX_advance (c : Ctx) (r : Nat) : c.advance.getX r = c.getX r := by
  simp [Ctx.getX]
@[simp] theorem Ctx.getX_done (c : Ctx) (r : Nat) : c.done.getX r = c.getX r := rfl
@[simp] theorem Ctx.getX_goto (c : Ctx) (r t : Nat) : (c.goto t).getX r = c.getX r := rfl

end Machine
end Sys2Proof
end

