-- ==== Sys2Proof/Laws/Ops.lean ====
section
/-! SUPPORT. How computations of a meaning run, what issuing one answers, and one lemma per shared operation: operands, results, registers, the wait point. -/
namespace Sys2Proof.Machine

section Monad
variable {α β : Type}

@[simp] theorem go_pure (a : α) (s : State) : (pure a : M α).go s = (.ok a, s) := rfl

/-- One computation after another. -/
@[simp] theorem go_bind (m : M α) (f : α → M β) (s : State) :
    (m >>= f).go s = match m.go s with
      | (.ok a, s') => (f a).go s'
      | (.error e, s') => (.error e, s') := by
  simp only [M.go, bind, ExceptT.bind, ExceptT.mk, ExceptT.run, StateT.run, StateT.bind, ExceptT.bindCont]
  cases m s with | mk r s' => cases r <;> rfl

/-- A function of a computation's answer. -/
@[simp] theorem go_map (f : α → β) (m : M α) (s : State) :
    (f <$> m).go s = match m.go s with
      | (.ok a, s') => (.ok (f a), s')
      | (.error e, s') => (.error e, s') := by
  rw [show f <$> m = m >>= fun a => pure (f a) from map_eq_pure_bind f m, go_bind]
  rfl

@[simp] theorem go_throw (e : Stop) (s : State) : (throw e : M α).go s = (.error e, s) := rfl
@[simp] theorem go_stall (s : State) : (stall : M α).go s = (.error .stall, s) := rfl
@[simp] theorem go_trap (c v : Nat) (s : State) : (trap c v : M α).go s = (.error (.trap c v 0), s) := rfl
@[simp] theorem go_get (s : State) : (get : M State).go s = (.ok s, s) := rfl
@[simp] theorem go_set (t s : State) : (set t : M PUnit).go s = (.ok ⟨⟩, t) := rfl
@[simp] theorem go_me (s : State) : me.go s = (.ok s.me, s) := rfl
@[simp] theorem go_curId (s : State) : curId.go s = (.ok s.cur, s) := rfl
@[simp] theorem go_upd (f : State → State) (s : State) : (upd f).go s = (.ok (), f s) := rfl
@[simp] theorem go_updMe (f : Ctx → Ctx) (s : State) : (updMe f).go s = (.ok (), s.updMe f) := rfl
@[simp] theorem go_trapIf (b : Bool) (c v : Nat) (s : State) :
    (trapIf b c v).go s = if b then (.error (.trap c v 0), s) else (.ok (), s) := by cases b <;> rfl
@[simp] theorem go_ite (p : Prop) [Decidable p] (a b : M α) (s : State) :
    (if p then a else b).go s = if p then a.go s else b.go s := by split <;> rfl
@[simp] theorem go_readX (a : Src) (s : State) : (readX a).go s = (.ok (s.me.getX a.r.toNat), s) := rfl
@[simp] theorem go_writeX (d : Reg) (v : Word) (s : State) :
    (writeX d v).go s = (.ok (), s.updMe fun c => c.setX d.toNat v) := rfl
@[simp] theorem go_advance (s : State) : advance.go s = (.ok (), s.updMe Ctx.advance) := rfl
@[simp] theorem go_transfer (t : Nat) (s : State) : (transfer t).go s = (.ok (), s.updMe fun c => c.goto t) := rfl
@[simp] theorem go_raise (fl : Nat) (s : State) :
    (raise fl).go s = (.ok (), s.updMe fun c => { c with fcsr := c.fcsr ||| fl }) := rfl
@[simp] theorem go_scalarAddr (a : Src) (off : BitVec 24) (s : State) :
    (scalarAddr a off).go s = (.ok (s.me.getX a.r.toNat + off.signExtend 64).toNat, s) := rfl
@[simp] theorem go_notHandler (s : State) :
    notHandler.go s = if s.cur.isHandler then (.error (.trap Cause.handlerBlock 0 0), s) else (.ok (), s) := by
  simp [notHandler]
@[simp] theorem go_notService (s : State) :
    notService.go s = if isSvc s.cur.core then (.error (.trap Cause.badTarget 0 0), s) else (.ok (), s) := by
  simp [notService]
@[simp] theorem go_notErg (op : Nat) (s : State) :
    (notErg op).go s = if s.me.ergBit && !s.me.trapBit then (.error (.trap Cause.ergState (5 + op * 256) 0), s)
      else (.ok (), s) := by
  simp [notErg]
@[simp] theorem go_acquireM (sc g : Nat) (s : State) :
    (acquireM sc g).go s = (.ok (), s.acquire (s.me.l1s s.cur.core) sc g) := rfl

end Monad

/-! ### Operands (R79, R80, R372) -/

/-- Operands that are there. -/
theorem go_operands {s : State} {srcs dsts : List Opd} (h : s.OpsReady srcs dsts) :
    (operands srcs dsts).go s = (.ok (), s) := by
  obtain ⟨h1, h2, h3, h4⟩ := h
  simp only [operands, go_bind, go_get, h1, h2, h3]
  cases hl : srcs.any Opd.isLast <;> simp_all

/-- A failed source traps with its cause, address and mask. -/
theorem go_operands_failed {s : State} {srcs dsts : List Opd} {c v k : Nat} (h : s.me.failedSrc srcs = some (c, v, k)) :
    (operands srcs dsts).go s = (.error (.trap c v k), s) := by
  simp [operands, h]

/-- An operand that is still empty makes the instruction wait. -/
theorem go_operands_waits {s : State} {srcs dsts : List Opd} (h : s.me.failedSrc srcs = none)
    (hw : (s.me.waitsSrc srcs || s.me.waitsDst dsts) = true) : (operands srcs dsts).go s = (.error .stall, s) := by
  simp only [operands, go_bind, go_get, h, hw, Bool.true_or, if_true, go_stall]

/-- Everything that reading operands can do: it changes nothing. -/
theorem go_operands_state (s : State) (srcs dsts : List Opd) : ((operands srcs dsts).go s).2 = s := by
  simp only [operands, go_bind, go_get]
  split <;> simp
  split <;> simp

/-- No operand at all. -/
theorem State.opsReady_nil (s : State) : s.OpsReady [] [] := ⟨rfl, rfl, rfl, by simp⟩

/-! ### Issuing (R366) -/

variable {m : M Unit} {s t : State}

/-- A meaning that ends. -/
theorem issue_ok (h : m.go s = (.ok (), t)) : issue m s = .next (t.updMe Ctx.done) := by simp [issue, h]

/-- A meaning that traps; the trap of an erg waits for what hand-back waits for (R343). -/
theorem issue_trap {c v k : Nat} (h : m.go s = (.error (.trap c v k), t)) :
    issue m s = .next (s.traps t c v k) := by simp [issue, h, State.traps]

/-- A meaning that waits leaves everything as it was. -/
theorem issue_stall (h : m.go s = (.error .stall, t)) : issue m s = .next { s with waited := true } := by simp [issue, h]

/-- A meaning that sleeps. -/
theorem issue_sleep {w : Wait} (h : m.go s = (.error (.sleep w), t)) :
    issue m s = .next (t.updMe fun c => c.sleeps w) := by simp [issue, h]

/-- Issuing always answers a next state. -/
theorem issue_next (m : M Unit) (s : State) : ∃ t, issue m s = .next t := by
  unfold issue
  split <;> exact ⟨_, rfl⟩

/-! ### Shapes of register instructions -/

/-- One register from two (R209, R210). -/
theorem issue_binary {d : Reg} {a b : Src} (f : Word → Word → Word) (h : s.OpsReady [srcX a, srcX b] [dstX d]) :
    issue (binary d a b f) s = .next (s.writes d (f (s.me.getX a.r.toNat) (s.me.getX b.r.toNat))) := by
  simp [binary, issue, go_operands h, State.writes, State.ends]

/-- One register from one (R211, R212). -/
theorem issue_unary {d : Reg} {a : Src} (f : Word → Word) (h : s.OpsReady [srcX a] [dstX d]) :
    issue (unary d a f) s = .next (s.writes d (f (s.me.getX a.r.toNat))) := by
  simp [unary, issue, go_operands h, State.writes, State.ends]

/-- One register from none (R213). -/
theorem issue_constant {d : Reg} (v : State → Word) (h : s.OpsReady [] [dstX d]) :
    issue (constant d v) s = .next (s.writes d (v s)) := by
  simp [constant, issue, go_operands h, State.writes, State.ends]

/-! ### Waiting for earlier accesses (R156, R393) -/

/-- Nothing is outstanding. -/
theorem go_performed (h : s.unperformed s.me.uid = false) : performed.go s = (.ok (), s) := by
  simp [performed, h]

/-- A wait point with nothing due. -/
theorem go_waitPoint (h : s.Quiet) : waitPoint.go s = (.ok (), s) := by
  simp [waitPoint, go_performed h.1, h.2, firstReport]

/-- Accesses that are not held on their way. -/
theorem go_wayGate {l : List (Nat × Nat × Nat)} (h : s.WayFree l) : (wayGate l).go s = (.ok (), s) := by
  have h' : l.any (fun a => s.heldBack a.1 a.2.1 a.2.2) = false := by simpa [State.WayFree] using h
  simp [wayGate, h']

/-- What waits for its way asks for the recalls that it needs, and changes nothing else: it tries again, or sleeps until a page comes back. -/
theorem go_waitLacks {α : Type} (s : State) (l : List (Option Nat)) :
    (waitLacks l : M α).go s = (.error .stall, s.askRecalls l) ∨
      ∃ page, (waitLacks l : M α).go s = (.error (.sleep (.recallOf page)), s.askRecalls l) := by
  simp only [waitLacks, go_bind, go_upd, go_get]
  cases h : (l.filterMap id).find? fun p => ((s.askRecalls l).lease p).recalled.isSome with
  | none => exact .inl (by simp)
  | some p => exact .inr ⟨p, by simp⟩

/-- Everything that the way of accesses can do: go on, or wait with the recalls that it needs asked for. -/
theorem go_wayGate_cases (s : State) (l : List (Nat × Nat × Nat)) :
    (wayGate l).go s = (.ok (), s) ∨ ∃ r, (wayGate l).go s = (.error .stall, s.askRecalls r) ∨
      ∃ page, (wayGate l).go s = (.error (.sleep (.recallOf page)), s.askRecalls r) := by
  by_cases h : (l.any fun a => s.heldBack a.1 a.2.1 a.2.2) = true
  · exact .inr ⟨_, by simpa [wayGate, h] using go_waitLacks (α := Unit) s _⟩
  · exact .inl (by simp [wayGate, h])

/-- An access that nothing holds back is within reach. -/
theorem reach_open {core pa n : Nat} (h : s.heldBack core pa n = false) : s.reach core pa n = s := by
  simp only [State.heldBack, Bool.or_eq_false_iff, Bool.and_eq_false_iff] at h
  have h2 : ¬ (pa / 2 ^ 49 % 8 = 0 ∧ s.lentPage pa = true) := by
    rintro ⟨a, b⟩
    rcases h.2 with h | h <;> simp_all
  simp only [State.reach, Bool.and_eq_true, decide_eq_true_eq, h2, if_false, h.1]
  rfl

/-- Traffic that crosses no failed edge goes on. -/
theorem cross_open {a b : Nat} (h : s.edgeHeld a b = false) : s.cross a b = s := by simp [State.cross, h]

/-- A step that lacks nothing happens. -/
theorem whole_done {f : State → State} (h : (f s).lacks = s.lacks) : s.whole f = f s := by simp [State.whole, h]

/-- A step that lacks something leaves the state as it is, but for the recalls that it asks for. -/
theorem whole_waits {f : State → State} (h : (f s).lacks ≠ s.lacks) : s.whole f = s.askRecalls (f s).lacks := by
  simp [State.whole, h]

/-- Everything that a recall changes: the page's record, and the traffic to its grantee. -/
theorem askRecall_frame (s : State) (page : Nat) :
    { s.askRecall page with leases := s.leases, out := s.out } = s := by
  unfold State.askRecall
  dsimp only
  split
  · split
    · rfl
    · simp_all [State.sendGrant, State.setLease]
  · rfl

/-- A release once everything is performed and its homes can be reached. -/
theorem go_releaseM (sc g : Nat) (h : s.MayRelease sc g) :
    (releaseM sc g).go s = (.ok (), s.release (s.me.l1s s.cur.core) sc g) := by
  obtain ⟨h1, h2⟩ := h
  by_cases hs : 1 ≤ sc <;> simp [releaseM, go_performed h1, hs]
  simp [go_wayGate (h2 hs)]

end Sys2Proof.Machine
end

