-- ==== Sys2Proof/Laws/Access.lean ====
section
/-! SUPPORT. Accesses: what the gates before an access, the words of locks, groups, landing words and handles, and the questions to a peer answer when nothing stands in their way. -/
namespace Sys2Proof.Machine
open Sys2Proof.Claims

variable {s : State}

/-- Nothing holds the pieces back. -/
theorem go_baseGate {ps : List Piece} {w : Bool} (h : Open s ps w) : (baseGate ps).go s = (.ok (), s) := by
  have : s.WayFree (ps.map fun p => (s.cur.core, p.x.pa, p.len)) := by
    intro a ha
    obtain ⟨p, hp, rfl⟩ := List.mem_map.1 ha
    exact h.1 p hp
  simp only [baseGate, go_bind, go_get, go_wayGate this]

/-- The way to one word is open. -/
theorem go_baseGate_one {x : Xl} {n : Nat} (h : s.heldBack s.cur.core x.pa n = false) :
    (baseGate [⟨x, 0, n⟩]).go s = (.ok (), s) :=
  go_baseGate (w := false) ⟨by simpa using h, by simp⟩

/-- The way to a die is open. -/
theorem go_edgeGate {die : Nat} (h : s.edgeHeld (dieOf s.cur.core) die = false) : (edgeGate die).go s = (.ok (), s) := by
  simp [edgeGate, h]

/-- A word that reads good at its home holds no error there. -/
theorem flawed_of_good {w : Nat} (h : (s.homeWord w).2 = false) : s.flawed w = false := by
  have : s.poisoned w = false := by
    unfold State.homeWord at h
    split at h
    · exact (Bool.or_eq_false_iff.1 h).2
    · exact h
  exact (Bool.or_eq_false_iff.1 this).2

/-- Bytes whose words read good: no cause, and no access meets an error in them. -/
theorem good_bytes {pa n : Nat} (h : s.poisonIn pa n = none) : s.badIn pa n = none ∧ s.metBytes pa n = s := by
  refine ⟨by simp [State.badIn, h], ?_⟩
  have hw : ∀ w ∈ wordsOf pa n, s.met w = s := fun w hm => by
    have := flawed_of_good (s := s) (w := w) (by simpa using List.find?_eq_none.1 h w hm)
    simp [State.met, this]
  unfold State.metBytes
  generalize wordsOf pa n = l at hw
  induction l with
  | nil => rfl
  | cons a r ih =>
    rw [List.foldl_cons, hw a (List.mem_cons_self ..)]
    exact ih fun w hm => hw w (List.mem_cons_of_mem _ hm)

/-- No page is write-blocked. -/
theorem go_blockGate {ps : List Piece} (h : Open s ps true) :
    (blockGate (ps.map fun p => p.x)).go s = (.ok (), s) := by
  have : (ps.map fun p => p.x).find? (fun x => x.wb) = none := by
    simp
    exact h.2 rfl
  simp [blockGate, this]

/-- A word that passes the check of its instruction. -/
theorem go_syncWordAt {chk : Check} {a : Src} {off : BitVec 24} {al : Nat} {x : Xl} (h : SyncWord s (addr s a off) al x)
    (hc : (chk x al).go s = (.ok (), s)) : (syncWordAt chk a off al).go s = (.ok x, s) := by
  obtain ⟨h1, h2, _, _, _, h6, h7⟩ := h
  have h1' : (s.me.getX a.r.toNat + off.signExtend 64).toNat % al = 0 := h1
  have h2' : (xlateM (s.me.getX a.r.toNat + off.signExtend 64).toNat .atomic).go s = (.ok x, s) := h2
  have hw : (wayGate [(s.cur.core, x.pa, al)]).go s = (.ok (), s) := go_wayGate (by simpa [State.WayFree] using h6)
  by_cases h : paClass x.pa = 2
  · simp [-BitVec.toNat_add, syncWordAt, h1', h2', hc, hw, h]
  · simp [-BitVec.toNat_add, syncWordAt, h1', h2', hc, hw, h, good_bytes (h7 h)]

/-- A lock word that passes its checks. -/
theorem go_lockWordAt {a : Src} {off : BitVec 24} {al : Nat} {x : Xl} (h : SyncWord s (addr s a off) al x) :
    (lockWordAt a off al).go s = (.ok x, s) := by
  have hd : ¬ paClass x.pa = 7 := by have := h.2.2.2.1; omega
  have h3 : ¬ 3 ≤ paClass x.pa := by have := h.2.2.2.1; omega
  exact go_syncWordAt h (by simp [lockCheck, notDevice, h.2.2.1, h.2.2.2.2.1, hd, h3])

/-- A group's record that passes its checks. -/
theorem go_groupAt {a : Src} {imm : BitVec 16} {x : Xl}
    (h : SyncWord s (val s a + (imm.signExtend 24).signExtend 64).toNat 16 x) : (groupAt a imm).go s = (.ok x, s) := by
  have h3 : ¬ 3 ≤ paClass x.pa := by have := h.2.2.2.1; omega
  exact go_syncWordAt (off := imm.signExtend 24) h (by simp [groupCheck, h.2.2.1, h.2.2.2.2.1, h3])

/-- A landing word that passes its checks. -/
theorem go_landAt {a : Src} {imm : BitVec 16} {k : Kind} {x : Xl} (h : LandWord s (val s a + imm.signExtend 64).toNat k x) :
    (landAt a imm k).go s = (.ok x, s) := by
  obtain ⟨h1, h2, h3, h4, h5⟩ := h
  simp only [val] at h1 h2
  have h2' : (xlateM (s.me.getX a.r.toNat + imm.signExtend 64).toNat k).go s = (.ok x, s) := h2
  simp [landAt, h1, h2', h3, h4, go_baseGate_one h5, -BitVec.toNat_add]

/-- A handle that passes its checks. -/
theorem go_readHandle {w : Word} {h : Handle} (hh : HandleIs s w h) : (readHandle w).go s = (.ok h, s) := by
  obtain ⟨h1, h2, h3⟩ := hh
  have : bitsAt w.toNat 3 8 = h.cl := by
    unfold handleOf at h1
    split at h1 <;> cases h1
    rfl
  simp [readHandle, this, h2, h1, go_edgeGate h3]

/-- A request to a peer's home leaves. -/
theorem go_producePeer (s : State) (dst : Dst) (va pa : Nat) (op : PeerOp) (ext : Nat × Bool) :
    (producePeer dst va pa op ext).go s = (.ok (), requests s dst va pa op ext) := rfl

/-- What a peer has answered is taken up. -/
theorem go_askPeer {pa v va : Nat} {op : PeerOp} (h : Answered s pa op v) : (askPeer pa op va).go s = (.ok v, s) := by
  obtain ⟨⟨p, o, r⟩, h1, h2⟩ := h
  subst h2
  simp [askPeer, peerAnswer, h1]

/-- An answered question has been asked. -/
theorem go_asked {pa v : Nat} {op : PeerOp} (h : Answered s pa op v) : (asked pa op).go s = (.ok true, s) := by
  obtain ⟨a, h1, h2⟩ := h
  have : (s.me.asks.any fun a => a.pkg == bitsAt pa 39 10 && a.op == op) = true := by
    rw [List.any_eq_true]
    exact ⟨a, List.mem_of_find?_eq_some h1, List.find?_some (p := fun a : Ask => a.pkg == bitsAt pa 39 10 && a.op == op) h1⟩
  simp only [asked, go_bind, go_me, go_pure, this]

end Sys2Proof.Machine
end

