-- ==== Sys2Proof/Laws/Control.lean ====
section
/-! SUPPORT. Transfers of control: what checking a target, jumping and linking answer (R181, R182, R197 to R199). -/
namespace Sys2Proof.Machine
open Sys2Proof.Claims

variable {s s' : State} {t : Nat}

/-- A target that is a head passes its check. -/
theorem go_checkTarget (h : Head s t s') : (checkTarget t).go s = (.ok (), s') := by
  obtain ⟨h1, h2, _, _, b, hb, hl⟩ := h
  simp only [checkTarget, go_bind, go_trapIf, h1, h2, go_get, hb, decide_false, Bool.or_self, if_false, Bool.false_eq_true,
    Nat.reduceEqDiff, go_set]
  cases hk : lineOk b with
  | none => simp
  | some k => simpa using hl k hk

/-- A target that is no head takes ILLEGAL_LINE with the target. -/
theorem go_checkTarget_no (h : NoHead s t s') :
    (checkTarget t).go s = (.error (.trap Cause.illegalLine t 0), s') := by
  obtain ⟨h1, rfl⟩ | ⟨h1, h2, b, k, hb, hl, hk⟩ := h
  · have : (decide (t % 2 = 1) || decide (t % 64 / 2 = 0)) = true := by simpa using h1
    simp only [checkTarget, go_bind, go_trapIf, this, if_true]
  · simp only [checkTarget, go_bind, go_trapIf, h1, h2, go_get, hb, decide_false, Bool.or_self, if_false, Bool.false_eq_true,
      Nat.reduceEqDiff, go_set]
    simp [hl, hk]

/-- The target of a relative transfer. -/
theorem relTarget_eq (s : State) (e : BitVec 32) : relTarget s.me.pc e = target s e := by
  simp only [relTarget, target]
  congr 3
  omega

theorem go_jump (h : Head s t s') : (jump t).go s = (.ok (), s'.updMe fun c => c.goto t) := by
  simp [jump, go_checkTarget h]

theorem go_jump_no (h : NoHead s t s') : (jump t).go s = (.error (.trap Cause.illegalLine t 0), s') := by
  simp [jump, go_checkTarget_no h]

theorem go_jumpLink (h : Head s t s') :
    (jumpLink t).go s = (.ok (), s'.updMe fun c => (c.setX 15 (wd s'.me.next)).goto t) := by
  simp [jumpLink, go_checkTarget h]

theorem go_jumpLink_no (h : NoHead s t s') : (jumpLink t).go s = (.error (.trap Cause.illegalLine t 0), s') := by
  simp [jumpLink, go_checkTarget_no h]

theorem links_eq (s : State) (t : Nat) : (s.updMe fun c => ((c.setX 15 (wd s.me.next)).goto t).done) = links s t :=
  State.updMe_congr _ rfl

end Sys2Proof.Machine
end

