-- ==== Sys2Proof/Laws/Decode.lean ====
section
/-! SUPPORT. What reading a field of a laid-out word gives, the inverses of the code tables, and when a laid-out word decodes. -/
namespace Sys2Proof

/-! ### Fields of a layout -/

/-- A field inside the first field of a layout. -/
theorem fld_pack_lt (w : Nat) (ws : List Nat) (v : Nat) (vs : List Nat) (lo k : Nat) (h : lo + k ≤ w) :
    fld (packFields (w :: ws) (v :: vs)) lo k = v / 2 ^ lo % 2 ^ k := by
  obtain ⟨c, rfl⟩ := Nat.exists_eq_add_of_le h
  have e : 2 ^ (lo + k + c) * packFields ws vs = 2 ^ lo * (2 ^ k * (2 ^ c * packFields ws vs)) := by
    simp only [Nat.pow_add, Nat.mul_assoc]
  simp only [fld, packFields, e]
  rw [Nat.add_mul_div_left _ _ (Nat.two_pow_pos _), Nat.add_mul_mod_self_left, Nat.pow_add, Nat.pow_add, Nat.mul_assoc,
    Nat.mod_mul_right_div_self, Nat.mod_mul_right_mod]

/-- A field above the first field of a layout. -/
theorem fld_pack_ge (w : Nat) (ws : List Nat) (v : Nat) (vs : List Nat) (lo k : Nat) (h : w ≤ lo) :
    fld (packFields (w :: ws) (v :: vs)) lo k = fld (packFields ws vs) (lo - w) k := by
  obtain ⟨c, rfl⟩ := Nat.exists_eq_add_of_le h
  simp only [fld, packFields]
  rw [Nat.pow_add, ← Nat.div_div_eq_div_mul, Nat.add_mul_div_left _ _ (Nat.two_pow_pos _),
    Nat.div_eq_of_lt (Nat.mod_lt _ (Nat.two_pow_pos _))]
  simp

/-- A layout fills no more than its widths. -/
theorem packFields_lt : ∀ ws vs, packFields ws vs < 2 ^ ws.sum
  | [], _ => by simp [packFields]
  | w :: ws, [] => by simp [packFields, Nat.two_pow_pos]
  | w :: ws, v :: vs => by
    have h1 := packFields_lt ws vs
    have h2 : v % 2 ^ w < 2 ^ w := Nat.mod_lt _ (Nat.two_pow_pos _)
    have h3 : 2 ^ w * (packFields ws vs + 1) ≤ 2 ^ w * 2 ^ ws.sum := Nat.mul_le_mul_left _ h1
    simp only [packFields, List.sum_cons, Nat.pow_add]
    rw [Nat.mul_add] at h3
    omega

/-- A field of the low sixteen bits of a word. -/
theorem fld_head {n lo k a b : Nat} (h : n = a + 65536 * b) (hk : lo + k ≤ 16) : fld n lo k = fld a lo k := by
  obtain ⟨c, hc⟩ := Nat.exists_eq_add_of_le hk
  have e : 65536 * b = 2 ^ lo * (2 ^ k * (2 ^ c * b)) := by
    rw [show (65536 : Nat) = 2 ^ (lo + k + c) from (by decide : (65536 : Nat) = 2 ^ 16).trans (congrArg (2 ^ ·) hc)]
    simp only [Nat.pow_add, Nat.mul_assoc]
  subst h
  unfold fld
  rw [e, Nat.add_mul_div_left _ _ (Nat.two_pow_pos _), Nat.add_mul_mod_self_left]

/-- A field of a number below the field's top. -/
theorem fld_zero (n k : Nat) (h : n < 2 ^ k) : fld n 0 k = n := by simp [fld, Nat.mod_eq_of_lt h]

/-- A word that is laid out as its family says decodes to the instruction that its fields name (R183, R190). -/
theorem decode_word {i : Instr} {t op d tail : Nat} (he : encode i = some (word t op d tail)) (hwf : WellFormed i = true)
    (hop : op < 128) (ht : opT op = some t) (hd : d < 128) (htail : tail < 2 ^ (16 * t)) (ht4 : t < 4)
    (hc : candidate op d tail = .ok i) : decode (word t op d tail) = .instr i := by
  have hlt : packFields layHead [t, op, d] < 65536 := packFields_lt layHead [t, op, d]
  have hw : word t op d tail = packFields layHead [t, op, d] + 65536 * tail := rfl
  have h1 : fld (word t op d tail) 2 7 = op := by
    rw [fld_head hw (by decide)]; simp [layHead, fld_pack_lt, fld_pack_ge]; exact hop
  have h2 : fld (word t op d tail) 0 2 = t := by
    rw [fld_head hw (by decide)]; simp [layHead, fld_pack_lt]; exact ht4
  have h3 : fld (word t op d tail) 9 7 = d := by
    rw [fld_head hw (by decide)]; simp [layHead, fld_pack_lt, fld_pack_ge]; exact hd
  have h4 : word t op d tail / 65536 = tail := by omega
  have h5 : word t op d tail < 2 ^ (16 + 16 * t) := by
    rw [Nat.pow_add]; omega
  unfold decode
  simp only [h1, h2, h3, h4, ht, hc, he, hwf]
  simp [h5]

/-! ### Code tables -/

@[simp] theorem flag_beq_one (b : Bool) : (flag b == 1) = b := by cases b <;> rfl
@[simp] theorem flag_mod_two (b : Bool) : flag b % 2 = flag b := by cases b <;> rfl
theorem flag_lt (b : Bool) : flag b < 2 := by cases b <;> decide
@[simp] theorem Scope.of_code (s : Scope) : Scope.of s.code = s := by cases s <;> rfl
theorem Scope.code_lt (s : Scope) : s.code < 4 := by cases s <;> decide
@[simp] theorem Scope.code_mod (s : Scope) : s.code % 4 = s.code := by cases s <;> rfl
/-- Cutting the number of a bit vector to its width changes nothing. -/
theorem ofNat_toNat_mod {w : Nat} (x : BitVec w) (n : Nat) (h : n = 2 ^ w) : BitVec.ofNat w (x.toNat % n) = x := by
  subst h; simp
@[simp] theorem RMode.of_code (r : RMode) : RMode.of r.code = some r := by cases r <;> rfl
theorem RMode.code_lt (r : RMode) : r.code < 8 := by cases r <;> decide
@[simp] theorem FTy.of_code (t : FTy) : FTy.of t.code = some t := by cases t <;> rfl
theorem FTy.code_lt (t : FTy) : t.code < 8 := by cases t <;> decide
@[simp] theorem CTy.of_code (t : CTy) : CTy.of t.code = some t := by cases t <;> rfl
theorem CTy.code_lt (t : CTy) : t.code < 8 := by cases t <;> decide
@[simp] theorem MSize.of_code (z : MSize) : MSize.of z.code = some z := by cases z <;> rfl
theorem MSize.code_lt (z : MSize) : z.code < 8 := by cases z <;> decide
@[simp] theorem SSize.of_code (z : SSize) : SSize.of z.code = some z := by cases z <;> rfl
theorem SSize.code_lt (z : SSize) : z.code < 8 := by cases z <;> decide
@[simp] theorem SextW.of_code (w : SextW) : SextW.of w.code = some w := by cases w <;> rfl
theorem SextW.code_lt (w : SextW) : w.code < 16 := by cases w <;> decide
@[simp] theorem AOrd.of_code (o : AOrd) : AOrd.of o.code = some o := by
  cases o with
  | rlx => rfl
  | acq s => cases s <;> rfl
  | rel s => cases s <;> rfl
  | ar s => cases s <;> rfl
theorem AOrd.code_lt (o : AOrd) : o.code < 16 := by
  cases o with
  | rlx => decide
  | acq s => cases s <;> decide
  | rel s => cases s <;> decide
  | ar s => cases s <;> decide
@[simp] theorem Quad.of_code (q : Quad) : Quad.of q.code = some q := by cases q <;> rfl
theorem Quad.code_lt (q : Quad) : q.code < 16 := by cases q <;> decide
@[simp] theorem IdKind.of_code (k : IdKind) : IdKind.of k.code = some k := by cases k <;> rfl
theorem IdKind.code_lt (k : IdKind) : k.code < 64 := by cases k <;> decide

theorem VOp.code_lt (o : VOp) : o.code < 64 := by
  cases o <;> simp only [VOp.code] <;> omega
@[simp] theorem VOp.of_code (o : VOp) : VOp.of o.code = some o := by
  cases o with
  | v n => simp [VOp.code, VOp.of, n.isLt]
  | pop n => revert n; decide
  | peek n => revert n; decide
  | l0 => rfl
  | l1 => rfl
  | bc r =>
    have := r.isLt
    simp [VOp.code, VOp.of, show ¬ 48 + r.toNat < 48 by omega, show ¬ 48 + r.toNat < 40 by omega,
      show ¬ 48 + r.toNat < 36 by omega, show ¬ 48 + r.toNat < 32 by omega, show ¬ 48 + r.toNat = 40 by omega,
      show ¬ 48 + r.toNat = 41 by omega]
    omega

theorem VDst.code_lt (d : VDst) : d.code < 128 := by
  cases d <;> simp only [VDst.code] <;> omega
/-- A destination that may be a load queue. -/
@[simp] theorem VDst.of_code_queue (d : VDst) : VDst.of true d.code = some d := by
  cases d with
  | v n => have := n.isLt; simp [VDst.code, VDst.of]; omega
  | q n => revert n; decide
  | last => rfl
/-- A destination that may not. -/
theorem VDst.of_code {d : VDst} (h : d.notQueue = true) : VDst.of false d.code = some d := by
  cases d with
  | v n => have := n.isLt; simp [VDst.code, VDst.of]; omega
  | q n => simp [VDst.notQueue] at h
  | last => rfl
@[simp] theorem RMode.code_mod (r : RMode) : r.code % 8 = r.code := Nat.mod_eq_of_lt r.code_lt@[simp] theorem FTy.code_mod (t : FTy) : t.code % 8 = t.code := Nat.mod_eq_of_lt t.code_lt@[simp] theorem CTy.code_mod (t : CTy) : t.code % 8 = t.code := Nat.mod_eq_of_lt t.code_lt@[simp] theorem MSize.code_mod (z : MSize) : z.code % 8 = z.code := Nat.mod_eq_of_lt z.code_lt@[simp] theorem SSize.code_mod (z : SSize) : z.code % 8 = z.code := Nat.mod_eq_of_lt z.code_lt@[simp] theorem SextW.code_mod (w : SextW) : w.code % 16 = w.code := Nat.mod_eq_of_lt w.code_lt@[simp] theorem AOrd.code_mod (o : AOrd) : o.code % 16 = o.code := Nat.mod_eq_of_lt o.code_lt@[simp] theorem Quad.code_mod (q : Quad) : q.code % 16 = q.code := Nat.mod_eq_of_lt q.code_lt@[simp] theorem IdKind.code_mod (k : IdKind) : k.code % 64 = k.code := Nat.mod_eq_of_lt k.code_lt@[simp] theorem VOp.code_mod (o : VOp) : o.code % 64 = o.code := Nat.mod_eq_of_lt o.code_lt

/-- A rounding mode and a variant in F6 (R189). -/
@[simp] theorem rmF6_variant (r : RMode) (v : Nat) (h : v < 8) : rmF6 r v % 8 = v := by unfold rmF6; omega
@[simp] theorem rmF6_mode (r : RMode) (v : Nat) (h : v < 8) : rmF6 r v / 8 % 8 = r.code := by
  have := r.code_lt
  unfold rmF6; omega
@[simp] theorem codeSrc_r (n : Nat) : (codeSrc n).r.toNat % 16 = n % 16 := by simp [codeSrc]
@[simp] theorem codeSrc_f (n : Nat) : (codeSrc n).f = false := rfl
@[simp] theorem FTy.code_mod_imm (t : FTy) : t.code % 1024 = t.code := by cases t <;> rfl
@[simp] theorem CTy.code_mod_reg (t : CTy) : t.code % 16 = t.code := by cases t <;> rfl
/-- An immediate that fills its whole field. -/
theorem fld_whole {w : Nat} (x : BitVec w) : BitVec.ofNat w (fld x.toNat 0 w) = x := by simp [fld]
/-- A quad in a broadcast field (R323). -/
theorem quad_bc (q : Quad) : (48 + q.code) % 64 = 48 + q.code := by cases q <;> rfl
theorem quad_bc16 (q : Quad) : (48 + q.code) % 16 = q.code := by cases q <;> rfl
theorem quad_bc48 (q : Quad) : ¬ 48 + q.code < 48 := by omega
@[simp] theorem quadOr_code (q : Quad) (k : Quad → Cand) : quadOr q.code k = k q := by simp [quadOr]
@[simp] theorem quadOr_reg (q : Quad) (k : Quad → Cand) : quadOr ((reg q.code).toNat % 16) k = k q := by
  cases q <;> rfl
@[simp] theorem vregOr_code (n : BitVec 5) (k : BitVec 5 → Cand) : vregOr (64 + n.toNat) k = k n := by
  have h : VDst.of false (64 + n.toNat) = some (.v n) := VDst.of_code (d := .v n) rfl
  simp [vregOr, h]
/-- The register field of a broadcast operand in the first field of family V1. -/
theorem bcOf_mod (r : Reg) : bcOf r % 64 = bcOf r := by have := r.isLt; unfold bcOf; omega
theorem bcOf_reg (r : Reg) : BitVec.ofNat 4 (bcOf r % 16) = r := by
  have := r.isLt
  rw [show bcOf r % 16 = r.toNat by unfold bcOf; omega]
  simp
theorem bcOf_ge (r : Reg) : ¬ bcOf r < 48 := by unfold bcOf; omega
/-- The low ten bits of an AMO: its ordering and its width (R220). -/
theorem AOrd.imm_ord (o : AOrd) (b : Bool) : (o.code + 16 * flag b) % 16 = o.code := by
  have := o.code_lt; omega
theorem AOrd.imm_w (o : AOrd) (b : Bool) : ((o.code + 16 * flag b) / 16 % 2 == 1) = b := by
  have := o.code_lt
  rw [show (o.code + 16 * flag b) / 16 % 2 = flag b by have := flag_lt b; omega]
  exact flag_beq_one b
/-- A scope and a flag in an immediate of family E (R323). -/
theorem Scope.imm_flag (s : Scope) (b : Bool) : ((s.code + 4 * flag b) / 4 % 2 == 1) = b := by
  have := s.code_lt
  rw [show (s.code + 4 * flag b) / 4 % 2 = flag b by have := flag_lt b; omega]
  exact flag_beq_one b
theorem imm3_flag (n : BitVec 3) (b : Bool) : ((n.toNat + 8 * flag b) / 8 % 2 == 1) = b := by
  have := n.isLt
  rw [show (n.toNat + 8 * flag b) / 8 % 2 = flag b by have := flag_lt b; omega]
  exact flag_beq_one b
/-- A four-bit number and a flag in F5 (R232). -/
theorem imm4_flag (n : BitVec 4) (b : Bool) : ((n.toNat + 16 * flag b) / 16 % 2 == 1) = b := by
  have := n.isLt
  rw [show (n.toNat + 16 * flag b) / 16 % 2 = flag b by have := flag_lt b; omega]
  exact flag_beq_one b
/-- Two flags in F6. -/
theorem flag2_high (a b : Bool) : ((flag a + 2 * flag b) / 2 % 2 == 1) = b := by cases a <;> cases b <;> rfl
theorem flag2_low (a b : Bool) : ((flag a + 2 * flag b) % 2 == 1) = a := by cases a <;> cases b <;> rfl
/-- A slot and a format in the immediate of SLLOAD (R281). -/
theorem slot_fmt (s : BitVec 6) (f : BitVec 4) : BitVec.ofNat 4 ((s.toNat + 64 * f.toNat) / 64 % 16) = f := by
  have h1 := s.isLt
  have h2 := f.isLt
  rw [show (s.toNat + 64 * f.toNat) / 64 % 16 = f.toNat by omega]
  simp
/-- The three parts of WMBIND's immediate (R220). -/
theorem wmbind_reg (n : BitVec 2) (c : Scope) (h : BitVec 6) :
    BitVec.ofNat 2 ((h.toNat + 64 * c.code + 256 * n.toNat) / 256 % 4) = n := by
  have := h.isLt; have := n.isLt; have := c.code_lt
  rw [show (h.toNat + 64 * c.code + 256 * n.toNat) / 256 % 4 = n.toNat by omega]
  simp
theorem wmbind_scope (n : BitVec 2) (c : Scope) (h : BitVec 6) :
    Scope.of ((h.toNat + 64 * c.code + 256 * n.toNat) / 64 % 4) = c := by
  have := h.isLt; have := n.isLt; have := c.code_lt
  rw [show (h.toNat + 64 * c.code + 256 * n.toNat) / 64 % 4 = c.code by omega]
  simp
theorem wmbind_shift (n : BitVec 2) (c : Scope) (h : BitVec 6) :
    BitVec.ofNat 6 ((h.toNat + 64 * c.code + 256 * n.toNat) % 64) = h := by
  have := h.isLt
  rw [show (h.toNat + 64 * c.code + 256 * n.toNat) % 64 = h.toNat by omega]
  simp
/-- The width code of VLDX (R261). -/
theorem vldx_width (w : BitVec 2) : BitVec.ofNat 2 ((w.toNat + 1) % 8 - 1) = w ∧ ¬((w.toNat + 1) % 8 = 0 ∨ 4 < (w.toNat + 1) % 8) := by
  revert w; decide
/-- The parts of a mask from its two arguments. -/
@[simp] theorem mask2_me (me : Bool) (mk : BitVec 3) : (mask2 me mk).me = me := rfl
@[simp] theorem mask2_mr (me : Bool) (mk : BitVec 3) : (mask2 me mk).mr = mk := rfl

/-- The fields of a tail of family V, under a name for the tail. -/
theorem fieldsV (sa fa sb fb sc fc f6 : Nat) (m : MaskF) :
    ∃ t, packFields layV [sa, sb, sc, fa, fb, fc, m.mr.toNat, flag m.me, flag m.mz, f6] = t ∧ fld t 0 6 = sa % 64 ∧
      fld t 6 6 = sb % 64 ∧ fld t 12 6 = sc % 64 ∧ fld t 18 1 = fa % 2 ∧ fld t 19 1 = fb % 2 ∧ fld t 20 1 = fc % 2 ∧
      maskV t = m ∧ fld t 26 6 = f6 % 64 ∧ fld t 26 4 = f6 % 16 ∧ fld t 26 3 = f6 % 8 ∧ fld t 29 3 = f6 / 8 % 8 ∧
      fld t 0 4 = sa % 16 ∧ fld t 6 4 = sb % 16 ∧ fld t 12 4 = sc % 16 ∧ fld t 0 3 = sa % 8 ∧ fld t 6 3 = sb % 8 ∧
      BitVec.ofNat 3 (fld t 21 3) = m.mr ∧ (fld t 24 1 == 1) = m.me := by
  refine ⟨_, rfl, ?_⟩
  simp [layV, maskV, bitF, fldB, fld_pack_lt, fld_pack_ge, ofNat_toNat_mod]

/-- The fields of a tail of family VM, under a name for the tail. -/
theorem fieldsVM (a fa sb fb x fx f5 : Nat) (m : MaskF) (wm : Option (BitVec 2)) (imm : BitVec 16) :
    ∃ t, packFields layVM [a, fa, sb, fb, x, fx, m.mr.toNat, flag m.me, flag m.mz, 0, flag wm.isSome,
        (wm.getD 0).toNat, f5, imm.toNat] = t ∧ fld t 0 4 = a % 16 ∧ fld t 4 1 = fa % 2 ∧ fld t 5 6 = sb % 64 ∧
      fld t 5 5 = sb % 32 ∧ fld t 5 4 = sb % 16 ∧ fld t 11 1 = fb % 2 ∧ fld t 12 4 = x % 16 ∧ fld t 16 1 = fx % 2 ∧
      maskVM t = m ∧ wmVM t = wm ∧ fld t 27 2 = f5 % 4 ∧ fld t 29 3 = f5 / 4 % 8 ∧ BitVec.ofNat 16 (fld t 32 16) = imm ∧
      BitVec.ofNat 3 (fld t 17 3) = m.mr ∧ (fld t 20 1 == 1) = m.me := by
  refine ⟨_, rfl, ?_⟩
  simp [layVM, maskVM, bitF, fldB, fld_pack_lt, fld_pack_ge, ofNat_toNat_mod]
  cases wm <;> simp [wmVM, bitF, fldB, fld_pack_lt, fld_pack_ge, ofNat_toNat_mod, flag]

end Sys2Proof
end

