-- ==== Sys2Proof/Laws/Memory.lean ====
section
/-! SUPPORT. Finite maps in canonical form, and memory: every operation on memory keeps its canonical form, a byte reads as what was last written to it, and what writes a home word changes of the state's memory. -/
namespace Sys2Proof

namespace KMap

variable {α : Type}

/-- Every key is above `lo`. -/
theorem sortedFrom_lt {lo : Nat} {m : KMap α} (h : sortedFrom (some lo) m = true) : ∀ e ∈ m, lo < e.1 := by
  induction m generalizing lo with
  | nil => simp
  | cons e r ih =>
    simp only [sortedFrom, Bool.and_eq_true, decide_eq_true_eq] at h
    intro x hx
    rcases List.mem_cons.1 hx with rfl | hx
    · exact h.1
    · exact Nat.lt_trans h.1 (ih h.2 x hx)

theorem sortedFrom_mono {lo lo' : Nat} {m : KMap α} (h : sortedFrom (some lo) m = true) (hl : ∀ e ∈ m, lo' < e.1) :
    sortedFrom (some lo') m = true := by
  cases m with
  | nil => rfl
  | cons e r =>
    simp only [sortedFrom, Bool.and_eq_true, decide_eq_true_eq] at h ⊢
    exact ⟨hl e (List.mem_cons_self ..), h.2⟩

theorem sortedFrom_none {m : KMap α} {lo : Nat} (h : sortedFrom (some lo) m = true) : sortedFrom none m = true := by
  cases m with
  | nil => rfl
  | cons e r => simp only [sortedFrom, Bool.and_eq_true] at h ⊢; exact h.2

theorem mem_del {m : KMap α} {k : Nat} {e : Nat × α} (h : e ∈ del m k) : e ∈ m ∧ e.1 ≠ k := by
  induction m with
  | nil => simp [del] at h
  | cons x r ih =>
    simp only [del] at h
    split at h
    · exact ⟨List.mem_cons_of_mem _ (ih h).1, (ih h).2⟩
    · rcases List.mem_cons.1 h with rfl | h
      · exact ⟨List.mem_cons_self .., by assumption⟩
      · exact ⟨List.mem_cons_of_mem _ (ih h).1, (ih h).2⟩

theorem mem_ins {m : KMap α} {k : Nat} {v : α} {e : Nat × α} (h : e ∈ ins m k v) : e = (k, v) ∨ e ∈ m := by
  induction m with
  | nil => simpa [ins] using h
  | cons x r ih =>
    simp only [ins] at h
    split at h
    · rcases List.mem_cons.1 h with h | h
      · exact .inl h
      · exact .inr h
    · split at h
      · rcases List.mem_cons.1 h with h | h
        · exact .inl h
        · exact .inr (List.mem_cons_of_mem _ h)
      · rcases List.mem_cons.1 h with rfl | h
        · exact .inr (List.mem_cons_self ..)
        · exact (ih h).imp_right (List.mem_cons_of_mem _)

theorem sorted_del {m : KMap α} {k : Nat} : ∀ {lo : Option Nat}, sortedFrom lo m = true → sortedFrom lo (del m k) = true := by
  induction m with
  | nil => intro lo _; cases lo <;> rfl
  | cons x r ih =>
    obtain ⟨a, w⟩ := x
    intro lo h
    simp only [del]
    have hr : sortedFrom (some a) r = true := by
      cases lo <;> simp only [sortedFrom, Bool.and_eq_true] at h
      · exact h
      · exact h.2
    split
    · cases lo with
      | none => exact sortedFrom_none (ih hr)
      | some lo =>
        simp only [sortedFrom, Bool.and_eq_true, decide_eq_true_eq] at h
        exact sortedFrom_mono (ih hr) fun e he => Nat.lt_trans h.1 (sortedFrom_lt (ih hr) e he)
    · cases lo with
      | none => exact ih hr
      | some lo =>
        simp only [sortedFrom, Bool.and_eq_true, decide_eq_true_eq] at h ⊢
        exact ⟨h.1, ih hr⟩

theorem sorted_ins {m : KMap α} {k : Nat} {v : α} :
    ∀ {lo : Option Nat}, sortedFrom lo m = true → (∀ l, lo = some l → l < k) → sortedFrom lo (ins m k v) = true := by
  induction m with
  | nil =>
    intro lo _ hk
    cases lo with
    | none => rfl
    | some l => simp [ins, sortedFrom, hk l rfl]
  | cons x r ih =>
    obtain ⟨a, w⟩ := x
    intro lo h hk
    have hr : sortedFrom (some a) r = true := by
      cases lo <;> simp only [sortedFrom, Bool.and_eq_true] at h
      · exact h
      · exact h.2
    simp only [ins]
    split
    · rename_i hlt
      cases lo with
      | none => simp [sortedFrom, hlt, hr]
      | some l => simp [sortedFrom, hlt, hr, hk l rfl]
    · split
      · subst_vars
        cases lo with
        | none => exact hr
        | some l => simp [sortedFrom, hr, hk l rfl]
      · have := ih hr (fun l hl => by injection hl with hl; omega)
        cases lo with
        | none => exact this
        | some l =>
          simp only [sortedFrom, Bool.and_eq_true, decide_eq_true_eq] at h ⊢
          exact ⟨h.1, this⟩

/-- A write keeps the canonical form. -/
theorem canon_put [DecidableEq α] {d : α} {m : KMap α} (h : canon d m = true) (k : Nat) (v : α) :
    canon d (put d m k v) = true := by
  simp only [canon, Bool.and_eq_true, List.all_eq_true] at h ⊢
  have hd : ∀ e ∈ del m k, (!decide (e.2 = d)) = true := fun e he => h.2 e (mem_del he).1
  unfold put
  split
  · exact ⟨sorted_del h.1, hd⟩
  · refine ⟨sorted_ins (sorted_del h.1) (fun l hl => by cases hl), fun e he => ?_⟩
    rcases mem_ins he with rfl | he
    · simpa
    · exact hd e he

/-- Leaving entries out keeps the canonical form. -/
theorem canon_filter [DecidableEq α] {d : α} {m : KMap α} (p : Nat × α → Bool) (h : canon d m = true) :
    canon d (m.filter p) = true := by
  simp only [canon, Bool.and_eq_true, List.all_eq_true] at h ⊢
  refine ⟨?_, fun e he => h.2 e (List.mem_filter.1 he).1⟩
  have : ∀ (m : KMap α) (lo : Option Nat), sortedFrom lo m = true → sortedFrom lo (m.filter p) = true := by
    intro m
    induction m with
    | nil => intro lo h; exact h
    | cons x r ih =>
      intro lo h
      have hr : sortedFrom (some x.1) r = true := by
        cases lo <;> simp only [sortedFrom, Bool.and_eq_true] at h
        · exact h
        · exact h.2
      have hf := ih _ hr
      simp only [List.filter_cons]
      split
      · cases lo with
        | none => exact hf
        | some l =>
          simp only [sortedFrom, Bool.and_eq_true, decide_eq_true_eq] at h ⊢
          exact ⟨h.1, hf⟩
      · cases lo with
        | none => exact sortedFrom_none hf
        | some l =>
          simp only [sortedFrom, Bool.and_eq_true, decide_eq_true_eq] at h
          exact sortedFrom_mono hf fun e he => Nat.lt_trans h.1 (sortedFrom_lt hf e he)
  exact this m none h.1

end KMap

namespace Machine

/-! ### Bytes -/

/-- A byte reads as what was last written to it. -/
theorem readByte_writeByte (mem : List Host.Cell) (a b : Nat) (v : Byte) :
    readByte (writeByte mem a v) b = if b = a then v else readByte mem b := by
  unfold readByte writeByte
  split
  · subst_vars; exact KMap.find_put_self ..
  · exact KMap.find_put_ne _ _ _ _ (by assumption)

/-- Writing a byte keeps the canonical form. -/
theorem writeByte_wf {mem : List Host.Cell} (h : Memory.wf mem = true) (a : Nat) (v : Byte) :
    Memory.wf (writeByte mem a v) = true := KMap.canon_put h a v

/-- Writing bytes keeps the canonical form. -/
theorem writeBytes_wf {mem : List Host.Cell} (h : Memory.wf mem = true) (a v n : Nat) :
    Memory.wf (writeBytes mem a v n) = true := by
  induction n generalizing mem a v with
  | zero => exact h
  | succ n ih => exact ih (writeByte_wf h ..) ..

/-- Memory after reset lists nothing. -/
theorem reset_wf : Memory.wf State.reset.mem = true := rfl

/-- Leaving cells out keeps the canonical form. -/
theorem filter_wf {mem : List Host.Cell} (p : Host.Cell → Bool) (h : Memory.wf mem = true) : Memory.wf (mem.filter p) = true :=
  KMap.canon_filter p h

/-! ### The operations of the state that write memory -/

/-- A loop keeps what each of its rounds keeps. -/
theorem foldl_keeps {α β : Type} {f : β → α → β} {p : β → Prop} (hf : ∀ b a, p b → p (f b a)) (l : List α) :
    ∀ b, p b → p (l.foldl f b) := by
  induction l with
  | nil => exact fun b h => h
  | cons a r ih => exact fun b h => ih _ (hf b a h)

/-- Storing a word keeps the canonical form. -/
theorem setMemWord_inv {s : State} (h : s.Inv) (w : Nat) (v : Word) : (s.setMemWord w v).Inv := writeBytes_wf h ..

theorem unmarkL1_mem (s : State) (c w : Nat) : (s.unmarkL1 c w).mem = s.mem := by
  unfold State.unmarkL1 State.setL1
  split <;> rfl

theorem dropNear_mem (s : State) (c w : Nat) : (s.dropNear c w).mem = s.mem := by
  unfold State.dropNear
  split <;> rfl

theorem unmarkCluster_mem (s : State) (c w : Nat) : (s.unmarkCluster c w).mem = s.mem :=
  foldl_keeps (p := fun t : State => t.mem = s.mem) (fun _ _ h => (unmarkL1_mem ..).trans h) _ s rfl

/-- Clearing a registration changes no byte of memory. -/
theorem clearHolder_mem (s : State) (w : Nat) : (s.clearHolder w).mem = s.mem := by
  unfold State.clearHolder
  split
  · exact unmarkL1_mem ..
  · exact (dropNear_mem ..).trans (unmarkCluster_mem ..)
  · rfl

/-- Marking a word poisoned, or clearing the mark, changes no byte of memory. -/
theorem setPoison_mem (s : State) (w : Nat) (b : Bool) : (s.setPoison w b).mem = s.mem := rfl

/-- A found error poisons its word and changes no byte of memory. -/
theorem met_mem (s : State) (w : Nat) : (s.met w).mem = s.mem := by
  unfold State.met
  split <;> rfl

/-- Watchpoints see a write and change no byte of memory. -/
theorem watchWrite_mem (s : State) (w : Nat) (v : Word) : (s.watchWrite w v).mem = s.mem := by
  unfold State.watchWrite
  split
  · rfl
  · refine foldl_keeps (p := fun t : State => t.mem = s.mem) (fun t i h => ?_) _ s rfl
    dsimp only
    split
    · split
      · split <;> exact h
      · exact h
    · exact h

/-- Instances that enter their queue change no byte of memory. -/
theorem enterQueue_mem (s : State) (k : Nat) : (s.enterQueue k).mem = s.mem := by
  refine foldl_keeps (p := fun t : State => t.mem = s.mem) (fun t i h => ?_) _ s rfl
  split
  · exact h
  · split <;> exact h

/-- Waits see a write and change no byte of memory. -/
theorem waitWrite_mem (s : State) (w : Nat) : (s.waitWrite w).mem = s.mem := by
  refine foldl_keeps (p := fun t : State => t.mem = s.mem) (fun t e h => ?_) _ s rfl
  dsimp only
  split
  · split <;> exact h
  · split <;> exact h
  · exact h

/-- Dependences see a write and change no byte of memory. -/
theorem dependWrite_mem (s : State) (w : Nat) (v : Word) : (s.dependWrite w v).mem = s.mem := by
  unfold State.dependWrite
  refine foldl_keeps (p := fun t : State => t.mem = s.mem) (fun t e h => ?_) _ s rfl
  dsimp only
  split
  · split
    · exact h
    · exact (enterQueue_mem ..).trans h
  · exact h

/-- Everything that a write performed at home does to memory: nothing at a poisoned word, else it stores the merged word. -/
theorem homeWrite_mem (s : State) (w v mask : Nat) :
    (s.homeWrite w v mask).2.mem =
      if s.poisoned w = true then s.mem
      else writeBytes s.mem (8 * w) (wd (mergeBytes (s.homeWord w).1.toNat v mask)).toNat 8 := by
  unfold State.homeWrite
  split
  · simp_all [met_mem]
  · simp only [waitWrite_mem, dependWrite_mem, watchWrite_mem]
    split <;> simp [State.setMemWord, clearHolder_mem]

/-- A write performed at home keeps the canonical form. -/
theorem homeWrite_inv {s : State} (h : s.Inv) (w v mask : Nat) : (s.homeWrite w v mask).2.Inv := by
  unfold State.Inv
  rw [homeWrite_mem]
  split
  · exact h
  · exact writeBytes_wf h ..

/-- Placing an instruction keeps the canonical form. -/
theorem placeBytes_inv {s : State} (h : s.Inv) (pa n v : Nat) : (s.placeBytes pa n v).Inv := by
  unfold State.placeBytes
  refine foldl_keeps (p := State.Inv) (fun t k ht => ?_) _ _ (writeBytes_wf h ..)
  unfold State.Inv at ht ⊢
  rw [dropNear_mem]
  exact ht

/-- A module reset keeps the canonical form. -/
theorem execModuleReset_inv {s t : State} (h : s.Inv) (ht : execModuleReset s = .next t) : t.Inv := by
  cases ht
  exact filter_wf _ h

end Machine
end Sys2Proof
end

