-- ==== Sys2Proof/Laws/PerInstr.lean ====
section
/-! SUPPORT. One lemma per instruction: the word that the encoder writes for it decodes to it (R183 to R190, R386). An event has no word. -/
namespace Sys2Proof.Laws.RoundTrip

set_option Elab.async false

/-- The word of a well-formed instruction decodes to the instruction. -/
def Statement (i : Instr) : Prop := ∀ w, encode i = some w → WellFormed i = true → decode w = .instr i

/-- An instruction whose word is laid out as its family says. -/
theorem of_word {i : Instr} {t op d tail : Nat} (he : encode i = some (word t op d tail)) (hop : op < 128)
    (ht : opT op = some t) (hd : d < 128) (htail : tail < 2 ^ (16 * t)) (ht4 : t < 4)
    (hc : WellFormed i = true → candidate op d tail = .ok i) : Statement i := by
  intro w hw hwf
  rw [he] at hw
  rw [← Option.some.inj hw]
  exact decode_word he hwf hop ht hd htail ht4 (hc hwf)

/-- The same for family V, whose tail is known by its fields. -/
theorem of_wordV {i : Instr} {op d f6 sa fa sb fb sc fc : Nat} {m : MaskF}
    (he : encode i = some (encV op d f6 sa fa sb fb sc fc m)) (hop : op < 128) (ht : opT op = some 2) (hd : d < 128)
    (hc : ∀ t, (fld t 0 6 = sa % 64 ∧ fld t 6 6 = sb % 64 ∧ fld t 12 6 = sc % 64 ∧ fld t 18 1 = fa % 2 ∧
      fld t 19 1 = fb % 2 ∧ fld t 20 1 = fc % 2 ∧ maskV t = m ∧ fld t 26 6 = f6 % 64 ∧ fld t 26 4 = f6 % 16 ∧
      fld t 26 3 = f6 % 8 ∧ fld t 29 3 = f6 / 8 % 8 ∧ fld t 0 4 = sa % 16 ∧ fld t 6 4 = sb % 16 ∧
      fld t 12 4 = sc % 16 ∧ fld t 0 3 = sa % 8 ∧ fld t 6 3 = sb % 8 ∧ BitVec.ofNat 3 (fld t 21 3) = m.mr ∧
      (fld t 24 1 == 1) = m.me) → WellFormed i = true → candidate op d t = .ok i) : Statement i := by
  refine of_word he hop ht hd (packFields_lt layV _) (by decide) fun hw => ?_
  obtain ⟨t, ht, h⟩ := fieldsV sa fa sb fb sc fc f6 m
  rw [ht]
  exact hc t h hw

/-- The same for family VM. -/
theorem of_wordVM {i : Instr} {op d f5 sb fb : Nat} {a x : Src} {m : MaskF} {wm : Option (BitVec 2)} {imm : BitVec 16}
    (he : encode i = some (encVM op d f5 a sb fb x m wm imm)) (hop : op < 128) (ht : opT op = some 3) (hd : d < 128)
    (hc : ∀ t, (fld t 0 4 = a.r.toNat % 16 ∧ fld t 4 1 = flag a.f % 2 ∧ fld t 5 6 = sb % 64 ∧ fld t 5 5 = sb % 32 ∧
      fld t 5 4 = sb % 16 ∧ fld t 11 1 = fb % 2 ∧ fld t 12 4 = x.r.toNat % 16 ∧ fld t 16 1 = flag x.f % 2 ∧
      maskVM t = m ∧ wmVM t = wm ∧ fld t 27 2 = f5 % 4 ∧ fld t 29 3 = f5 / 4 % 8 ∧
      BitVec.ofNat 16 (fld t 32 16) = imm ∧ BitVec.ofNat 3 (fld t 17 3) = m.mr ∧ (fld t 20 1 == 1) = m.me) →
      WellFormed i = true → candidate op d t = .ok i) : Statement i := by
  refine of_word he hop ht hd (packFields_lt layVM _) (by decide) fun hw => ?_
  obtain ⟨t, ht, h⟩ := fieldsVM a.r.toNat (flag a.f) sb fb x.r.toNat (flag x.f) f5 m wm imm
  rw [ht]
  exact hc t h hw

theorem nop : Statement .nop := by
  refine of_word (op := 0x0) rfl (by decide) rfl (by decide) (by decide) (by decide) fun hw => ?_
  simp [candidate, candControl]

theorem br (imm : BitVec 32) : Statement (.br imm) := by
  refine of_word (op := 0x1) rfl (by decide) rfl (by decide) (BitVec.isLt _) (by decide) fun hw => ?_
  simp [candidate, candControl, fldB]
  exact fld_whole _

theorem call (imm : BitVec 32) : Statement (.call imm) := by
  refine of_word (op := 0x2) rfl (by decide) rfl (by decide) (BitVec.isLt _) (by decide) fun hw => ?_
  simp [candidate, candControl, fldB]
  exact fld_whole _

theorem jr (a : Src) : Statement (.jr a) := by
  refine of_word (op := 0x3) rfl (by decide) rfl (packFields_lt layD _) (packFields_lt layS _) (by decide) fun hw => ?_
  simp [candidate, candControl, dSub, layD, fldB, srcAt, bitF, noSrc, fld_pack_lt, fld_pack_ge, layS, ofNat_toNat_mod]

theorem callr (a : Src) : Statement (.callr a) := by
  refine of_word (op := 0x3) rfl (by decide) rfl (packFields_lt layD _) (packFields_lt layS _) (by decide) fun hw => ?_
  simp [candidate, candControl, dSub, layD, fldB, srcAt, bitF, noSrc, fld_pack_lt, fld_pack_ge, layS, ofNat_toNat_mod]

theorem ret : Statement .ret := by
  refine of_word (op := 0x3) rfl (by decide) rfl (packFields_lt layD _) (packFields_lt layS _) (by decide) fun hw => ?_
  simp [candidate, candControl, dSub, layD, fld_pack_lt, fld_pack_ge]

theorem bccEq (a : Src) (b : Src) (imm : BitVec 32) : Statement (.bccEq a b imm) := by
  refine of_word (op := 0x4) rfl (by decide) rfl (by decide) (packFields_lt layB _) (by decide) fun hw => ?_
  simp [candidate, candControl, fldB, srcAt, bitF, fld_pack_lt, fld_pack_ge, layB, ofNat_toNat_mod]

theorem bccNe (a : Src) (b : Src) (imm : BitVec 32) : Statement (.bccNe a b imm) := by
  refine of_word (op := 0x4) rfl (by decide) rfl (by decide) (packFields_lt layB _) (by decide) fun hw => ?_
  simp [candidate, candControl, fldB, srcAt, bitF, fld_pack_lt, fld_pack_ge, layB, ofNat_toNat_mod]

theorem bccLt (a : Src) (b : Src) (imm : BitVec 32) : Statement (.bccLt a b imm) := by
  refine of_word (op := 0x4) rfl (by decide) rfl (by decide) (packFields_lt layB _) (by decide) fun hw => ?_
  simp [candidate, candControl, fldB, srcAt, bitF, fld_pack_lt, fld_pack_ge, layB, ofNat_toNat_mod]

theorem bccGe (a : Src) (b : Src) (imm : BitVec 32) : Statement (.bccGe a b imm) := by
  refine of_word (op := 0x4) rfl (by decide) rfl (by decide) (packFields_lt layB _) (by decide) fun hw => ?_
  simp [candidate, candControl, fldB, srcAt, bitF, fld_pack_lt, fld_pack_ge, layB, ofNat_toNat_mod]

theorem bccLtn (a : Src) (b : Src) (imm : BitVec 32) : Statement (.bccLtn a b imm) := by
  refine of_word (op := 0x4) rfl (by decide) rfl (by decide) (packFields_lt layB _) (by decide) fun hw => ?_
  simp [candidate, candControl, fldB, srcAt, bitF, fld_pack_lt, fld_pack_ge, layB, ofNat_toNat_mod]

theorem bccGen (a : Src) (b : Src) (imm : BitVec 32) : Statement (.bccGen a b imm) := by
  refine of_word (op := 0x4) rfl (by decide) rfl (by decide) (packFields_lt layB _) (by decide) fun hw => ?_
  simp [candidate, candControl, fldB, srcAt, bitF, fld_pack_lt, fld_pack_ge, layB, ofNat_toNat_mod]

theorem bz (a : Src) (imm : BitVec 32) : Statement (.bz a imm) := by
  refine of_word (op := 0x5) rfl (by decide) rfl (by decide) (packFields_lt layB _) (by decide) fun hw => ?_
  simp [candidate, candControl, fldB, srcAt, bitF, noSrc, fld_pack_lt, fld_pack_ge, layB, ofNat_toNat_mod]

theorem bnz (a : Src) (imm : BitVec 32) : Statement (.bnz a imm) := by
  refine of_word (op := 0x5) rfl (by decide) rfl (by decide) (packFields_lt layB _) (by decide) fun hw => ?_
  simp [candidate, candControl, fldB, srcAt, bitF, noSrc, fld_pack_lt, fld_pack_ge, layB, ofNat_toNat_mod]

theorem trap (imm : BitVec 27) : Statement (.trap imm) := by
  refine of_word (op := 0x6) rfl (by decide) rfl (by decide) (packFields_lt layI _) (by decide) fun hw => ?_
  simp [candidate, candControl, fldB, noSrc, fld_pack_lt, fld_pack_ge, layI, ofNat_toNat_mod]

theorem brk (imm : BitVec 27) : Statement (.brk imm) := by
  refine of_word (op := 0xc) rfl (by decide) rfl (by decide) (packFields_lt layI _) (by decide) fun hw => ?_
  simp [candidate, candControl, fldB, noSrc, fld_pack_lt, fld_pack_ge, layI, ofNat_toNat_mod]

theorem tret : Statement .tret := by
  refine of_word (op := 0x7) rfl (by decide) rfl (by decide) (by decide) (by decide) fun hw => ?_
  simp [candidate, candControl]

theorem sysr (d : Reg) (n : BitVec 12) : Statement (.sysr d n) := by
  refine of_word (op := 0x8) rfl (by decide) rfl (packFields_lt layD _) (packFields_lt layI _) (by decide) fun hw => ?_
  simp [candidate, candControl, dSub, layD, fldB, noSrc, fld_pack_lt, fld_pack_ge, layI, ofNat_toNat_mod]

theorem sysw (n : BitVec 12) (a : Src) : Statement (.sysw n a) := by
  refine of_word (op := 0x9) rfl (by decide) rfl (by decide) (packFields_lt layI _) (by decide) fun hw => ?_
  simp [candidate, candControl, fldB, srcAt, bitF, fld_pack_lt, fld_pack_ge, layI, ofNat_toNat_mod]

theorem halt : Statement .halt := by
  refine of_word (op := 0xa) rfl (by decide) rfl (by decide) (by decide) (by decide) fun hw => ?_
  simp [candidate, candControl]

theorem ifence : Statement .ifence := by
  refine of_word (op := 0xb) rfl (by decide) rfl (by decide) (by decide) (by decide) fun hw => ?_
  simp [candidate, candControl]

theorem add (d : Reg) (a : Src) (b : Src) : Statement (.add d a b) := by
  refine of_word (op := 0x10) rfl (by decide) rfl (packFields_lt layD _) (packFields_lt layS _) (by decide) fun hw => ?_
  simp [candidate, candControl, dSub, layD, fldB, srcAt, bitF, fld_pack_lt, fld_pack_ge, layS, ofNat_toNat_mod]
  rfl

theorem sub (d : Reg) (a : Src) (b : Src) : Statement (.sub d a b) := by
  refine of_word (op := 0x10) rfl (by decide) rfl (packFields_lt layD _) (packFields_lt layS _) (by decide) fun hw => ?_
  simp [candidate, candControl, dSub, layD, fldB, srcAt, bitF, fld_pack_lt, fld_pack_ge, layS, ofNat_toNat_mod]
  rfl

theorem and (d : Reg) (a : Src) (b : Src) : Statement (.and d a b) := by
  refine of_word (op := 0x10) rfl (by decide) rfl (packFields_lt layD _) (packFields_lt layS _) (by decide) fun hw => ?_
  simp [candidate, candControl, dSub, layD, fldB, srcAt, bitF, fld_pack_lt, fld_pack_ge, layS, ofNat_toNat_mod]
  rfl

theorem or (d : Reg) (a : Src) (b : Src) : Statement (.or d a b) := by
  refine of_word (op := 0x10) rfl (by decide) rfl (packFields_lt layD _) (packFields_lt layS _) (by decide) fun hw => ?_
  simp [candidate, candControl, dSub, layD, fldB, srcAt, bitF, fld_pack_lt, fld_pack_ge, layS, ofNat_toNat_mod]
  rfl

theorem xor (d : Reg) (a : Src) (b : Src) : Statement (.xor d a b) := by
  refine of_word (op := 0x10) rfl (by decide) rfl (packFields_lt layD _) (packFields_lt layS _) (by decide) fun hw => ?_
  simp [candidate, candControl, dSub, layD, fldB, srcAt, bitF, fld_pack_lt, fld_pack_ge, layS, ofNat_toNat_mod]
  rfl

theorem andn (d : Reg) (a : Src) (b : Src) : Statement (.andn d a b) := by
  refine of_word (op := 0x10) rfl (by decide) rfl (packFields_lt layD _) (packFields_lt layS _) (by decide) fun hw => ?_
  simp [candidate, candControl, dSub, layD, fldB, srcAt, bitF, fld_pack_lt, fld_pack_ge, layS, ofNat_toNat_mod]
  rfl

theorem shl (d : Reg) (a : Src) (b : Src) : Statement (.shl d a b) := by
  refine of_word (op := 0x10) rfl (by decide) rfl (packFields_lt layD _) (packFields_lt layS _) (by decide) fun hw => ?_
  simp [candidate, candControl, dSub, layD, fldB, srcAt, bitF, fld_pack_lt, fld_pack_ge, layS, ofNat_toNat_mod]
  rfl

theorem shr (d : Reg) (a : Src) (b : Src) : Statement (.shr d a b) := by
  refine of_word (op := 0x10) rfl (by decide) rfl (packFields_lt layD _) (packFields_lt layS _) (by decide) fun hw => ?_
  simp [candidate, candControl, dSub, layD, fldB, srcAt, bitF, fld_pack_lt, fld_pack_ge, layS, ofNat_toNat_mod]
  rfl

theorem shra (d : Reg) (a : Src) (b : Src) : Statement (.shra d a b) := by
  refine of_word (op := 0x10) rfl (by decide) rfl (packFields_lt layD _) (packFields_lt layS _) (by decide) fun hw => ?_
  simp [candidate, candControl, dSub, layD, fldB, srcAt, bitF, fld_pack_lt, fld_pack_ge, layS, ofNat_toNat_mod]
  rfl

theorem min (d : Reg) (a : Src) (b : Src) : Statement (.min d a b) := by
  refine of_word (op := 0x10) rfl (by decide) rfl (packFields_lt layD _) (packFields_lt layS _) (by decide) fun hw => ?_
  simp [candidate, candControl, dSub, layD, fldB, srcAt, bitF, fld_pack_lt, fld_pack_ge, layS, ofNat_toNat_mod]
  rfl

theorem max (d : Reg) (a : Src) (b : Src) : Statement (.max d a b) := by
  refine of_word (op := 0x10) rfl (by decide) rfl (packFields_lt layD _) (packFields_lt layS _) (by decide) fun hw => ?_
  simp [candidate, candControl, dSub, layD, fldB, srcAt, bitF, fld_pack_lt, fld_pack_ge, layS, ofNat_toNat_mod]
  rfl

theorem minn (d : Reg) (a : Src) (b : Src) : Statement (.minn d a b) := by
  refine of_word (op := 0x10) rfl (by decide) rfl (packFields_lt layD _) (packFields_lt layS _) (by decide) fun hw => ?_
  simp [candidate, candControl, dSub, layD, fldB, srcAt, bitF, fld_pack_lt, fld_pack_ge, layS, ofNat_toNat_mod]
  rfl

theorem maxn (d : Reg) (a : Src) (b : Src) : Statement (.maxn d a b) := by
  refine of_word (op := 0x10) rfl (by decide) rfl (packFields_lt layD _) (packFields_lt layS _) (by decide) fun hw => ?_
  simp [candidate, candControl, dSub, layD, fldB, srcAt, bitF, fld_pack_lt, fld_pack_ge, layS, ofNat_toNat_mod]
  rfl

theorem slt (d : Reg) (a : Src) (b : Src) : Statement (.slt d a b) := by
  refine of_word (op := 0x10) rfl (by decide) rfl (packFields_lt layD _) (packFields_lt layS _) (by decide) fun hw => ?_
  simp [candidate, candControl, dSub, layD, fldB, srcAt, bitF, fld_pack_lt, fld_pack_ge, layS, ofNat_toNat_mod]
  rfl

theorem sltn (d : Reg) (a : Src) (b : Src) : Statement (.sltn d a b) := by
  refine of_word (op := 0x10) rfl (by decide) rfl (packFields_lt layD _) (packFields_lt layS _) (by decide) fun hw => ?_
  simp [candidate, candControl, dSub, layD, fldB, srcAt, bitF, fld_pack_lt, fld_pack_ge, layS, ofNat_toNat_mod]
  rfl

theorem seq (d : Reg) (a : Src) (b : Src) : Statement (.seq d a b) := by
  refine of_word (op := 0x10) rfl (by decide) rfl (packFields_lt layD _) (packFields_lt layS _) (by decide) fun hw => ?_
  simp [candidate, candControl, dSub, layD, fldB, srcAt, bitF, fld_pack_lt, fld_pack_ge, layS, ofNat_toNat_mod]
  rfl

theorem mul (d : Reg) (a : Src) (b : Src) : Statement (.mul d a b) := by
  refine of_word (op := 0x11) rfl (by decide) rfl (packFields_lt layD _) (packFields_lt layS _) (by decide) fun hw => ?_
  simp [candidate, candControl, dSub, layD, fldB, srcAt, bitF, fld_pack_lt, fld_pack_ge, layS, ofNat_toNat_mod]
  rfl

theorem mulh (d : Reg) (a : Src) (b : Src) : Statement (.mulh d a b) := by
  refine of_word (op := 0x11) rfl (by decide) rfl (packFields_lt layD _) (packFields_lt layS _) (by decide) fun hw => ?_
  simp [candidate, candControl, dSub, layD, fldB, srcAt, bitF, fld_pack_lt, fld_pack_ge, layS, ofNat_toNat_mod]
  rfl

theorem mulhn (d : Reg) (a : Src) (b : Src) : Statement (.mulhn d a b) := by
  refine of_word (op := 0x11) rfl (by decide) rfl (packFields_lt layD _) (packFields_lt layS _) (by decide) fun hw => ?_
  simp [candidate, candControl, dSub, layD, fldB, srcAt, bitF, fld_pack_lt, fld_pack_ge, layS, ofNat_toNat_mod]
  rfl

theorem div (d : Reg) (a : Src) (b : Src) : Statement (.div d a b) := by
  refine of_word (op := 0x11) rfl (by decide) rfl (packFields_lt layD _) (packFields_lt layS _) (by decide) fun hw => ?_
  simp [candidate, candControl, dSub, layD, fldB, srcAt, bitF, fld_pack_lt, fld_pack_ge, layS, ofNat_toNat_mod]
  rfl

theorem divn (d : Reg) (a : Src) (b : Src) : Statement (.divn d a b) := by
  refine of_word (op := 0x11) rfl (by decide) rfl (packFields_lt layD _) (packFields_lt layS _) (by decide) fun hw => ?_
  simp [candidate, candControl, dSub, layD, fldB, srcAt, bitF, fld_pack_lt, fld_pack_ge, layS, ofNat_toNat_mod]
  rfl

theorem rem (d : Reg) (a : Src) (b : Src) : Statement (.rem d a b) := by
  refine of_word (op := 0x11) rfl (by decide) rfl (packFields_lt layD _) (packFields_lt layS _) (by decide) fun hw => ?_
  simp [candidate, candControl, dSub, layD, fldB, srcAt, bitF, fld_pack_lt, fld_pack_ge, layS, ofNat_toNat_mod]
  rfl

theorem remn (d : Reg) (a : Src) (b : Src) : Statement (.remn d a b) := by
  refine of_word (op := 0x11) rfl (by decide) rfl (packFields_lt layD _) (packFields_lt layS _) (by decide) fun hw => ?_
  simp [candidate, candControl, dSub, layD, fldB, srcAt, bitF, fld_pack_lt, fld_pack_ge, layS, ofNat_toNat_mod]
  rfl

theorem clz (d : Reg) (a : Src) : Statement (.clz d a) := by
  refine of_word (op := 0x12) rfl (by decide) rfl (packFields_lt layD _) (packFields_lt layS _) (by decide) fun hw => ?_
  simp [candidate, candControl, dSub, layD, fldB, srcAt, bitF, noSrc, fld_pack_lt, fld_pack_ge, layS, ofNat_toNat_mod]

theorem ctz (d : Reg) (a : Src) : Statement (.ctz d a) := by
  refine of_word (op := 0x12) rfl (by decide) rfl (packFields_lt layD _) (packFields_lt layS _) (by decide) fun hw => ?_
  simp [candidate, candControl, dSub, layD, fldB, srcAt, bitF, noSrc, fld_pack_lt, fld_pack_ge, layS, ofNat_toNat_mod]

theorem popc (d : Reg) (a : Src) : Statement (.popc d a) := by
  refine of_word (op := 0x12) rfl (by decide) rfl (packFields_lt layD _) (packFields_lt layS _) (by decide) fun hw => ?_
  simp [candidate, candControl, dSub, layD, fldB, srcAt, bitF, noSrc, fld_pack_lt, fld_pack_ge, layS, ofNat_toNat_mod]

theorem brev (d : Reg) (a : Src) : Statement (.brev d a) := by
  refine of_word (op := 0x12) rfl (by decide) rfl (packFields_lt layD _) (packFields_lt layS _) (by decide) fun hw => ?_
  simp [candidate, candControl, dSub, layD, fldB, srcAt, bitF, noSrc, fld_pack_lt, fld_pack_ge, layS, ofNat_toNat_mod]

theorem bswap (d : Reg) (a : Src) : Statement (.bswap d a) := by
  refine of_word (op := 0x12) rfl (by decide) rfl (packFields_lt layD _) (packFields_lt layS _) (by decide) fun hw => ?_
  simp [candidate, candControl, dSub, layD, fldB, srcAt, bitF, noSrc, fld_pack_lt, fld_pack_ge, layS, ofNat_toNat_mod]

theorem sext (w : SextW) (d : Reg) (a : Src) : Statement (.sext w d a) := by
  refine of_word (op := 0x12) rfl (by decide) rfl (packFields_lt layD _) (packFields_lt layS _) (by decide) fun hw => ?_
  simp [candidate, candControl, dSub, layD, fldB, srcAt, bitF, fld_pack_lt, fld_pack_ge, layS, codeOr,
    ofNat_toNat_mod]

theorem addi (d : Reg) (a : Src) (imm : BitVec 27) : Statement (.addi d a imm) := by
  refine of_word (op := 0x13) rfl (by decide) rfl (packFields_lt layD _) (packFields_lt layI _) (by decide) fun hw => ?_
  simp [candidate, candControl, dSub, layD, fldB, srcAt, bitF, fld_pack_lt, fld_pack_ge, layI, ofNat_toNat_mod]

theorem andi (d : Reg) (a : Src) (imm : BitVec 27) : Statement (.andi d a imm) := by
  refine of_word (op := 0x14) rfl (by decide) rfl (packFields_lt layD _) (packFields_lt layI _) (by decide) fun hw => ?_
  simp [candidate, candControl, dSub, layD, fldB, srcAt, bitF, fld_pack_lt, fld_pack_ge, layI, ofNat_toNat_mod]

theorem ori (d : Reg) (a : Src) (imm : BitVec 27) : Statement (.ori d a imm) := by
  refine of_word (op := 0x15) rfl (by decide) rfl (packFields_lt layD _) (packFields_lt layI _) (by decide) fun hw => ?_
  simp [candidate, candControl, dSub, layD, fldB, srcAt, bitF, fld_pack_lt, fld_pack_ge, layI, ofNat_toNat_mod]

theorem xori (d : Reg) (a : Src) (imm : BitVec 27) : Statement (.xori d a imm) := by
  refine of_word (op := 0x16) rfl (by decide) rfl (packFields_lt layD _) (packFields_lt layI _) (by decide) fun hw => ?_
  simp [candidate, candControl, dSub, layD, fldB, srcAt, bitF, fld_pack_lt, fld_pack_ge, layI, ofNat_toNat_mod]

theorem shli (d : Reg) (a : Src) (sh : BitVec 6) : Statement (.shli d a sh) := by
  refine of_word (op := 0x17) rfl (by decide) rfl (packFields_lt layD _) (packFields_lt layI _) (by decide) fun hw => ?_
  simp [candidate, candControl, dSub, layD, fldB, srcAt, bitF, fld_pack_lt, fld_pack_ge, layI, ofNat_toNat_mod]

theorem shri (d : Reg) (a : Src) (sh : BitVec 6) : Statement (.shri d a sh) := by
  refine of_word (op := 0x17) rfl (by decide) rfl (packFields_lt layD _) (packFields_lt layI _) (by decide) fun hw => ?_
  simp [candidate, candControl, dSub, layD, fldB, srcAt, bitF, fld_pack_lt, fld_pack_ge, layI, ofNat_toNat_mod]

theorem shrai (d : Reg) (a : Src) (sh : BitVec 6) : Statement (.shrai d a sh) := by
  refine of_word (op := 0x17) rfl (by decide) rfl (packFields_lt layD _) (packFields_lt layI _) (by decide) fun hw => ?_
  simp [candidate, candControl, dSub, layD, fldB, srcAt, bitF, fld_pack_lt, fld_pack_ge, layI, ofNat_toNat_mod]

theorem slti (d : Reg) (a : Src) (imm : BitVec 27) : Statement (.slti d a imm) := by
  refine of_word (op := 0x18) rfl (by decide) rfl (packFields_lt layD _) (packFields_lt layI _) (by decide) fun hw => ?_
  simp [candidate, candControl, dSub, layD, fldB, srcAt, bitF, fld_pack_lt, fld_pack_ge, layI, ofNat_toNat_mod]

theorem sltni (d : Reg) (a : Src) (imm : BitVec 27) : Statement (.sltni d a imm) := by
  refine of_word (op := 0x19) rfl (by decide) rfl (packFields_lt layD _) (packFields_lt layI _) (by decide) fun hw => ?_
  simp [candidate, candControl, dSub, layD, fldB, srcAt, bitF, fld_pack_lt, fld_pack_ge, layI, ofNat_toNat_mod]

theorem li (d : Reg) (imm : BitVec 48) : Statement (.li d imm) := by
  refine of_word (op := 0x1a) rfl (by decide) rfl (packFields_lt layD _) (BitVec.isLt _) (by decide) fun hw => ?_
  simp [candidate, candControl, dSub, layD, fldB, fld_pack_lt, ofNat_toNat_mod]
  exact fld_whole _

theorem lea (k : BitVec 2) (d : Reg) (a : Src) (imm : BitVec 27) : Statement (.lea k d a imm) := by
  refine of_word (op := 0x1b) rfl (by decide) rfl (packFields_lt layD _) (packFields_lt layI _) (by decide) fun hw => ?_
  simp [candidate, candControl, dSub, layD, fldB, srcAt, bitF, fld_pack_lt, fld_pack_ge, layI, ofNat_toNat_mod]

theorem addpc (d : Reg) (imm : BitVec 27) : Statement (.addpc d imm) := by
  refine of_word (op := 0x1c) rfl (by decide) rfl (packFields_lt layD _) (packFields_lt layI _) (by decide) fun hw => ?_
  simp [candidate, candControl, dSub, layD, fldB, noSrc, fld_pack_lt, fld_pack_ge, layI, ofNat_toNat_mod]

theorem sel (d : Reg) (a : Src) (b : Src) (c : Src) : Statement (.sel d a b c) := by
  refine of_word (op := 0x1d) rfl (by decide) rfl (packFields_lt layD _) (packFields_lt layE _) (by decide) fun hw => ?_
  simp [candidate, candControl, dSub, layD, fldB, srcAt, bitF, fld_pack_lt, fld_pack_ge, layE, ofNat_toNat_mod]

theorem fadd (t : FTy) (rm : RMode) (d : Reg) (a : Src) (b : Src) : Statement (.fadd t rm d a b) := by
  refine of_word (op := 0x28) rfl (by decide) rfl (packFields_lt layD _) (packFields_lt layS _) (by decide) fun hw => ?_
  simp [candidate, candFloat, dSub, layD, fldB, srcAt, bitF, fld_pack_lt, fld_pack_ge, layS, rmOr, codeOr,
    ofNat_toNat_mod]

theorem fsub (t : FTy) (rm : RMode) (d : Reg) (a : Src) (b : Src) : Statement (.fsub t rm d a b) := by
  refine of_word (op := 0x28) rfl (by decide) rfl (packFields_lt layD _) (packFields_lt layS _) (by decide) fun hw => ?_
  simp [candidate, candFloat, dSub, layD, fldB, srcAt, bitF, fld_pack_lt, fld_pack_ge, layS, rmOr, codeOr,
    ofNat_toNat_mod]

theorem fmul (t : FTy) (rm : RMode) (d : Reg) (a : Src) (b : Src) : Statement (.fmul t rm d a b) := by
  refine of_word (op := 0x28) rfl (by decide) rfl (packFields_lt layD _) (packFields_lt layS _) (by decide) fun hw => ?_
  simp [candidate, candFloat, dSub, layD, fldB, srcAt, bitF, fld_pack_lt, fld_pack_ge, layS, rmOr, codeOr,
    ofNat_toNat_mod]

theorem fdiv (t : FTy) (rm : RMode) (d : Reg) (a : Src) (b : Src) : Statement (.fdiv t rm d a b) := by
  refine of_word (op := 0x28) rfl (by decide) rfl (packFields_lt layD _) (packFields_lt layS _) (by decide) fun hw => ?_
  simp [candidate, candFloat, dSub, layD, fldB, srcAt, bitF, fld_pack_lt, fld_pack_ge, layS, rmOr, codeOr,
    ofNat_toNat_mod]

theorem fmin (t : FTy) (d : Reg) (a : Src) (b : Src) : Statement (.fmin t d a b) := by
  refine of_word (op := 0x28) rfl (by decide) rfl (packFields_lt layD _) (packFields_lt layS _) (by decide) fun hw => ?_
  simp [candidate, candFloat, dSub, layD, fldB, srcAt, bitF, fld_pack_lt, fld_pack_ge, layS, codeOr, ofNat_toNat_mod]

theorem fmax (t : FTy) (d : Reg) (a : Src) (b : Src) : Statement (.fmax t d a b) := by
  refine of_word (op := 0x28) rfl (by decide) rfl (packFields_lt layD _) (packFields_lt layS _) (by decide) fun hw => ?_
  simp [candidate, candFloat, dSub, layD, fldB, srcAt, bitF, fld_pack_lt, fld_pack_ge, layS, codeOr, ofNat_toNat_mod]

theorem fsqrt (t : FTy) (rm : RMode) (d : Reg) (a : Src) : Statement (.fsqrt t rm d a) := by
  refine of_word (op := 0x28) rfl (by decide) rfl (packFields_lt layD _) (packFields_lt layS _) (by decide) fun hw => ?_
  simp [candidate, candFloat, dSub, layD, fldB, srcAt, bitF, noSrc, fld_pack_lt, fld_pack_ge, layS, rmOr,
    codeOr, ofNat_toNat_mod]

theorem fsgnj (t : FTy) (d : Reg) (a : Src) (b : Src) : Statement (.fsgnj t d a b) := by
  refine of_word (op := 0x29) rfl (by decide) rfl (packFields_lt layD _) (packFields_lt layS _) (by decide) fun hw => ?_
  simp [candidate, candFloat, dSub, layD, fldB, srcAt, bitF, fld_pack_lt, fld_pack_ge, layS, codeOr, ofNat_toNat_mod]

theorem fsgnjn (t : FTy) (d : Reg) (a : Src) (b : Src) : Statement (.fsgnjn t d a b) := by
  refine of_word (op := 0x29) rfl (by decide) rfl (packFields_lt layD _) (packFields_lt layS _) (by decide) fun hw => ?_
  simp [candidate, candFloat, dSub, layD, fldB, srcAt, bitF, fld_pack_lt, fld_pack_ge, layS, codeOr, ofNat_toNat_mod]

theorem fsgnjx (t : FTy) (d : Reg) (a : Src) (b : Src) : Statement (.fsgnjx t d a b) := by
  refine of_word (op := 0x29) rfl (by decide) rfl (packFields_lt layD _) (packFields_lt layS _) (by decide) fun hw => ?_
  simp [candidate, candFloat, dSub, layD, fldB, srcAt, bitF, fld_pack_lt, fld_pack_ge, layS, codeOr, ofNat_toNat_mod]

theorem feq (t : FTy) (d : Reg) (a : Src) (b : Src) : Statement (.feq t d a b) := by
  refine of_word (op := 0x29) rfl (by decide) rfl (packFields_lt layD _) (packFields_lt layS _) (by decide) fun hw => ?_
  simp [candidate, candFloat, dSub, layD, fldB, srcAt, bitF, fld_pack_lt, fld_pack_ge, layS, codeOr, ofNat_toNat_mod]

theorem flt (t : FTy) (d : Reg) (a : Src) (b : Src) : Statement (.flt t d a b) := by
  refine of_word (op := 0x29) rfl (by decide) rfl (packFields_lt layD _) (packFields_lt layS _) (by decide) fun hw => ?_
  simp [candidate, candFloat, dSub, layD, fldB, srcAt, bitF, fld_pack_lt, fld_pack_ge, layS, codeOr, ofNat_toNat_mod]

theorem fle (t : FTy) (d : Reg) (a : Src) (b : Src) : Statement (.fle t d a b) := by
  refine of_word (op := 0x29) rfl (by decide) rfl (packFields_lt layD _) (packFields_lt layS _) (by decide) fun hw => ?_
  simp [candidate, candFloat, dSub, layD, fldB, srcAt, bitF, fld_pack_lt, fld_pack_ge, layS, codeOr, ofNat_toNat_mod]

theorem fclass (t : FTy) (d : Reg) (a : Src) : Statement (.fclass t d a) := by
  refine of_word (op := 0x29) rfl (by decide) rfl (packFields_lt layD _) (packFields_lt layS _) (by decide) fun hw => ?_
  simp [candidate, candFloat, dSub, layD, fldB, srcAt, bitF, noSrc, fld_pack_lt, fld_pack_ge, layS, codeOr,
    ofNat_toNat_mod]

theorem fmadd (t : FTy) (rm : RMode) (d : Reg) (a : Src) (b : Src) (c : Src) : Statement (.fmadd t rm d a b c) := by
  refine of_word (op := 0x2a) rfl (by decide) rfl (packFields_lt layD _) (packFields_lt layE _) (by decide) fun hw => ?_
  simp [candidate, candFloat, dSub, layD, fldB, srcAt, bitF, fld_pack_lt, fld_pack_ge, layE, rmOr, codeOr,
    ofNat_toNat_mod]

theorem fmsub (t : FTy) (rm : RMode) (d : Reg) (a : Src) (b : Src) (c : Src) : Statement (.fmsub t rm d a b c) := by
  refine of_word (op := 0x2a) rfl (by decide) rfl (packFields_lt layD _) (packFields_lt layE _) (by decide) fun hw => ?_
  simp [candidate, candFloat, dSub, layD, fldB, srcAt, bitF, fld_pack_lt, fld_pack_ge, layE, rmOr, codeOr,
    ofNat_toNat_mod]

theorem fnmadd (t : FTy) (rm : RMode) (d : Reg) (a : Src) (b : Src) (c : Src) : Statement (.fnmadd t rm d a b c) := by
  refine of_word (op := 0x2a) rfl (by decide) rfl (packFields_lt layD _) (packFields_lt layE _) (by decide) fun hw => ?_
  simp [candidate, candFloat, dSub, layD, fldB, srcAt, bitF, fld_pack_lt, fld_pack_ge, layE, rmOr, codeOr,
    ofNat_toNat_mod]

theorem fcvt (dt : CTy) (st : CTy) (rm : RMode) (d : Reg) (a : Src) : Statement (.fcvt dt st rm d a) := by
  refine of_word (op := 0x2b) rfl (by decide) rfl (packFields_lt layD _) (packFields_lt layS _) (by decide) fun hw => ?_
  simp [candidate, candFloat, dSub, layD, fldB, srcAt, bitF, fld_pack_lt, fld_pack_ge, layS,
    show fcvtPair dt st = true from hw, rmOr, codeOr, ofNat_toNat_mod]

theorem ld (z : MSize) (d : Reg) (a : Src) (off : BitVec 24) : Statement (.ld z d a off) := by
  refine of_word (op := 0x30) rfl (by decide) rfl (packFields_lt layDM _) (packFields_lt layM _) (by decide) fun hw => ?_
  simp [candidate, candMemory, fldB, srcAt, bitF, fld_pack_lt, fld_pack_ge, layM, layDM, codeOr, ofNat_toNat_mod]

theorem st (z : SSize) (a : Src) (off : BitVec 24) (x : Src) : Statement (.st z a off x) := by
  refine of_word (op := 0x31) rfl (by decide) rfl (packFields_lt layDM _) (packFields_lt layM _) (by decide) fun hw => ?_
  simp [candidate, candMemory, fldB, srcAt, bitF, fld_pack_lt, fld_pack_ge, layM, layDM, codeOr, ofNat_toNat_mod]

theorem lda (z : MSize) (sc : Scope) (d : Reg) (a : Src) (off : BitVec 24) : Statement (.lda z sc d a off) := by
  refine of_word (op := 0x32) rfl (by decide) rfl (packFields_lt layDM _) (packFields_lt layM _) (by decide) fun hw => ?_
  simp [candidate, candMemory, fldB, srcAt, bitF, fld_pack_lt, fld_pack_ge, layM, layDM, codeOr, ofNat_toNat_mod]

theorem strel (z : SSize) (sc : Scope) (a : Src) (off : BitVec 24) (x : Src) : Statement (.strel z sc a off x) := by
  refine of_word (op := 0x33) rfl (by decide) rfl (packFields_lt layDM _) (packFields_lt layM _) (by decide) fun hw => ?_
  simp [candidate, candMemory, fldB, srcAt, bitF, fld_pack_lt, fld_pack_ge, layM, layDM, codeOr, ofNat_toNat_mod]

theorem amoadd (w : Bool) (o : AOrd) (d : Reg) (a : Src) (off : BitVec 16) (b : Src) : Statement (.amoadd w o d a off b) := by
  refine of_word (op := 0x34) rfl (by decide) rfl (packFields_lt layD _) (packFields_lt layE _) (by decide) fun hw => ?_
  simp [candidate, candMemory, dSub, layD, fldB, srcAt, bitF, noSrc, fld_pack_lt, fld_pack_ge, layE,
    AOrd.imm_w, amoOf, codeOr, ofNat_toNat_mod]

theorem amoand (w : Bool) (o : AOrd) (d : Reg) (a : Src) (off : BitVec 16) (b : Src) : Statement (.amoand w o d a off b) := by
  refine of_word (op := 0x34) rfl (by decide) rfl (packFields_lt layD _) (packFields_lt layE _) (by decide) fun hw => ?_
  simp [candidate, candMemory, dSub, layD, fldB, srcAt, bitF, noSrc, fld_pack_lt, fld_pack_ge, layE,
    AOrd.imm_w, amoOf, codeOr, ofNat_toNat_mod]

theorem amoor (w : Bool) (o : AOrd) (d : Reg) (a : Src) (off : BitVec 16) (b : Src) : Statement (.amoor w o d a off b) := by
  refine of_word (op := 0x34) rfl (by decide) rfl (packFields_lt layD _) (packFields_lt layE _) (by decide) fun hw => ?_
  simp [candidate, candMemory, dSub, layD, fldB, srcAt, bitF, noSrc, fld_pack_lt, fld_pack_ge, layE,
    AOrd.imm_w, amoOf, codeOr, ofNat_toNat_mod]

theorem amoxor (w : Bool) (o : AOrd) (d : Reg) (a : Src) (off : BitVec 16) (b : Src) : Statement (.amoxor w o d a off b) := by
  refine of_word (op := 0x34) rfl (by decide) rfl (packFields_lt layD _) (packFields_lt layE _) (by decide) fun hw => ?_
  simp [candidate, candMemory, dSub, layD, fldB, srcAt, bitF, noSrc, fld_pack_lt, fld_pack_ge, layE,
    AOrd.imm_w, amoOf, codeOr, ofNat_toNat_mod]

theorem amomin (w : Bool) (o : AOrd) (d : Reg) (a : Src) (off : BitVec 16) (b : Src) : Statement (.amomin w o d a off b) := by
  refine of_word (op := 0x34) rfl (by decide) rfl (packFields_lt layD _) (packFields_lt layE _) (by decide) fun hw => ?_
  simp [candidate, candMemory, dSub, layD, fldB, srcAt, bitF, noSrc, fld_pack_lt, fld_pack_ge, layE,
    AOrd.imm_w, amoOf, codeOr, ofNat_toNat_mod]

theorem amomax (w : Bool) (o : AOrd) (d : Reg) (a : Src) (off : BitVec 16) (b : Src) : Statement (.amomax w o d a off b) := by
  refine of_word (op := 0x34) rfl (by decide) rfl (packFields_lt layD _) (packFields_lt layE _) (by decide) fun hw => ?_
  simp [candidate, candMemory, dSub, layD, fldB, srcAt, bitF, noSrc, fld_pack_lt, fld_pack_ge, layE,
    AOrd.imm_w, amoOf, codeOr, ofNat_toNat_mod]

theorem amominn (w : Bool) (o : AOrd) (d : Reg) (a : Src) (off : BitVec 16) (b : Src) : Statement (.amominn w o d a off b) := by
  refine of_word (op := 0x34) rfl (by decide) rfl (packFields_lt layD _) (packFields_lt layE _) (by decide) fun hw => ?_
  simp [candidate, candMemory, dSub, layD, fldB, srcAt, bitF, noSrc, fld_pack_lt, fld_pack_ge, layE,
    AOrd.imm_w, amoOf, codeOr, ofNat_toNat_mod]

theorem amomaxn (w : Bool) (o : AOrd) (d : Reg) (a : Src) (off : BitVec 16) (b : Src) : Statement (.amomaxn w o d a off b) := by
  refine of_word (op := 0x34) rfl (by decide) rfl (packFields_lt layD _) (packFields_lt layE _) (by decide) fun hw => ?_
  simp [candidate, candMemory, dSub, layD, fldB, srcAt, bitF, noSrc, fld_pack_lt, fld_pack_ge, layE,
    AOrd.imm_w, amoOf, codeOr, ofNat_toNat_mod]

theorem amoswap (w : Bool) (o : AOrd) (d : Reg) (a : Src) (off : BitVec 16) (b : Src) : Statement (.amoswap w o d a off b) := by
  refine of_word (op := 0x34) rfl (by decide) rfl (packFields_lt layD _) (packFields_lt layE _) (by decide) fun hw => ?_
  simp [candidate, candMemory, dSub, layD, fldB, srcAt, bitF, noSrc, fld_pack_lt, fld_pack_ge, layE,
    AOrd.imm_w, amoOf, codeOr, ofNat_toNat_mod]

theorem amocas (w : Bool) (o : AOrd) (d : Reg) (a : Src) (off : BitVec 16) (b : Src) (c : Src) : Statement (.amocas w o d a off b c) := by
  refine of_word (op := 0x34) rfl (by decide) rfl (packFields_lt layD _) (packFields_lt layE _) (by decide) fun hw => ?_
  simp [candidate, candMemory, dSub, layD, fldB, srcAt, bitF, fld_pack_lt, fld_pack_ge, layE, AOrd.imm_w,
    amoOf, codeOr, ofNat_toNat_mod]

theorem amofadd (w : Bool) (o : AOrd) (d : Reg) (a : Src) (off : BitVec 16) (b : Src) : Statement (.amofadd w o d a off b) := by
  refine of_word (op := 0x34) rfl (by decide) rfl (packFields_lt layD _) (packFields_lt layE _) (by decide) fun hw => ?_
  simp [candidate, candMemory, dSub, layD, fldB, srcAt, bitF, noSrc, fld_pack_lt, fld_pack_ge, layE,
    AOrd.imm_w, amoOf, codeOr, ofNat_toNat_mod]

theorem qacq (sc : Scope) (d : Reg) (a : Src) (off : BitVec 24) : Statement (.qacq sc d a off) := by
  refine of_word (op := 0x35) rfl (by decide) rfl (packFields_lt layDM _) (packFields_lt layM _) (by decide) fun hw => ?_
  simp [candidate, candMemory, fldB, srcAt, bitF, fld_pack_lt, fld_pack_ge, layM, layDM, ofNat_toNat_mod]

theorem qrel (sc : Scope) (d : Reg) (a : Src) (off : BitVec 24) : Statement (.qrel sc d a off) := by
  refine of_word (op := 0x36) rfl (by decide) rfl (packFields_lt layDM _) (packFields_lt layM _) (by decide) fun hw => ?_
  simp [candidate, candMemory, fldB, srcAt, bitF, fld_pack_lt, fld_pack_ge, layM, layDM, ofNat_toNat_mod]

theorem qtry (sc : Scope) (d : Reg) (a : Src) (off : BitVec 24) : Statement (.qtry sc d a off) := by
  refine of_word (op := 0x37) rfl (by decide) rfl (packFields_lt layDM _) (packFields_lt layM _) (by decide) fun hw => ?_
  simp [candidate, candMemory, fldB, srcAt, bitF, fld_pack_lt, fld_pack_ge, layM, layDM, ofNat_toNat_mod]

theorem vlock (sc : Scope) (d : Reg) (a : Src) (off : BitVec 24) : Statement (.vlock sc d a off) := by
  refine of_word (op := 0x38) rfl (by decide) rfl (packFields_lt layDM _) (packFields_lt layM _) (by decide) fun hw => ?_
  simp [candidate, candMemory, fldB, srcAt, bitF, fld_pack_lt, fld_pack_ge, layM, layDM, ofNat_toNat_mod]

theorem vunlock (sc : Scope) (d : Reg) (a : Src) (off : BitVec 24) : Statement (.vunlock sc d a off) := by
  refine of_word (op := 0x39) rfl (by decide) rfl (packFields_lt layDM _) (packFields_lt layM _) (by decide) fun hw => ?_
  simp [candidate, candMemory, fldB, srcAt, bitF, fld_pack_lt, fld_pack_ge, layM, layDM, ofNat_toNat_mod]

theorem waitvAny (d : Reg) (sa : VSrc) (me : Bool) (mk : BitVec 3) : Statement (.waitvAny d sa me mk) := by
  refine of_word (op := 0x3a) rfl (by decide) rfl (packFields_lt layD _) (packFields_lt layV1 _) (by decide) fun hw => ?_
  simp [candidate, candMemory, dSub, layD, fldB, bitF, fld_pack_lt, fld_pack_ge, layV1, vsrcOr, opOr, ofNat_toNat_mod]

theorem waitvAll (d : Reg) (sa : VSrc) (me : Bool) (mk : BitVec 3) : Statement (.waitvAll d sa me mk) := by
  refine of_word (op := 0x3a) rfl (by decide) rfl (packFields_lt layD _) (packFields_lt layV1 _) (by decide) fun hw => ?_
  simp [candidate, candMemory, dSub, layD, fldB, bitF, fld_pack_lt, fld_pack_ge, layV1, vsrcOr, opOr, ofNat_toNat_mod]

theorem wmbind (n : BitVec 2) (sc : Scope) (a : Src) (b : Src) (h : BitVec 6) : Statement (.wmbind n sc a b h) := by
  refine of_word (op := 0x3b) rfl (by decide) rfl (by decide) (packFields_lt layE _) (by decide) fun hw => ?_
  simp [candidate, candMemory, fldB, srcAt, bitF, noSrc, fld_pack_lt, fld_pack_ge, layE, wmbind_reg,
    wmbind_scope, wmbind_shift, ofNat_toNat_mod]

theorem wmadv (sc : Scope) (a : Src) (off : BitVec 24) (x : Src) : Statement (.wmadv sc a off x) := by
  refine of_word (op := 0x3c) rfl (by decide) rfl (packFields_lt layDM _) (packFields_lt layM _) (by decide) fun hw => ?_
  simp [candidate, candMemory, fldB, srcAt, bitF, fld_pack_lt, fld_pack_ge, layM, layDM, ofNat_toNat_mod]

theorem acq (sc : Scope) (n : BitVec 10) : Statement (.acq sc n) := by
  refine of_word (op := 0x78) rfl (by decide) rfl (packFields_lt layD _) (packFields_lt layI _) (by decide) fun hw => ?_
  simp [candidate, candMemory, dSub, layD, fldB, noSrc, fld_pack_lt, fld_pack_ge, layI, ofNat_toNat_mod]

theorem rel (sc : Scope) (n : BitVec 10) : Statement (.rel sc n) := by
  refine of_word (op := 0x79) rfl (by decide) rfl (packFields_lt layD _) (packFields_lt layI _) (by decide) fun hw => ?_
  simp [candidate, candMemory, dSub, layD, fldB, noSrc, fld_pack_lt, fld_pack_ge, layI, ofNat_toNat_mod]

theorem acqrel (sc : Scope) (n : BitVec 10) : Statement (.acqrel sc n) := by
  refine of_word (op := 0x7a) rfl (by decide) rfl (packFields_lt layD _) (packFields_lt layI _) (by decide) fun hw => ?_
  simp [candidate, candMemory, dSub, layD, fldB, noSrc, fld_pack_lt, fld_pack_ge, layI, ofNat_toNat_mod]

theorem fence : Statement .fence := by
  refine of_word (op := 0x7b) rfl (by decide) rfl (by decide) (by decide) (by decide) fun hw => ?_
  simp [candidate, candMemory]

theorem rgninv (sc : Scope) (n : BitVec 10) : Statement (.rgninv sc n) := by
  refine of_word (op := 0x7c) rfl (by decide) rfl (packFields_lt layD _) (packFields_lt layI _) (by decide) fun hw => ?_
  simp [candidate, candMemory, dSub, layD, fldB, noSrc, fld_pack_lt, fld_pack_ge, layI, ofNat_toNat_mod]

theorem rgnwb (n : BitVec 10) : Statement (.rgnwb n) := by
  refine of_word (op := 0x7d) rfl (by decide) rfl (by decide) (packFields_lt layI _) (by decide) fun hw => ?_
  simp [candidate, candMemory, fldB, noSrc, fld_pack_lt, fld_pack_ge, layI, ofNat_toNat_mod]

theorem scrub (a : Src) (off : BitVec 24) (x : Src) : Statement (.scrub a off x) := by
  refine of_word (op := 0x7e) rfl (by decide) rfl (packFields_lt layDM _) (packFields_lt layM _) (by decide) fun hw => ?_
  simp [candidate, candMemory, fldB, srcAt, bitF, fld_pack_lt, fld_pack_ge, layM, layDM, ofNat_toNat_mod]

theorem vcfg (ty : BitVec 4) (k0 : Bool) (vd : BitVec 5) : Statement (.vcfg ty k0 vd) := by
  refine of_word (op := 0x40) rfl (by decide) rfl (by omega) (packFields_lt layV1 _) (by decide) fun hw => ?_
  simp [candidate, candVector, fldB, bitF, fld_pack_lt, fld_pack_ge, layV1, imm4_flag, ofNat_toNat_mod]

theorem setvl (w : BitVec 2) (g : BitVec 4) (d : Reg) (a : Src) : Statement (.setvl w g d a) := by
  refine of_word (op := 0x41) rfl (by decide) rfl (packFields_lt layD _) (packFields_lt layI _) (by decide) fun hw => ?_
  have hg : ¬ g.toNat % 16 = 15 := by have : g.toNat ≤ 6 := of_decide_eq_true hw; omega
  simp [candidate, candVector, dSub, layD, fldB, srcAt, bitF, fld_pack_lt, fld_pack_ge, layI, hg, ofNat_toNat_mod]

theorem setvlFree (d : Reg) : Statement (.setvlFree d) := by
  refine of_word (op := 0x41) rfl (by decide) rfl (packFields_lt layD _) (packFields_lt layI _) (by decide) fun hw => ?_
  simp [candidate, candVector, dSub, layD, fldB, noSrc, fld_pack_lt, fld_pack_ge, layI, ofNat_toNat_mod]

theorem vadd (d : VDst) (a : VSrc) (b : VSrc) (m : MaskF) : Statement (.vadd d a b m) := by
  refine of_wordV (op := 0x42) rfl (by decide) rfl (VDst.code_lt _) fun t h hw => ?_
  have hd : d.notQueue = true := (Bool.and_eq_true_iff.mp hw).1
  simp [h, candidate, candVector, bitF, vsrcOr, opOr, dstOr, VDst.of_code hd, v42Of]

theorem vsub (d : VDst) (a : VSrc) (b : VSrc) (m : MaskF) : Statement (.vsub d a b m) := by
  refine of_wordV (op := 0x42) rfl (by decide) rfl (VDst.code_lt _) fun t h hw => ?_
  have hd : d.notQueue = true := (Bool.and_eq_true_iff.mp hw).1
  simp [h, candidate, candVector, bitF, vsrcOr, opOr, dstOr, VDst.of_code hd, v42Of]

theorem vmul (d : VDst) (a : VSrc) (b : VSrc) (m : MaskF) : Statement (.vmul d a b m) := by
  refine of_wordV (op := 0x42) rfl (by decide) rfl (VDst.code_lt _) fun t h hw => ?_
  have hd : d.notQueue = true := (Bool.and_eq_true_iff.mp hw).1
  simp [h, candidate, candVector, bitF, vsrcOr, opOr, dstOr, VDst.of_code hd, v42Of]

theorem vdiv (d : VDst) (a : VSrc) (b : VSrc) (m : MaskF) : Statement (.vdiv d a b m) := by
  refine of_wordV (op := 0x42) rfl (by decide) rfl (VDst.code_lt _) fun t h hw => ?_
  have hd : d.notQueue = true := (Bool.and_eq_true_iff.mp hw).1
  simp [h, candidate, candVector, bitF, vsrcOr, opOr, dstOr, VDst.of_code hd, v42Of]

theorem vmin (d : VDst) (a : VSrc) (b : VSrc) (m : MaskF) : Statement (.vmin d a b m) := by
  refine of_wordV (op := 0x42) rfl (by decide) rfl (VDst.code_lt _) fun t h hw => ?_
  have hd : d.notQueue = true := (Bool.and_eq_true_iff.mp hw).1
  simp [h, candidate, candVector, bitF, vsrcOr, opOr, dstOr, VDst.of_code hd, v42Of]

theorem vmax (d : VDst) (a : VSrc) (b : VSrc) (m : MaskF) : Statement (.vmax d a b m) := by
  refine of_wordV (op := 0x42) rfl (by decide) rfl (VDst.code_lt _) fun t h hw => ?_
  have hd : d.notQueue = true := (Bool.and_eq_true_iff.mp hw).1
  simp [h, candidate, candVector, bitF, vsrcOr, opOr, dstOr, VDst.of_code hd, v42Of]

theorem vand (d : VDst) (a : VSrc) (b : VSrc) (m : MaskF) : Statement (.vand d a b m) := by
  refine of_wordV (op := 0x42) rfl (by decide) rfl (VDst.code_lt _) fun t h hw => ?_
  have hd : d.notQueue = true := (Bool.and_eq_true_iff.mp hw).1
  simp [h, candidate, candVector, bitF, vsrcOr, opOr, dstOr, VDst.of_code hd, v42Of]

theorem vor (d : VDst) (a : VSrc) (b : VSrc) (m : MaskF) : Statement (.vor d a b m) := by
  refine of_wordV (op := 0x42) rfl (by decide) rfl (VDst.code_lt _) fun t h hw => ?_
  have hd : d.notQueue = true := (Bool.and_eq_true_iff.mp hw).1
  simp [h, candidate, candVector, bitF, vsrcOr, opOr, dstOr, VDst.of_code hd, v42Of]

theorem vxor (d : VDst) (a : VSrc) (b : VSrc) (m : MaskF) : Statement (.vxor d a b m) := by
  refine of_wordV (op := 0x42) rfl (by decide) rfl (VDst.code_lt _) fun t h hw => ?_
  have hd : d.notQueue = true := (Bool.and_eq_true_iff.mp hw).1
  simp [h, candidate, candVector, bitF, vsrcOr, opOr, dstOr, VDst.of_code hd, v42Of]

theorem vshl (d : VDst) (a : VSrc) (b : VSrc) (m : MaskF) : Statement (.vshl d a b m) := by
  refine of_wordV (op := 0x42) rfl (by decide) rfl (VDst.code_lt _) fun t h hw => ?_
  have hd : d.notQueue = true := (Bool.and_eq_true_iff.mp hw).1
  simp [h, candidate, candVector, bitF, vsrcOr, opOr, dstOr, VDst.of_code hd, v42Of]

theorem vshr (d : VDst) (a : VSrc) (b : VSrc) (m : MaskF) : Statement (.vshr d a b m) := by
  refine of_wordV (op := 0x42) rfl (by decide) rfl (VDst.code_lt _) fun t h hw => ?_
  have hd : d.notQueue = true := (Bool.and_eq_true_iff.mp hw).1
  simp [h, candidate, candVector, bitF, vsrcOr, opOr, dstOr, VDst.of_code hd, v42Of]

theorem vshra (d : VDst) (a : VSrc) (b : VSrc) (m : MaskF) : Statement (.vshra d a b m) := by
  refine of_wordV (op := 0x42) rfl (by decide) rfl (VDst.code_lt _) fun t h hw => ?_
  have hd : d.notQueue = true := (Bool.and_eq_true_iff.mp hw).1
  simp [h, candidate, candVector, bitF, vsrcOr, opOr, dstOr, VDst.of_code hd, v42Of]

theorem vsadd (d : VDst) (a : VSrc) (b : VSrc) (m : MaskF) : Statement (.vsadd d a b m) := by
  refine of_wordV (op := 0x42) rfl (by decide) rfl (VDst.code_lt _) fun t h hw => ?_
  have hd : d.notQueue = true := (Bool.and_eq_true_iff.mp hw).1
  simp [h, candidate, candVector, bitF, vsrcOr, opOr, dstOr, VDst.of_code hd, v42Of]

theorem vssub (d : VDst) (a : VSrc) (b : VSrc) (m : MaskF) : Statement (.vssub d a b m) := by
  refine of_wordV (op := 0x42) rfl (by decide) rfl (VDst.code_lt _) fun t h hw => ?_
  have hd : d.notQueue = true := (Bool.and_eq_true_iff.mp hw).1
  simp [h, candidate, candVector, bitF, vsrcOr, opOr, dstOr, VDst.of_code hd, v42Of]

theorem vmulh (d : VDst) (a : VSrc) (b : VSrc) (m : MaskF) : Statement (.vmulh d a b m) := by
  refine of_wordV (op := 0x42) rfl (by decide) rfl (VDst.code_lt _) fun t h hw => ?_
  have hd : d.notQueue = true := (Bool.and_eq_true_iff.mp hw).1
  simp [h, candidate, candVector, bitF, vsrcOr, opOr, dstOr, VDst.of_code hd, v42Of]

theorem vmadd (rm : RMode) (d : VDst) (a : VSrc) (b : VSrc) (c : VSrc) (m : MaskF) : Statement (.vmadd rm d a b c m) := by
  refine of_wordV (op := 0x43) rfl (by decide) rfl (VDst.code_lt _) fun t h hw => ?_
  have hd : d.notQueue = true := (Bool.and_eq_true_iff.mp hw).1
  simp [h, candidate, candVector, bitF, vsrcOr, opOr, dstOr, VDst.of_code hd, rmOr, codeOr]

theorem vmsub (rm : RMode) (d : VDst) (a : VSrc) (b : VSrc) (c : VSrc) (m : MaskF) : Statement (.vmsub rm d a b c m) := by
  refine of_wordV (op := 0x43) rfl (by decide) rfl (VDst.code_lt _) fun t h hw => ?_
  have hd : d.notQueue = true := (Bool.and_eq_true_iff.mp hw).1
  simp [h, candidate, candVector, bitF, vsrcOr, opOr, dstOr, VDst.of_code hd, rmOr, codeOr]

theorem vnmadd (rm : RMode) (d : VDst) (a : VSrc) (b : VSrc) (c : VSrc) (m : MaskF) : Statement (.vnmadd rm d a b c m) := by
  refine of_wordV (op := 0x43) rfl (by decide) rfl (VDst.code_lt _) fun t h hw => ?_
  have hd : d.notQueue = true := (Bool.and_eq_true_iff.mp hw).1
  simp [h, candidate, candVector, bitF, vsrcOr, opOr, dstOr, VDst.of_code hd, rmOr, codeOr]

theorem vneg (d : VDst) (a : VSrc) (m : MaskF) : Statement (.vneg d a m) := by
  refine of_wordV (op := 0x44) rfl (by decide) rfl (VDst.code_lt _) fun t h hw => ?_
  have hd : d.notQueue = true := (Bool.and_eq_true_iff.mp hw).1
  simp [h, candidate, candVector, bitF, vsrcOr, opOr, dstOr, VDst.of_code hd, v44Of]

theorem vabs (d : VDst) (a : VSrc) (m : MaskF) : Statement (.vabs d a m) := by
  refine of_wordV (op := 0x44) rfl (by decide) rfl (VDst.code_lt _) fun t h hw => ?_
  have hd : d.notQueue = true := (Bool.and_eq_true_iff.mp hw).1
  simp [h, candidate, candVector, bitF, vsrcOr, opOr, dstOr, VDst.of_code hd, v44Of]

theorem vsqrt (d : VDst) (a : VSrc) (m : MaskF) : Statement (.vsqrt d a m) := by
  refine of_wordV (op := 0x44) rfl (by decide) rfl (VDst.code_lt _) fun t h hw => ?_
  have hd : d.notQueue = true := (Bool.and_eq_true_iff.mp hw).1
  simp [h, candidate, candVector, bitF, vsrcOr, opOr, dstOr, VDst.of_code hd, v44Of]

theorem vrcp (d : VDst) (a : VSrc) (m : MaskF) : Statement (.vrcp d a m) := by
  refine of_wordV (op := 0x44) rfl (by decide) rfl (VDst.code_lt _) fun t h hw => ?_
  have hd : d.notQueue = true := (Bool.and_eq_true_iff.mp hw).1
  simp [h, candidate, candVector, bitF, vsrcOr, opOr, dstOr, VDst.of_code hd, v44Of]

theorem vrsq (d : VDst) (a : VSrc) (m : MaskF) : Statement (.vrsq d a m) := by
  refine of_wordV (op := 0x44) rfl (by decide) rfl (VDst.code_lt _) fun t h hw => ?_
  have hd : d.notQueue = true := (Bool.and_eq_true_iff.mp hw).1
  simp [h, candidate, candVector, bitF, vsrcOr, opOr, dstOr, VDst.of_code hd, v44Of]

theorem vexp2 (d : VDst) (a : VSrc) (m : MaskF) : Statement (.vexp2 d a m) := by
  refine of_wordV (op := 0x44) rfl (by decide) rfl (VDst.code_lt _) fun t h hw => ?_
  have hd : d.notQueue = true := (Bool.and_eq_true_iff.mp hw).1
  simp [h, candidate, candVector, bitF, vsrcOr, opOr, dstOr, VDst.of_code hd, v44Of]

theorem vlog2 (d : VDst) (a : VSrc) (m : MaskF) : Statement (.vlog2 d a m) := by
  refine of_wordV (op := 0x44) rfl (by decide) rfl (VDst.code_lt _) fun t h hw => ?_
  have hd : d.notQueue = true := (Bool.and_eq_true_iff.mp hw).1
  simp [h, candidate, candVector, bitF, vsrcOr, opOr, dstOr, VDst.of_code hd, v44Of]

theorem vnot (d : VDst) (a : VSrc) (m : MaskF) : Statement (.vnot d a m) := by
  refine of_wordV (op := 0x44) rfl (by decide) rfl (VDst.code_lt _) fun t h hw => ?_
  have hd : d.notQueue = true := (Bool.and_eq_true_iff.mp hw).1
  simp [h, candidate, candVector, bitF, vsrcOr, opOr, dstOr, VDst.of_code hd, v44Of]

theorem vclz (d : VDst) (a : VSrc) (m : MaskF) : Statement (.vclz d a m) := by
  refine of_wordV (op := 0x44) rfl (by decide) rfl (VDst.code_lt _) fun t h hw => ?_
  have hd : d.notQueue = true := (Bool.and_eq_true_iff.mp hw).1
  simp [h, candidate, candVector, bitF, vsrcOr, opOr, dstOr, VDst.of_code hd, v44Of]

theorem vpopc (d : VDst) (a : VSrc) (m : MaskF) : Statement (.vpopc d a m) := by
  refine of_wordV (op := 0x44) rfl (by decide) rfl (VDst.code_lt _) fun t h hw => ?_
  have hd : d.notQueue = true := (Bool.and_eq_true_iff.mp hw).1
  simp [h, candidate, candVector, bitF, vsrcOr, opOr, dstOr, VDst.of_code hd, v44Of]

theorem vcmpEq (md : BitVec 3) (a : VSrc) (b : VSrc) (m : MaskF) : Statement (.vcmpEq md a b m) := by
  refine of_wordV (op := 0x45) rfl (by decide) rfl (by omega) fun t h hw => ?_
  simp [h, candidate, candVector, fldB, bitF, vsrcOr, opOr]
  exact fld_whole _

theorem vcmpNe (md : BitVec 3) (a : VSrc) (b : VSrc) (m : MaskF) : Statement (.vcmpNe md a b m) := by
  refine of_wordV (op := 0x45) rfl (by decide) rfl (by omega) fun t h hw => ?_
  simp [h, candidate, candVector, fldB, bitF, vsrcOr, opOr]
  exact fld_whole _

theorem vcmpLt (md : BitVec 3) (a : VSrc) (b : VSrc) (m : MaskF) : Statement (.vcmpLt md a b m) := by
  refine of_wordV (op := 0x45) rfl (by decide) rfl (by omega) fun t h hw => ?_
  simp [h, candidate, candVector, fldB, bitF, vsrcOr, opOr]
  exact fld_whole _

theorem vcmpLe (md : BitVec 3) (a : VSrc) (b : VSrc) (m : MaskF) : Statement (.vcmpLe md a b m) := by
  refine of_wordV (op := 0x45) rfl (by decide) rfl (by omega) fun t h hw => ?_
  simp [h, candidate, candVector, fldB, bitF, vsrcOr, opOr]
  exact fld_whole _

theorem vsel (d : VDst) (a : VSrc) (b : VSrc) (mk : BitVec 3) : Statement (.vsel d a b mk) := by
  refine of_wordV (op := 0x46) rfl (by decide) rfl (VDst.code_lt _) fun t h hw => ?_
  have hd : d.notQueue = true := hw
  simp [h, candidate, candVector, fldB, bitF, vsrcOr, opOr, dstOr, VDst.of_code hd]

theorem vcvt (dt : BitVec 4) (rm : RMode) (d : VDst) (a : VSrc) (m : MaskF) : Statement (.vcvt dt rm d a m) := by
  refine of_wordV (op := 0x47) rfl (by decide) rfl (VDst.code_lt _) fun t h hw => ?_
  have hd : d.notQueue = true := (Bool.and_eq_true_iff.mp (Bool.and_eq_true_iff.mp hw).1).1
  simp [h, candidate, candVector, fldB, bitF, vsrcOr, opOr, dstOr, VDst.of_code hd, rmOr, codeOr, ofNat_toNat_mod]

theorem vqnt (dt : BitVec 4) (rm : RMode) (d : VDst) (a : VSrc) : Statement (.vqnt dt rm d a) := by
  refine of_wordV (op := 0x48) rfl (by decide) rfl (VDst.code_lt _) fun t h hw => ?_
  have hd : d.notQueue = true := (Bool.and_eq_true_iff.mp hw).1
  simp [h, candidate, candVector, fldB, bitF, vsrcOr, opOr, dstOr, VDst.of_code hd, rmOr, codeOr, ofNat_toNat_mod]

theorem vredSum (rm : RMode) (d : Reg) (a : VSrc) (me : Bool) (mk : BitVec 3) : Statement (.vredSum rm d a me mk) := by
  refine of_wordV (op := 0x49) rfl (by decide) rfl (packFields_lt layD _) fun t h hw => ?_
  simp [h, candidate, candVector, dSub, layD, fldB, bitF, fld_pack_lt, vsrcOr, opOr, rmOr, codeOr, ofNat_toNat_mod]

theorem vredMax (rm : RMode) (d : Reg) (a : VSrc) (me : Bool) (mk : BitVec 3) : Statement (.vredMax rm d a me mk) := by
  refine of_wordV (op := 0x49) rfl (by decide) rfl (packFields_lt layD _) fun t h hw => ?_
  simp [h, candidate, candVector, dSub, layD, fldB, bitF, fld_pack_lt, vsrcOr, opOr, rmOr, codeOr, ofNat_toNat_mod]

theorem vredMin (rm : RMode) (d : Reg) (a : VSrc) (me : Bool) (mk : BitVec 3) : Statement (.vredMin rm d a me mk) := by
  refine of_wordV (op := 0x49) rfl (by decide) rfl (packFields_lt layD _) fun t h hw => ?_
  simp [h, candidate, candVector, dSub, layD, fldB, bitF, fld_pack_lt, vsrcOr, opOr, rmOr, codeOr, ofNat_toNat_mod]

theorem vredAnd (rm : RMode) (d : Reg) (a : VSrc) (me : Bool) (mk : BitVec 3) : Statement (.vredAnd rm d a me mk) := by
  refine of_wordV (op := 0x49) rfl (by decide) rfl (packFields_lt layD _) fun t h hw => ?_
  simp [h, candidate, candVector, dSub, layD, fldB, bitF, fld_pack_lt, vsrcOr, opOr, rmOr, codeOr, ofNat_toNat_mod]

theorem vredOr (rm : RMode) (d : Reg) (a : VSrc) (me : Bool) (mk : BitVec 3) : Statement (.vredOr rm d a me mk) := by
  refine of_wordV (op := 0x49) rfl (by decide) rfl (packFields_lt layD _) fun t h hw => ?_
  simp [h, candidate, candVector, dSub, layD, fldB, bitF, fld_pack_lt, vsrcOr, opOr, rmOr, codeOr, ofNat_toNat_mod]

theorem vreds (rm : RMode) (d : Reg) (a : VSrc) (me : Bool) (mk : BitVec 3) : Statement (.vreds rm d a me mk) := by
  refine of_wordV (op := 0x4a) rfl (by decide) rfl (packFields_lt layD _) fun t h hw => ?_
  simp [h, candidate, candVector2, dSub, layD, fldB, bitF, fld_pack_lt, vsrcOr, opOr, rmOr, codeOr, ofNat_toNat_mod]

theorem vdot (rm : RMode) (d : Reg) (a : VSrc) (b : VSrc) (me : Bool) (mk : BitVec 3) : Statement (.vdot rm d a b me mk) := by
  refine of_wordV (op := 0x4b) rfl (by decide) rfl (packFields_lt layD _) fun t h hw => ?_
  simp [h, candidate, candVector2, dSub, layD, fldB, bitF, fld_pack_lt, vsrcOr, opOr, rmOr, codeOr, ofNat_toNat_mod]

theorem vperm (d : VDst) (a : VSrc) (b : VSrc) (m : MaskF) : Statement (.vperm d a b m) := by
  refine of_wordV (op := 0x4c) rfl (by decide) rfl (VDst.code_lt _) fun t h hw => ?_
  have hd : d.notQueue = true := (Bool.and_eq_true_iff.mp hw).1
  simp [h, candidate, candVector2, bitF, vsrcOr, opOr, dstOr, VDst.of_code hd]

theorem vslideUp (d : VDst) (a : VSrc) (n : Src) (m : MaskF) : Statement (.vslideUp d a n m) := by
  refine of_wordV (op := 0x4d) rfl (by decide) rfl (VDst.code_lt _) fun t h hw => ?_
  have hd : d.notQueue = true := (Bool.and_eq_true_iff.mp hw).1
  simp [h, candidate, candVector2, fldB, srcAt, bitF, bcOr, bcOf_mod, bcOf_reg, bcOf_ge, vsrcOr, opOr, dstOr,
    VDst.of_code hd]

theorem vslideDn (d : VDst) (a : VSrc) (n : Src) (m : MaskF) : Statement (.vslideDn d a n m) := by
  refine of_wordV (op := 0x4d) rfl (by decide) rfl (VDst.code_lt _) fun t h hw => ?_
  have hd : d.notQueue = true := (Bool.and_eq_true_iff.mp hw).1
  simp [h, candidate, candVector2, fldB, srcAt, bitF, bcOr, bcOf_mod, bcOf_reg, bcOf_ge, vsrcOr, opOr, dstOr,
    VDst.of_code hd]

theorem vext (d : Reg) (a : VSrc) (ix : Src) : Statement (.vext d a ix) := by
  refine of_wordV (op := 0x4e) rfl (by decide) rfl (packFields_lt layD _) fun t h hw => ?_
  simp [h, candidate, candVector2, dSub, layD, fldB, srcAt, bitF, fld_pack_lt, bcOr, bcOf_mod, bcOf_reg,
    bcOf_ge, vsrcOr, opOr, ofNat_toNat_mod]

theorem vins (d : VDst) (a : VSrc) (x : Src) (ix : Src) : Statement (.vins d a x ix) := by
  refine of_wordV (op := 0x4e) rfl (by decide) rfl (VDst.code_lt _) fun t h hw => ?_
  have hd : d.notQueue = true := hw
  simp [h, candidate, candVector2, fldB, srcAt, bitF, bcOr, bcOf_mod, bcOf_reg, bcOf_ge, vsrcOr, opOr, dstOr,
    VDst.of_code hd]

theorem vbcast (vd : BitVec 5) (a : VSrc) (me : Bool) (mk : BitVec 3) : Statement (.vbcast vd a me mk) := by
  refine of_word (op := 0x4f) rfl (by decide) rfl (by omega) (packFields_lt layV1 _) (by decide) fun hw => ?_
  simp [candidate, candVector2, fldB, bitF, fld_pack_lt, fld_pack_ge, layV1, vsrcOr, opOr, ofNat_toNat_mod]

theorem viota (vd : BitVec 5) (me : Bool) (mk : BitVec 3) : Statement (.viota vd me mk) := by
  refine of_word (op := 0x4f) rfl (by decide) rfl (by omega) (packFields_lt layV1 _) (by decide) fun hw => ?_
  simp [candidate, candVector2, fldB, bitF, fld_pack_lt, fld_pack_ge, layV1, ofNat_toNat_mod]

theorem mand (md : BitVec 3) (ma : BitVec 3) (mb : BitVec 3) (m : MaskF) : Statement (.mand md ma mb m) := by
  refine of_wordV (op := 0x50) rfl (by decide) rfl (by omega) fun t h hw => ?_
  simp [h, candidate, candVector2, fldB, ofNat_toNat_mod]
  exact fld_whole _

theorem mor (md : BitVec 3) (ma : BitVec 3) (mb : BitVec 3) (m : MaskF) : Statement (.mor md ma mb m) := by
  refine of_wordV (op := 0x50) rfl (by decide) rfl (by omega) fun t h hw => ?_
  simp [h, candidate, candVector2, fldB, ofNat_toNat_mod]
  exact fld_whole _

theorem mxor (md : BitVec 3) (ma : BitVec 3) (mb : BitVec 3) (m : MaskF) : Statement (.mxor md ma mb m) := by
  refine of_wordV (op := 0x50) rfl (by decide) rfl (by omega) fun t h hw => ?_
  simp [h, candidate, candVector2, fldB, ofNat_toNat_mod]
  exact fld_whole _

theorem mnot (md : BitVec 3) (ma : BitVec 3) (m : MaskF) : Statement (.mnot md ma m) := by
  refine of_wordV (op := 0x50) rfl (by decide) rfl (by omega) fun t h hw => ?_
  simp [h, candidate, candVector2, fldB, ofNat_toNat_mod]
  exact fld_whole _

theorem mpop (d : Reg) (ma : BitVec 3) (me : Bool) (mk : BitVec 3) : Statement (.mpop d ma me mk) := by
  refine of_wordV (op := 0x50) rfl (by decide) rfl (packFields_lt layD _) fun t h hw => ?_
  simp [h, candidate, candVector2, dSub, layD, fldB, fld_pack_lt, ofNat_toNat_mod]

theorem mfirst (d : Reg) (ma : BitVec 3) (me : Bool) (mk : BitVec 3) : Statement (.mfirst d ma me mk) := by
  refine of_wordV (op := 0x50) rfl (by decide) rfl (packFields_lt layD _) fun t h hw => ?_
  simp [h, candidate, candVector2, dSub, layD, fldB, fld_pack_lt, ofNat_toNat_mod]

theorem mset (md : BitVec 3) (x : Src) (m : MaskF) : Statement (.mset md x m) := by
  refine of_wordV (op := 0x50) rfl (by decide) rfl (by omega) fun t h hw => ?_
  simp [h, candidate, candVector2, fldB, srcAt, bitF, bcOr, bcOf_mod, bcOf_reg, bcOf_ge]
  exact fld_whole _

theorem vscget (d : VDst) (va : BitVec 5) (fa : Bool) : Statement (.vscget d va fa) := by
  refine of_word (op := 0x51) rfl (by decide) rfl (VDst.code_lt _) (packFields_lt layV1 _) (by decide) fun hw => ?_
  have hd : d.notQueue = true := hw
  simp [candidate, candVector2, fldB, bitF, fld_pack_lt, fld_pack_ge, layV1, dstOr, opOr, VDst.of_code hd,
    ofNat_toNat_mod]

theorem vscset (vd : BitVec 5) (va : BitVec 5) (fa : Bool) : Statement (.vscset vd va fa) := by
  refine of_word (op := 0x51) rfl (by decide) rfl (by omega) (packFields_lt layV1 _) (by decide) fun hw => ?_
  simp [candidate, candVector2, fldB, bitF, fld_pack_lt, fld_pack_ge, layV1, ofNat_toNat_mod]

theorem vcompress (d : VDst) (a : VSrc) (me : Bool) (mk : BitVec 3) : Statement (.vcompress d a me mk) := by
  refine of_word (op := 0x52) rfl (by decide) rfl (VDst.code_lt _) (packFields_lt layV1 _) (by decide) fun hw => ?_
  have hd : d.notQueue = true := (Bool.and_eq_true_iff.mp hw).1
  simp [candidate, candVector2, fldB, bitF, fld_pack_lt, fld_pack_ge, layV1, vsrcOr, opOr, dstOr,
    VDst.of_code hd, ofNat_toNat_mod]

theorem vexpand (d : VDst) (a : VSrc) (me : Bool) (mk : BitVec 3) : Statement (.vexpand d a me mk) := by
  refine of_word (op := 0x52) rfl (by decide) rfl (VDst.code_lt _) (packFields_lt layV1 _) (by decide) fun hw => ?_
  have hd : d.notQueue = true := (Bool.and_eq_true_iff.mp hw).1
  simp [candidate, candVector2, fldB, bitF, fld_pack_lt, fld_pack_ge, layV1, vsrcOr, opOr, dstOr,
    VDst.of_code hd, ofNat_toNat_mod]

theorem vld (ty : BitVec 4) (d : VDst) (a : Src) (imm : BitVec 16) (m : MaskF) (wm : Option (BitVec 2)) : Statement (.vld ty d a imm m wm) := by
  refine of_wordVM (op := 0x58) rfl (by decide) rfl (VDst.code_lt _) fun t h hw => ?_
  simp [h, candidate, candVMem, fldB, srcAt, bitF, dstOr, opOr, ofNat_toNat_mod]

theorem vlds (ty : BitVec 4) (d : VDst) (a : Src) (imm : BitVec 16) (x : Src) (m : MaskF) (wm : Option (BitVec 2)) : Statement (.vlds ty d a imm x m wm) := by
  refine of_wordVM (op := 0x58) rfl (by decide) rfl (VDst.code_lt _) fun t h hw => ?_
  simp [h, candidate, candVMem, fldB, srcAt, bitF, dstOr, opOr, ofNat_toNat_mod]

theorem vldff (ty : BitVec 4) (d : VDst) (a : Src) (imm : BitVec 16) (m : MaskF) (wm : Option (BitVec 2)) : Statement (.vldff ty d a imm m wm) := by
  refine of_wordVM (op := 0x58) rfl (by decide) rfl (VDst.code_lt _) fun t h hw => ?_
  simp [h, candidate, candVMem, fldB, srcAt, bitF, dstOr, opOr, ofNat_toNat_mod]

theorem vst (a : Src) (imm : BitVec 16) (b : VSrc) (m : MaskF) : Statement (.vst a imm b m) := by
  refine of_wordVM (op := 0x59) rfl (by decide) rfl (by decide) fun t h hw => ?_
  simp [h, candidate, candVMem, fldB, srcAt, bitF, vsrcOr, opOr, ofNat_toNat_mod]

theorem vsts (a : Src) (imm : BitVec 16) (b : VSrc) (x : Src) (m : MaskF) : Statement (.vsts a imm b x m) := by
  refine of_wordVM (op := 0x59) rfl (by decide) rfl (by decide) fun t h hw => ?_
  simp [h, candidate, candVMem, fldB, srcAt, bitF, vsrcOr, opOr, ofNat_toNat_mod]

theorem vldx (wc : BitVec 2) (d : VDst) (a : Src) (imm : BitVec 16) (b : VSrc) (m : MaskF) (wm : Option (BitVec 2)) : Statement (.vldx wc d a imm b m wm) := by
  refine of_wordVM (op := 0x5a) rfl (by decide) rfl (VDst.code_lt _) fun t h hw => ?_
  simp [h, candidate, candVMem, fldB, srcAt, bitF, (vldx_width wc).1, (vldx_width wc).2, vsrcOr, opOr, dstOr,
    ofNat_toNat_mod]

theorem vstx (a : Src) (imm : BitVec 16) (b : VSrc) (idx : BitVec 5) (m : MaskF) : Statement (.vstx a imm b idx m) := by
  refine of_wordVM (op := 0x5a) rfl (by decide) rfl (by omega) fun t h hw => ?_
  simp [h, candidate, candVMem, fldB, srcAt, bitF, vsrcOr, opOr, ofNat_toNat_mod]
  exact fld_whole _

theorem vldt (d : VDst) (vb : BitVec 5) (fb : Bool) (me : Bool) (mk : BitVec 3) (wm : Option (BitVec 2)) : Statement (.vldt d vb fb me mk wm) := by
  refine of_wordVM (op := 0x5b) rfl (by decide) rfl (VDst.code_lt _) fun t h hw => ?_
  simp [h, candidate, candVMem, fldB, bitF, dstOr, opOr, ofNat_toNat_mod]

theorem vstt (b : VSrc) (shape : BitVec 5) (m : MaskF) : Statement (.vstt b shape m) := by
  refine of_wordVM (op := 0x5b) rfl (by decide) rfl (by omega) fun t h hw => ?_
  simp [h, candidate, candVMem, fldB, bitF, vsrcOr, opOr]
  exact fld_whole _

theorem mlease (k : Src) : Statement (.mlease k) := by
  refine of_word (op := 0x60) rfl (by decide) rfl (by decide) (packFields_lt layMX _) (by decide) fun hw => ?_
  simp [candidate, candMatrix, fldB, srcAt, bitF, fld_pack_lt, fld_pack_ge, layMX, ofNat_toNat_mod]

theorem mfree : Statement .mfree := by
  refine of_word (op := 0x60) rfl (by decide) rfl (by decide) (packFields_lt layMX _) (by decide) fun hw => ?_
  simp [candidate, candMatrix, noSrc, fld_pack_lt, fld_pack_ge, layMX]

theorem slclaim (a : BitVec 6) (b : BitVec 6) : Statement (.slclaim a b) := by
  refine of_word (op := 0x61) rfl (by decide) rfl (by decide) (packFields_lt layMX _) (by decide) fun hw => ?_
  simp [candidate, candMatrix, fldB, noSrc, fld_pack_lt, fld_pack_ge, layMX, ofNat_toNat_mod]

theorem slfree (a : BitVec 6) (b : BitVec 6) : Statement (.slfree a b) := by
  refine of_word (op := 0x61) rfl (by decide) rfl (by decide) (packFields_lt layMX _) (by decide) fun hw => ?_
  simp [candidate, candMatrix, fldB, noSrc, fld_pack_lt, fld_pack_ge, layMX, ofNat_toNat_mod]

theorem slloadRow (fmt : BitVec 4) (slot : BitVec 6) (a : Src) (imm : BitVec 16) (b : Src) (c : Src) : Statement (.slloadRow fmt slot a imm b c) := by
  refine of_word (op := 0x62) rfl (by decide) rfl (by decide) (packFields_lt layE _) (by decide) fun hw => ?_
  simp [candidate, candMatrix, fldB, srcAt, bitF, fld_pack_lt, fld_pack_ge, layE, slot_fmt, ofNat_toNat_mod]

theorem slloadCol (fmt : BitVec 4) (slot : BitVec 6) (a : Src) (imm : BitVec 16) (b : Src) (c : Src) : Statement (.slloadCol fmt slot a imm b c) := by
  refine of_word (op := 0x62) rfl (by decide) rfl (by decide) (packFields_lt layE _) (by decide) fun hw => ?_
  simp [candidate, candMatrix, fldB, srcAt, bitF, fld_pack_lt, fld_pack_ge, layE, slot_fmt, ofNat_toNat_mod]

theorem slloadScale (slot : BitVec 6) (a : Src) (imm : BitVec 16) : Statement (.slloadScale slot a imm) := by
  refine of_word (op := 0x62) rfl (by decide) rfl (by decide) (packFields_lt layE _) (by decide) fun hw => ?_
  simp [candidate, candMatrix, fldB, srcAt, bitF, noSrc, fld_pack_lt, fld_pack_ge, layE, ofNat_toNat_mod]

theorem mop (t : BitVec 2) (sa : BitVec 6) (sb : BitVec 6) (fa : BitVec 4) (fb : BitVec 4) (k : Src) : Statement (.mop t sa sb fa fb k) := by
  refine of_word (op := 0x63) rfl (by decide) rfl (by decide) (packFields_lt layMX _) (by decide) fun hw => ?_
  simp [candidate, candMatrix, fldB, srcAt, bitF, fld_pack_lt, fld_pack_ge, layMX, ofNat_toNat_mod]

theorem mops (t : BitVec 2) (sa : BitVec 6) (sb : BitVec 6) (fa : BitVec 4) (fb : BitVec 4) : Statement (.mops t sa sb fa fb) := by
  refine of_word (op := 0x63) rfl (by decide) rfl (by decide) (packFields_lt layMX _) (by decide) fun hw => ?_
  simp [candidate, candMatrix, fldB, noSrc, fld_pack_lt, fld_pack_ge, layMX, ofNat_toNat_mod]

theorem aclaim (i32 : Bool) (t : BitVec 2) : Statement (.aclaim i32 t) := by
  refine of_word (op := 0x64) rfl (by decide) rfl (by decide) (packFields_lt layMX _) (by decide) fun hw => ?_
  simp [candidate, candMatrix, fldB, noSrc, fld_pack_lt, fld_pack_ge, layMX, ofNat_toNat_mod]
  cases i32 <;> rfl

theorem afree (t : BitVec 2) : Statement (.afree t) := by
  refine of_word (op := 0x64) rfl (by decide) rfl (by decide) (packFields_lt layMX _) (by decide) fun hw => ?_
  simp [candidate, candMatrix, fldB, noSrc, fld_pack_lt, fld_pack_ge, layMX, ofNat_toNat_mod]

theorem mzero (t : BitVec 2) : Statement (.mzero t) := by
  refine of_word (op := 0x64) rfl (by decide) rfl (by decide) (packFields_lt layMX _) (by decide) fun hw => ?_
  simp [candidate, candMatrix, fldB, noSrc, fld_pack_lt, fld_pack_ge, layMX, ofNat_toNat_mod]

theorem mrd (d : VDst) (a : Src) (me : Bool) (mk : BitVec 3) : Statement (.mrd d a me mk) := by
  refine of_word (op := 0x65) rfl (by decide) rfl (VDst.code_lt _) (packFields_lt layV1 _) (by decide) fun hw => ?_
  have hd : d.notQueue = true := (Bool.and_eq_true_iff.mp hw).1
  simp [candidate, candMatrix, fldB, srcAt, bitF, fld_pack_lt, fld_pack_ge, layV1, bcOr, bcOf_mod, bcOf_reg,
    bcOf_ge, dstOr, opOr, VDst.of_code hd, ofNat_toNat_mod]

theorem mwr (a : Src) (vs : BitVec 5) (me : Bool) (mk : BitVec 3) : Statement (.mwr a vs me mk) := by
  refine of_word (op := 0x65) rfl (by decide) rfl (by omega) (packFields_lt layV1 _) (by decide) fun hw => ?_
  simp [candidate, candMatrix, fldB, srcAt, bitF, fld_pack_lt, fld_pack_ge, layV1, bcOr, bcOf_mod, bcOf_reg,
    bcOf_ge, ofNat_toNat_mod]
  exact fld_whole _

theorem mst (t : BitVec 2) (a : Src) (imm : BitVec 16) (b : Src) (c : Src) : Statement (.mst t a imm b c) := by
  refine of_word (op := 0x66) rfl (by decide) rfl (by decide) (packFields_lt layE _) (by decide) fun hw => ?_
  simp [candidate, candMatrix, fldB, srcAt, bitF, fld_pack_lt, fld_pack_ge, layE, ofNat_toNat_mod]

theorem msync : Statement .msync := by
  refine of_word (op := 0x67) rfl (by decide) rfl (by decide) (by decide) (by decide) fun hw => ?_
  simp [candidate, candMatrix]

theorem ferry (q : QSrc) : Statement (.ferry q) := by
  refine of_word (op := 0x68) rfl (by decide) rfl (by decide) (packFields_lt layS _) (by decide) fun hw => ?_
  simp [candidate, candEngine, bitF, noSrc, fld_pack_lt, fld_pack_ge, layS]

theorem ferrynb (d : Reg) (q : QSrc) : Statement (.ferrynb d q) := by
  refine of_word (op := 0x68) rfl (by decide) rfl (packFields_lt layD _) (packFields_lt layS _) (by decide) fun hw => ?_
  simp [candidate, candEngine, dSub, layD, fldB, bitF, noSrc, fld_pack_lt, fld_pack_ge, layS, ofNat_toNat_mod]

theorem lwinit (d : Reg) (a : Src) (imm : BitVec 16) (b : Src) : Statement (.lwinit d a imm b) := by
  refine of_word (op := 0x69) rfl (by decide) rfl (packFields_lt layD _) (packFields_lt layE _) (by decide) fun hw => ?_
  simp [candidate, candEngine, dSub, layD, fldB, srcAt, bitF, noSrc, fld_pack_lt, fld_pack_ge, layE, ofNat_toNat_mod]

theorem lwwait (sc : Scope) (d : Reg) (a : Src) (imm : BitVec 16) (b : Src) : Statement (.lwwait sc d a imm b) := by
  refine of_word (op := 0x69) rfl (by decide) rfl (packFields_lt layD _) (packFields_lt layE _) (by decide) fun hw => ?_
  simp [candidate, candEngine, dSub, layD, fldB, srcAt, bitF, noSrc, fld_pack_lt, fld_pack_ge, layE, ofNat_toNat_mod]

theorem lwread (d : Reg) (a : Src) (imm : BitVec 16) : Statement (.lwread d a imm) := by
  refine of_word (op := 0x69) rfl (by decide) rfl (packFields_lt layD _) (packFields_lt layE _) (by decide) fun hw => ?_
  simp [candidate, candEngine, dSub, layD, fldB, srcAt, bitF, noSrc, fld_pack_lt, fld_pack_ge, layE, ofNat_toNat_mod]

theorem fjoin (sc : Scope) (d : Reg) (a : Src) : Statement (.fjoin sc d a) := by
  refine of_word (op := 0x6a) rfl (by decide) rfl (packFields_lt layD _) (packFields_lt layE _) (by decide) fun hw => ?_
  simp [candidate, candEngine, dSub, layD, fldB, srcAt, bitF, noSrc, fld_pack_lt, fld_pack_ge, layE, ofNat_toNat_mod]

theorem fcpoll (sc : Scope) (q : Quad) (a : Src) (imm : BitVec 16) : Statement (.fcpoll sc q a imm) := by
  refine of_word (op := 0x6a) rfl (by decide) rfl (packFields_lt layD _) (packFields_lt layE _) (by decide) fun hw => ?_
  simp [candidate, candEngine, dSub, layD, fldB, srcAt, bitF, noSrc, fld_pack_lt, fld_pack_ge, layE, ofNat_toNat_mod]

theorem spawn (d : Reg) (a : Src) (b : Src) (c : Src) : Statement (.spawn d a b c) := by
  refine of_word (op := 0x70) rfl (by decide) rfl (packFields_lt layD _) (packFields_lt layE _) (by decide) fun hw => ?_
  simp [candidate, candEngine, dSub, layD, fldB, srcAt, bitF, fld_pack_lt, fld_pack_ge, layE, ofNat_toNat_mod]

theorem exit : Statement .exit := by
  refine of_word (op := 0x70) rfl (by decide) rfl (by decide) (packFields_lt layE _) (by decide) fun hw => ?_
  simp [candidate, candEngine, noSrc, fld_pack_lt, fld_pack_ge, layE]

theorem yield : Statement .yield := by
  refine of_word (op := 0x70) rfl (by decide) rfl (by decide) (packFields_lt layE _) (by decide) fun hw => ?_
  simp [candidate, candEngine, noSrc, fld_pack_lt, fld_pack_ge, layE]

theorem join (d : Reg) (a : Src) (imm : BitVec 16) : Statement (.join d a imm) := by
  refine of_word (op := 0x71) rfl (by decide) rfl (packFields_lt layD _) (packFields_lt layE _) (by decide) fun hw => ?_
  simp [candidate, candEngine, dSub, layD, fldB, srcAt, bitF, noSrc, fld_pack_lt, fld_pack_ge, layE, ofNat_toNat_mod]

theorem leave (sc : Scope) (d : Reg) (a : Src) (imm : BitVec 16) : Statement (.leave sc d a imm) := by
  refine of_word (op := 0x71) rfl (by decide) rfl (packFields_lt layD _) (packFields_lt layE _) (by decide) fun hw => ?_
  simp [candidate, candEngine, dSub, layD, fldB, srcAt, bitF, noSrc, fld_pack_lt, fld_pack_ge, layE, ofNat_toNat_mod]

theorem gbar (sc : Scope) (d : Reg) (a : Src) (imm : BitVec 16) : Statement (.gbar sc d a imm) := by
  refine of_word (op := 0x71) rfl (by decide) rfl (packFields_lt layD _) (packFields_lt layE _) (by decide) fun hw => ?_
  simp [candidate, candEngine, dSub, layD, fldB, srcAt, bitF, noSrc, fld_pack_lt, fld_pack_ge, layE, ofNat_toNat_mod]

theorem send (rep : Bool) (sc : Scope) (q : QSrc) (b : Src) : Statement (.send rep sc q b) := by
  refine of_word (op := 0x72) rfl (by decide) rfl (by decide) (packFields_lt layE _) (by decide) fun hw => ?_
  simp [candidate, candEngine, fldB, srcAt, bitF, noSrc, fld_pack_lt, fld_pack_ge, layE, Scope.imm_flag,
    ofNat_toNat_mod]

theorem sendnb (rep : Bool) (sc : Scope) (d : Reg) (q : QSrc) (b : Src) : Statement (.sendnb rep sc d q b) := by
  refine of_word (op := 0x72) rfl (by decide) rfl (packFields_lt layD _) (packFields_lt layE _) (by decide) fun hw => ?_
  simp [candidate, candEngine, dSub, layD, fldB, srcAt, bitF, noSrc, fld_pack_lt, fld_pack_ge, layE,
    Scope.imm_flag, ofNat_toNat_mod]

theorem hret : Statement .hret := by
  refine of_word (op := 0x73) rfl (by decide) rfl (by decide) (packFields_lt layS _) (by decide) fun hw => ?_
  simp [candidate, candEngine, noSrc, fld_pack_lt, fld_pack_ge, layS]

theorem hmask (d : Reg) (a : Src) : Statement (.hmask d a) := by
  refine of_word (op := 0x73) rfl (by decide) rfl (packFields_lt layD _) (packFields_lt layS _) (by decide) fun hw => ?_
  simp [candidate, candEngine, dSub, layD, fldB, srcAt, bitF, noSrc, fld_pack_lt, fld_pack_ge, layS, ofNat_toNat_mod]

theorem hunmask (d : Reg) (a : Src) : Statement (.hunmask d a) := by
  refine of_word (op := 0x73) rfl (by decide) rfl (packFields_lt layD _) (packFields_lt layS _) (by decide) fun hw => ?_
  simp [candidate, candEngine, dSub, layD, fldB, srcAt, bitF, noSrc, fld_pack_lt, fld_pack_ge, layS, ofNat_toNat_mod]

theorem tspawn (a : Src) (imm : BitVec 16) : Statement (.tspawn a imm) := by
  refine of_word (op := 0x74) rfl (by decide) rfl (by decide) (packFields_lt layE _) (by decide) fun hw => ?_
  simp [candidate, candEngine, fldB, srcAt, bitF, noSrc, fld_pack_lt, fld_pack_ge, layE, ofNat_toNat_mod]

theorem grant (q : Quad) : Statement (.grant q) := by
  refine of_word (op := 0x74) rfl (by decide) rfl (packFields_lt layD _) (packFields_lt layE _) (by decide) fun hw => ?_
  simp [candidate, candEngine, dSub, layD, noSrc, fld_pack_lt, fld_pack_ge, layE]

theorem watch (once : Bool) (n : BitVec 3) (d : Reg) (q : QSrc) : Statement (.watch once n d q) := by
  refine of_word (op := 0x74) rfl (by decide) rfl (packFields_lt layD _) (packFields_lt layE _) (by decide) fun hw => ?_
  simp [candidate, candEngine, dSub, layD, fldB, bitF, noSrc, fld_pack_lt, fld_pack_ge, layE, imm3_flag,
    ofNat_toNat_mod]

theorem unwatch (d : Reg) (a : Src) : Statement (.unwatch d a) := by
  refine of_word (op := 0x74) rfl (by decide) rfl (packFields_lt layD _) (packFields_lt layE _) (by decide) fun hw => ?_
  simp [candidate, candEngine, dSub, layD, fldB, srcAt, bitF, noSrc, fld_pack_lt, fld_pack_ge, layE, ofNat_toNat_mod]

theorem getid (k : IdKind) (d : Reg) : Statement (.getid k d) := by
  refine of_word (op := 0x75) rfl (by decide) rfl (packFields_lt layD _) (packFields_lt layS _) (by decide) fun hw => ?_
  simp [candidate, candEngine, dSub, layD, fldB, noSrc, fld_pack_lt, fld_pack_ge, layS, codeOr, ofNat_toNat_mod]

theorem cbopen (d : Reg) (a : Src) : Statement (.cbopen d a) := by
  refine of_wordV (op := 0x76) rfl (by decide) rfl (packFields_lt layD _) fun t h hw => ?_
  simp [h, candidate, candEngine, dSub, layD, fldB, srcAt, bitF, fld_pack_lt, bcOr, bcOf_mod, bcOf_reg,
    bcOf_ge, ofNat_toNat_mod]

theorem cbpost (q : QSrc) : Statement (.cbpost q) := by
  refine of_wordV (op := 0x76) rfl (by decide) rfl (by decide) fun t h hw => ?_
  simp [h, candidate, candEngine, fldB, srcAt, bitF, bcOr, quad_bc, quad_bc16, quad_bc48]

theorem cbtake (d : Reg) (h : Src) : Statement (.cbtake d h) := by
  refine of_wordV (op := 0x76) rfl (by decide) rfl (packFields_lt layD _) fun t h hw => ?_
  simp [h, candidate, candEngine, dSub, layD, fldB, srcAt, bitF, fld_pack_lt, bcOr, bcOf_mod, bcOf_reg,
    bcOf_ge, ofNat_toNat_mod]

theorem cbtakev (vd : BitVec 5) (h : Src) : Statement (.cbtakev vd h) := by
  refine of_wordV (op := 0x76) rfl (by decide) rfl (by omega) fun t h hw => ?_
  simp [h, candidate, candEngine, fldB, srcAt, bitF, bcOr, bcOf_mod, bcOf_reg, bcOf_ge]

theorem cbdone (a : VSrc) (h : Src) (me : Bool) (mk : BitVec 3) : Statement (.cbdone a h me mk) := by
  refine of_wordV (op := 0x76) rfl (by decide) rfl (by decide) fun t h hw => ?_
  simp [h, candidate, candEngine, fldB, srcAt, bitF, bcOr, bcOf_mod, bcOf_reg, bcOf_ge, vsrcOr, opOr]

theorem cbclose (h : Src) : Statement (.cbclose h) := by
  refine of_wordV (op := 0x76) rfl (by decide) rfl (by decide) fun t h hw => ?_
  simp [h, candidate, candEngine, fldB, srcAt, bitF, bcOr, bcOf_mod, bcOf_reg, bcOf_ge]

theorem compose (nowait : Bool) (four : Bool) (d : Reg) : Statement (.compose nowait four d) := by
  refine of_word (op := 0x77) rfl (by decide) rfl (packFields_lt layD _) (packFields_lt layS _) (by decide) fun hw => ?_
  simp [candidate, candEngine, dSub, layD, fldB, bitF, noSrc, fld_pack_lt, fld_pack_ge, layS, flag2_high,
    ofNat_toNat_mod]

theorem decomp (d : Reg) : Statement (.decomp d) := by
  refine of_word (op := 0x77) rfl (by decide) rfl (packFields_lt layD _) (packFields_lt layS _) (by decide) fun hw => ?_
  simp [candidate, candEngine, dSub, layD, fldB, fld_pack_lt, fld_pack_ge, ofNat_toNat_mod]

theorem erginfo (d : Reg) : Statement (.erginfo d) := by
  refine of_word (op := 0x77) rfl (by decide) rfl (packFields_lt layD _) (packFields_lt layS _) (by decide) fun hw => ?_
  simp [candidate, candEngine, dSub, layD, fldB, fld_pack_lt, fld_pack_ge, ofNat_toNat_mod]

theorem moduleReset : Statement .moduleReset := by
  intro w he
  simp [encode] at he

theorem clockChange (rate : Nat) : Statement (.clockChange rate) := by
  intro w he
  simp [encode] at he

theorem instructionFetch (core : Nat) (idx : Nat) : Statement (.instructionFetch core idx) := by
  intro w he
  simp [encode] at he

theorem issueSelect (core : Nat) : Statement (.issueSelect core) := by
  intro w he
  simp [encode] at he

theorem yieldHoldEnd (core : Nat) (idx : Nat) : Statement (.yieldHoldEnd core idx) := by
  intro w he
  simp [encode] at he

theorem longLatencyResult (n : Nat) (r : ResultIn) : Statement (.longLatencyResult n r) := by
  intro w he
  simp [encode] at he

theorem bankMoveComplete (core : Nat) (idx : Nat) : Statement (.bankMoveComplete core idx) := by
  intro w he
  simp [encode] at he

theorem bankReturn (core : Nat) : Statement (.bankReturn core) := by
  intro w he
  simp [encode] at he

theorem drainComplete (core : Nat) (idx : Nat) : Statement (.drainComplete core idx) := by
  intro w he
  simp [encode] at he

theorem reqMessageArrival (m : MsgIn) : Statement (.reqMessageArrival m) := by
  intro w he
  simp [encode] at he

theorem repMessageArrival (m : MsgIn) : Statement (.repMessageArrival m) := by
  intro w he
  simp [encode] at he

theorem heldMessageEnter (core : Nat) (rep : Bool) (n : Nat) : Statement (.heldMessageEnter core rep n) := by
  intro w he
  simp [encode] at he

theorem refused (m : MsgIn) : Statement (.refused m) := by
  intro w he
  simp [encode] at he

theorem handlerStart (core : Nat) : Statement (.handlerStart core) := by
  intro w he
  simp [encode] at he

theorem handlerStartNotice (n : Nat) : Statement (.handlerStartNotice n) := by
  intro w he
  simp [encode] at he

theorem handlerSlotFree (core : Nat) (slot : Nat) : Statement (.handlerSlotFree core slot) := by
  intro w he
  simp [encode] at he

theorem watchpointMatch (n : Nat) : Statement (.watchpointMatch n) := by
  intro w he
  simp [encode] at he

theorem dependenceSatisfied (inst : Nat) : Statement (.dependenceSatisfied inst) := by
  intro w he
  simp [encode] at he

theorem pendingEnterQueue (disp : Nat) : Statement (.pendingEnterQueue disp) := by
  intro w he
  simp [encode] at he

theorem taskDispatch (disp : Nat) : Statement (.taskDispatch disp) := by
  intro w he
  simp [encode] at he

theorem taskAging (disp : Nat) (inst : Nat) : Statement (.taskAging disp inst) := by
  intro w he
  simp [encode] at he

theorem preempt (disp : Nat) : Statement (.preempt disp) := by
  intro w he
  simp [encode] at he

theorem resume (core : Nat) : Statement (.resume core) := by
  intro w he
  simp [encode] at he

theorem taskCompletion (inst : Nat) : Statement (.taskCompletion inst) := by
  intro w he
  simp [encode] at he

theorem hostMemWrite (place : HostPlace) (data : List Byte) (poisoned : Bool) : Statement (.hostMemWrite place data poisoned) := by
  intro w he
  simp [encode] at he

theorem hostMemRead (place : HostPlace) (n : Nat) : Statement (.hostMemRead place n) := by
  intro w he
  simp [encode] at he

theorem hostBar0Write (off : Nat) (v : Word) : Statement (.hostBar0Write off v) := by
  intro w he
  simp [encode] at he

theorem hirq (v : Word) : Statement (.hirq v) := by
  intro w he
  simp [encode] at he

theorem spdmMeasurement : Statement .spdmMeasurement := by
  intro w he
  simp [encode] at he

theorem shootdownGo (port : Nat) (v : Word) : Statement (.shootdownGo port v) := by
  intro w he
  simp [encode] at he

theorem shootdownComplete (port : Nat) : Statement (.shootdownComplete port) := by
  intro w he
  simp [encode] at he

theorem wbRewalk (core : Nat) (idx : Nat) : Statement (.wbRewalk core idx) := by
  intro w he
  simp [encode] at he

theorem wbwaitExpiry (core : Nat) (idx : Nat) : Statement (.wbwaitExpiry core idx) := by
  intro w he
  simp [encode] at he

theorem l1Eviction (core : Nat) (line : Nat) : Statement (.l1Eviction core line) := by
  intro w he
  simp [encode] at he

theorem nearPartitionEviction (cl : Nat) (line : Nat) : Statement (.nearPartitionEviction cl line) := by
  intro w he
  simp [encode] at he

theorem homePartitionEviction (line : Nat) : Statement (.homePartitionEviction line) := by
  intro w he
  simp [encode] at he

theorem forwardedRead (core : Nat) (word : Nat) : Statement (.forwardedRead core word) := by
  intro w he
  simp [encode] at he

theorem pageGrantRequest (page : Nat) (pkg : Nat) (aim : GrantAim) : Statement (.pageGrantRequest page pkg aim) := by
  intro w he
  simp [encode] at he

theorem readLeaseExpiry (page : Nat) : Statement (.readLeaseExpiry page) := by
  intro w he
  simp [encode] at he

theorem grantHandOver (h : HandOver) : Statement (.grantHandOver h) := by
  intro w he
  simp [encode] at he

theorem grantRecall (page : Nat) : Statement (.grantRecall page) := by
  intro w he
  simp [encode] at he

theorem baseDieAtomicResult (n : Nat) (bad : Bool) : Statement (.baseDieAtomicResult n bad) := by
  intro w he
  simp [encode] at he

theorem ferryTake (cl : Nat) : Statement (.ferryTake cl) := by
  intro w he
  simp [encode] at he

theorem landingCount (cl : Nat) (n : Nat) : Statement (.landingCount cl n) := by
  intro w he
  simp [encode] at he

theorem ringRecordWrite (cl : Nat) (n : Nat) : Statement (.ringRecordWrite cl n) := by
  intro w he
  simp [encode] at he

theorem ferryFinish (cl : Nat) (n : Nat) : Statement (.ferryFinish cl n) := by
  intro w he
  simp [encode] at he

theorem ferryWbRewalk (cl : Nat) (n : Nat) : Statement (.ferryWbRewalk cl n) := by
  intro w he
  simp [encode] at he

theorem leaseGrant (cl : Nat) : Statement (.leaseGrant cl) := by
  intro w he
  simp [encode] at he

theorem opaCommandAccept (cl : Nat) : Statement (.opaCommandAccept cl) := by
  intro w he
  simp [encode] at he

theorem leaseClockExpiry (cl : Nat) : Statement (.leaseClockExpiry cl) := by
  intro w he
  simp [encode] at he

theorem opaFreeze (cl : Nat) : Statement (.opaFreeze cl) := by
  intro w he
  simp [encode] at he

theorem composeForm (cl : Nat) : Statement (.composeForm cl) := by
  intro w he
  simp [encode] at he

theorem ergMispredictSquash (core : Nat) (idx : Nat) : Statement (.ergMispredictSquash core idx) := by
  intro w he
  simp [encode] at he

theorem linkRetry (r : Retry) : Statement (.linkRetry r) := by
  intro w he
  simp [encode] at he

theorem ucieEdgeFail (die : Nat) (nb : Nat) : Statement (.ucieEdgeFail die nb) := by
  intro w he
  simp [encode] at he

theorem ualinkPortFail (port : Nat) : Statement (.ualinkPortFail port) := by
  intro w he
  simp [encode] at he

theorem cxlLinkDown : Statement .cxlLinkDown := by
  intro w he
  simp [encode] at he

theorem portfail (v : Word) : Statement (.portfail v) := by
  intro w he
  simp [encode] at he

theorem agentSuspect (a : Agent) (svc : Nat) (pa : Nat) : Statement (.agentSuspect a svc pa) := by
  intro w he
  simp [encode] at he

theorem agentDeclareDead (a : Agent) : Statement (.agentDeclareDead a) := by
  intro w he
  simp [encode] at he

theorem agentReadmit (a : Agent) : Statement (.agentReadmit a) := by
  intro w he
  simp [encode] at he

theorem staleMessageDrop (a : Agent) (svc : Nat) (inc : Nat) : Statement (.staleMessageDrop a svc inc) := by
  intro w he
  simp [encode] at he

theorem erracc (core : Nat) (v : Word) : Statement (.erracc core v) := by
  intro w he
  simp [encode] at he

theorem cbukill (cl : Nat) (v : Word) : Statement (.cbukill cl v) := by
  intro w he
  simp [encode] at he

theorem mbicfg (stack : Nat) (v : Word) : Statement (.mbicfg stack v) := by
  intro w he
  simp [encode] at he

theorem mbiLaneTurn (stack : Nat) : Statement (.mbiLaneTurn stack) := by
  intro w he
  simp [encode] at he

theorem route (p : Nat) (v : Word) : Statement (.route p v) := by
  intro w he
  simp [encode] at he

theorem agentStateWrite (a : Agent) (v : Word) : Statement (.agentStateWrite a v) := by
  intro w he
  simp [encode] at he

theorem htab (v : Word) : Statement (.htab v) := by
  intro w he
  simp [encode] at he

theorem hotq (v : Word) : Statement (.hotq v) := by
  intro w he
  simp [encode] at he

theorem vlanes (v : Word) : Statement (.vlanes v) := by
  intro w he
  simp [encode] at he

theorem flexcfg (v : Word) : Statement (.flexcfg v) := by
  intro w he
  simp [encode] at he

theorem saveptr (v : Word) : Statement (.saveptr v) := by
  intro w he
  simp [encode] at he

theorem ptbase (asid : Bool) (v : Word) : Statement (.ptbase asid v) := by
  intro w he
  simp [encode] at he

theorem pkgid (v : Word) : Statement (.pkgid v) := by
  intro w he
  simp [encode] at he

theorem mboxpol (depth : Bool) (v : Word) : Statement (.mboxpol depth v) := by
  intro w he
  simp [encode] at he

theorem fcsr (seed : Bool) (v : Word) : Statement (.fcsr seed v) := by
  intro w he
  simp [encode] at he

theorem deviceRegisterWrite (off : Nat) (v : Word) : Statement (.deviceRegisterWrite off v) := by
  intro w he
  simp [encode] at he

theorem cxlCacheSnoop (cl : Nat) (pa : Nat) (data : List Byte) : Statement (.cxlCacheSnoop cl pa data) := by
  intro w he
  simp [encode] at he

theorem peerModuleAccess (sender : PeerFrom) (op : PeerOp) : Statement (.peerModuleAccess sender op) := by
  intro w he
  simp [encode] at he

theorem leaseRecordExpiry (page : Nat) (pkg : Nat) : Statement (.leaseRecordExpiry page pkg) := by
  intro w he
  simp [encode] at he

theorem opaFreezeEnd (cl : Nat) : Statement (.opaFreezeEnd cl) := by
  intro w he
  simp [encode] at he

theorem opaCommandComplete (core : Nat) (idx : Nat) (e : OpaErr) : Statement (.opaCommandComplete core idx e) := by
  intro w he
  simp [encode] at he

end Sys2Proof.Laws.RoundTrip
end

