-- ==== Sys2Proof/Laws/Vector.lean ====
section
/-! SUPPORT. One lemma per shared operation of the vector instructions: gates, tags, limits, results (R83, R86, R87, R240 to R243). -/
namespace Sys2Proof.Machine
open Sys2Proof.Claims

/-- A queue that is read has its entry. -/
theorem go_queueGate {s : State} {v : VState} {a : VSrc} (h : hasEntry v a) : (queueGate v a).go s = (.ok (), s) := by
  unfold hasEntry at h
  unfold queueGate
  cases ho : a.op <;> simp_all

/-- Each of several queues has its entry. -/
theorem go_forM_queueGate {s : State} {v : VState} {l : List VSrc} (h : ∀ a ∈ l, hasEntry v a) :
    (l.forM (queueGate v)).go s = (.ok (), s) := by
  induction l with
  | nil => rfl
  | cons a l ih =>
    have ha := go_queueGate (s := s) (h a (by simp))
    have hl := ih fun b hb => h b (by simp [hb])
    change (queueGate v a >>= fun _ => l.forM (queueGate v)).go s = _
    rw [go_bind, ha]
    exact hl

/-- The gates of R240 are open. -/
theorem go_vectorGate {s : State} {v : VState} (op : Nat) (h : s.VectorReady v) : (vectorGate op).go s = (.ok v, s) := by
  obtain ⟨h1, h2, h3⟩ := h
  simp [vectorGate, vstate, h1, h2, h3]

/-- An instruction whose gates are open begins with its vector state, and nothing changes. -/
theorem go_vopen {s : State} {v : VState} {op : Nat} {srcs : List VSrc} {more dsts : List Opd} (h : VOpen s srcs more dsts v) :
    (vopen op srcs more dsts).go s = (.ok v, s) := by
  obtain ⟨h1, h2, h3⟩ := h
  unfold vopen
  rw [go_bind, go_operands h1]
  simp only [go_bind, go_vectorGate op h2]
  rw [go_forM_queueGate h3]
  rfl

/-- VL fits. -/
theorem go_limit {s : State} {v : VState} {ws : List Nat} (h : Fits s v ws) : (limit v ws).go s = (.ok (), s) := by
  have : (ws.any fun w => decide (vlmax v.g (s.coreAt s.cur.core).vlanes w < v.vl)) = false := by
    simp only [List.any_eq_false, decide_eq_true_eq]
    intro w hw
    have := h w hw
    omega
  simp [limit, lanesM, this]

/-- VL fits the widths of some arguments when it fits the one width that their vectors have. -/
theorem fits_argWidths {s : State} {v : VState} {l : List VArg} {w : Nat} (h : Fits s v [w])
    (hl : ∀ x ∈ l, ∀ t, x.tag = some t → tyWidth t.ty = w) : Fits s v (argWidths l) := by
  intro k hk
  simp only [argWidths, List.mem_filterMap, Option.map_eq_some_iff] at hk
  obtain ⟨x, hx, t, ht, rfl⟩ := hk
  exact h _ (by simp [hl x hx t ht])

/-- The tag of one source (R83). -/
theorem go_tag1 {s : State} {v : VState} {a : VSrc} {x : VArg} {d : VDst} {t : Tag} (h : TagIs v x d t) :
    (tag1 v a x (some d)).go s = (.ok t, s) := by
  unfold TagIs at h
  unfold tag1
  cases hx : x.tag <;> simp_all

/-- The tag of one source that is a vector. -/
theorem go_tag1_vec {s : State} {v : VState} {a : VSrc} {x : VArg} {d : Option VDst} {t : Tag} (h : x.tag = some t) :
    (tag1 v a x d).go s = (.ok t, s) := by
  simp [tag1, h]

/-- The common tag of two sources (R83). -/
theorem go_tag2 {s : State} {v : VState} {a : VSrc} {x y : VArg} {d : VDst} {t : Tag} (h : TagsAre v x y d t) :
    (tag2 v a x y (some d)).go s = (.ok (t, t), s) := by
  unfold TagsAre at h
  unfold tag2
  cases hx : x.tag <;> cases hy : y.tag <;> simp_all [tag1]

/-- The common tag of two sources one of which is a vector. -/
theorem go_tag2_vec {s : State} {v : VState} {a : VSrc} {x y : VArg} {d : Option VDst} {t : Tag} (h : TagsVec x y t) :
    (tag2 v a x y d).go s = (.ok (t, t), s) := by
  unfold TagsVec at h
  unfold tag2
  cases hx : x.tag <;> cases hy : y.tag <;> simp_all

/-- Equal tags of an accepted type. -/
theorem go_accept2 {s : State} {a b : VSrc} {t : Tag} {ok : Nat → Bool} (h : ok t.ty = true) :
    (accept2 a b t t ok).go s = (.ok (), s) := by
  simp [accept2, h]

/-- The end of an instruction with a vector result. -/
theorem go_vdone (srcs : List VSrc) (d : VDst) (ty : Nat) (r : Nat × Nat) (s : State) :
    (vdone srcs d ty r).go s = (.ok (), s.updMe fun x => (((({ x with fcsr := x.fcsr ||| r.2 } : Ctx).updV (popped srcs)).updV fun v =>
      (match d with
        | .v n => v.setV n.toNat (plainV ty r)
        | _ => v).pushL (plainV ty r))).advance) := by
  simp only [vdone, popAll, writeV, go_bind, go_raise, go_updMe, go_advance, State.updMe_updMe]
  rfl

/-- The end of an instruction with a vector result, issued. -/
theorem vdone_done (srcs : List VSrc) (d : VDst) (ty : Nat) (r : Nat × Nat) (s : State) :
    ((vdone srcs d ty r).go s).2.updMe Ctx.done = vresult s srcs d (plainV ty r) r.2 := by
  rw [go_vdone, State.updMe_updMe]
  rfl

/-- The end of an instruction with a scalar result. -/
theorem go_vscalar (srcs : List VSrc) (d : Reg) (r : Word × Nat) (s : State) :
    (vscalar srcs d r).go s = (.ok (), s.updMe fun x =>
      ((({ x with fcsr := x.fcsr ||| r.2 } : Ctx).updV (popped srcs)).setX d.toNat r.1).advance) := by
  simp only [vscalar, popAll, go_bind, go_raise, go_updMe, go_writeX, go_advance, State.updMe_updMe]
  rfl

/-- Issuing what ends with a vector result. -/
theorem issue_vdone {m : M Unit} {s s' : State} {srcs : List VSrc} {d : VDst} {ty : Nat} {r : Nat × Nat}
    (h : m.go s = (vdone srcs d ty r).go s') : issue m s = .next (vresult s' srcs d (plainV ty r) r.2) := by
  rw [go_vdone] at h
  rw [issue_ok h, State.updMe_updMe]
  rfl

/-- Issuing what ends with a scalar result. -/
theorem issue_vscalar {m : M Unit} {s s' : State} {srcs : List VSrc} {d : Reg} {r : Word × Nat}
    (h : m.go s = (vscalar srcs d r).go s') : issue m s = .next (vscalars s' srcs d r.1 r.2) := by
  rw [go_vscalar] at h
  rw [issue_ok h, State.updMe_updMe]
  rfl

/-- Two vector sources of one accepted tag. -/
theorem issue_vec2 {op : Nat} {ok : Nat → Bool} {f : Nat → Nat → Nat → Nat → Nat × Nat} {s : State} {d : VDst} {a b : VSrc}
    {m : MaskF} {v : VState} {t : Tag} (ho : VOpen s [a, b] [] (vdst d) v) (ht : TagsAre v (arg s v a) (arg s v b) d t)
    (hf : Fits s v [tyWidth t.ty]) (hok : ok t.ty = true) :
    let r := formBits v (keptBits v d m.mz) (tyWidth t.ty) (v.active m.me m.mr) fun k =>
      f t.ty s.me.fcsr ((arg s v a).bits (tyWidth t.ty) k) ((arg s v b).bits (tyWidth t.ty) k)
    issue (vec2 op ok d a b m f) s = .next (vresult s [a, b] d (plainV t.ty r) r.2) := by
  have hf2 : Fits s v [tyWidth t.ty, tyWidth t.ty] := by
    intro w hw
    simp at hw
    exact hf w (by simp [hw])
  refine issue_vdone ?_
  simp only [vec2, go_bind, go_vopen ho, go_me]
  simp only [show readV v s.me a = arg s v a from rfl, show readV v s.me b = arg s v b from rfl, go_tag2 ht, go_limit hf2,
    go_accept2 hok]

/-- One vector source of an accepted type. -/
theorem issue_vec1 {op : Nat} {ok : Nat → Bool} {f : Nat → Nat → Nat → Nat × Nat} {s : State} {d : VDst} {a : VSrc} {m : MaskF}
    {v : VState} {t : Tag} (ho : VOpen s [a] [] (vdst d) v) (ht : TagIs v (arg s v a) d t) (hf : Fits s v [tyWidth t.ty])
    (hok : ok t.ty = true) :
    let r := formBits v (keptBits v d m.mz) (tyWidth t.ty) (v.active m.me m.mr) fun k =>
      f t.ty s.me.fcsr ((arg s v a).bits (tyWidth t.ty) k)
    issue (vec1 op ok d a m f) s = .next (vresult s [a] d (plainV t.ty r) r.2) := by
  refine issue_vdone ?_
  simp only [vec1, go_bind, go_vopen ho, go_me]
  simp only [show readV v s.me a = arg s v a from rfl, go_tag1 ht, go_limit hf]
  simp [hok]

end Sys2Proof.Machine
end

