-- ==== Sys2Proof/Tests/Slice0.lean ====
section
/-! SUPPORT. The model's own tests: ill-formed terms, words written from the encoding tables, worked values of the spec, and a witness for the hypotheses of every statement. -/
set_option maxRecDepth 10000
set_option Elab.async false

namespace Sys2Proof.Tests
open Sys2Proof.Machine Sys2Proof.Claims

/-! ### Ill-formed terms: one for each check of `WellFormed` -/

theorem test_wf_scalar :
    WellFormed (.fcvt .f32 .f32 .rne 1 ⟨1, true⟩) = false ∧ WellFormed (.fcvt .i32 .n64 .rne 1 ⟨1, true⟩) = false ∧
    WellFormed (.fcvt .i32 .f64 .rne 1 ⟨1, true⟩) = true ∧
    WellFormed (.waitvAny 1 ⟨.bc 2, true⟩ true 0) = false ∧ WellFormed (.waitvAll 1 ⟨.v 2, true⟩ false 1) = false ∧
    WellFormed (.waitvAll 1 ⟨.bc 2, true⟩ false 1) = false ∧
    WellFormed (.wmbind 0 .di ⟨0, false⟩ ⟨0, false⟩ 0) = false ∧ WellFormed (.wmbind 0 .cl ⟨0, false⟩ ⟨0, false⟩ 1) = false ∧
    WellFormed (.wmbind 0 .cl ⟨0, true⟩ ⟨0, false⟩ 0) = false ∧ WellFormed (.wmbind 0 .cl ⟨0, false⟩ ⟨1, false⟩ 0) = false ∧
    WellFormed (.wmbind 3 .cl ⟨0, false⟩ ⟨0, false⟩ 0) = true ∧
    WellFormed (.setvl 0 7 1 ⟨1, true⟩) = false ∧ WellFormed (.setvl 0 15 1 ⟨1, true⟩) = false := by decide

theorem test_wf_vector :
    WellFormed (.vadd (.q 0) ⟨.v 1, true⟩ ⟨.v 2, true⟩ ⟨false, 0, false⟩) = false ∧
    WellFormed (.vadd (.v 0) ⟨.v 1, true⟩ ⟨.v 2, true⟩ ⟨false, 1, false⟩) = false ∧
    WellFormed (.vadd (.v 0) ⟨.v 1, true⟩ ⟨.v 2, true⟩ ⟨false, 0, true⟩) = false ∧
    WellFormed (.vmadd .rne (.q 0) ⟨.v 1, true⟩ ⟨.v 2, true⟩ ⟨.v 3, true⟩ ⟨false, 0, false⟩) = false ∧
    WellFormed (.vneg (.q 3) ⟨.v 1, true⟩ ⟨false, 0, false⟩) = false ∧
    WellFormed (.vcmpEq 1 ⟨.v 1, true⟩ ⟨.v 2, true⟩ ⟨false, 7, false⟩) = false ∧
    WellFormed (.vsel (.q 0) ⟨.v 1, true⟩ ⟨.v 2, true⟩ 1) = false ∧
    WellFormed (.vcvt 15 .rne (.v 0) ⟨.v 1, true⟩ ⟨false, 0, false⟩) = false ∧
    WellFormed (.vqnt 1 .rne (.v 0) ⟨.v 1, true⟩) = false ∧ WellFormed (.vqnt 15 .rne (.v 0) ⟨.v 1, true⟩) = true ∧
    WellFormed (.vredSum .rne 1 ⟨.v 1, true⟩ false 1) = false ∧
    WellFormed (.vslideUp (.q 1) ⟨.v 1, true⟩ ⟨2, true⟩ ⟨false, 0, false⟩) = false ∧
    WellFormed (.vins (.q 1) ⟨.v 1, true⟩ ⟨2, true⟩ ⟨3, true⟩) = false ∧ WellFormed (.viota 1 false 2) = false ∧
    WellFormed (.mand 1 2 3 ⟨false, 1, false⟩) = false ∧ WellFormed (.mpop 1 2 false 3) = false ∧
    WellFormed (.vscget (.q 1) 2 true) = false ∧ WellFormed (.vcompress (.q 1) ⟨.v 2, true⟩ false 0) = false := by decide

theorem test_wf_memory_and_units :
    WellFormed (.vld 0 (.q 0) ⟨1, true⟩ 0 ⟨false, 0, true⟩ none) = false ∧
    WellFormed (.vld 0 (.q 0) ⟨1, true⟩ 0 ⟨false, 0, false⟩ none) = true ∧
    WellFormed (.vst ⟨1, true⟩ 0 ⟨.bc 2, true⟩ ⟨false, 0, false⟩) = false ∧
    WellFormed (.vldx 0 (.v 0) ⟨1, true⟩ 0 ⟨.bc 2, true⟩ ⟨false, 0, false⟩ none) = false ∧
    WellFormed (.vldt (.v 0) 1 true false 1 none) = false ∧ WellFormed (.slclaim 3 2) = false ∧ WellFormed (.slfree 2 2) = true ∧
    WellFormed (.slloadRow 1 0 ⟨1, true⟩ 0 ⟨2, true⟩ ⟨3, true⟩) = false ∧ WellFormed (.slloadCol 9 0 ⟨1, true⟩ 0 ⟨2, true⟩ ⟨3, true⟩) = false ∧
    WellFormed (.mop 0 0 1 10 11 ⟨1, true⟩) = false ∧ WellFormed (.mop 0 0 1 10 10 ⟨1, true⟩) = true ∧
    WellFormed (.mops 0 0 1 0 0) = false ∧ WellFormed (.mops 0 0 1 14 15) = true ∧
    WellFormed (.mrd (.q 0) ⟨1, true⟩ false 0) = false ∧ WellFormed (.mwr ⟨1, true⟩ 0 false 1) = false ∧
    WellFormed (.cbdone ⟨.bc 1, true⟩ ⟨2, true⟩ true 1) = false ∧ WellFormed (.cbdone ⟨.v 1, true⟩ ⟨2, true⟩ false 1) = false := by
  decide

/-! ### Words -/

/-- Heads and tails that no instruction has: a T that is not the family's, reserved OPs, a reserved rounding mode and size, an operand 42, a quad that is none, fields that must be zero. -/
theorem test_decode_illegal :
    decodeTableWord 32 0x00000002 = none ∧ decodeTableWord 16 0x0034 = none ∧ decodeTableWord 16 0x01FC = none ∧
    decodeTableWord 32 0xE00000A1 = none ∧ decodeTableWord 48 0x0000000000E000C2 = none ∧
    decodeTableWord 48 0x0000000000E2 = none ∧ decodeTableWord 48 0x00000000002A010A = none ∧ decodeTableWord 32 0x000501A1 = none ∧
    decodeTableWord 32 0x00000213 = none ∧ decodeTableWord 32 0x0000140D = none := by decide

/-- Words laid out from the tables of R184, R189 and R195. -/
theorem test_decode_control_1 :
  decodeTableWord 16 0x0000 = some (.nop) ∧
  decodeTableWord 48 0xFFFFFFFD0006 = some (.br 0xFFFFFFFD) ∧
  decodeTableWord 48 0x40000001000A = some (.call 0x40000001) ∧
  decodeTableWord 32 0x0109000D = some (.jr ⟨9, true⟩) ∧
  decodeTableWord 32 0x0006200D = some (.callr ⟨6, false⟩) ∧
  decodeTableWord 32 0x0000400D = some (.ret) ∧
  decodeTableWord 64 0x8000000001C30013 = some (.bccEq ⟨3, true⟩ ⟨12, false⟩ 0x80000000) ∧
  decodeTableWord 64 0x8000000105C30013 = some (.bccNe ⟨3, true⟩ ⟨12, false⟩ 0x80000001) ∧
  decodeTableWord 64 0x8000000209C30013 = some (.bccLt ⟨3, true⟩ ⟨12, false⟩ 0x80000002) ∧
  decodeTableWord 64 0x800000030DC30013 = some (.bccGe ⟨3, true⟩ ⟨12, false⟩ 0x80000003) ∧
  decodeTableWord 64 0x8000000411C30013 = some (.bccLtn ⟨3, true⟩ ⟨12, false⟩ 0x80000004) ∧
  decodeTableWord 64 0x8000000515C30013 = some (.bccGen ⟨3, true⟩ ⟨12, false⟩ 0x80000005) := by decide

/-- Words laid out from the tables of R184, R189 and R195. -/
theorem test_decode_control_2 :
  decodeTableWord 64 0x0000000500070017 = some (.bz ⟨7, false⟩ 5) ∧
  decodeTableWord 64 0x0000000605070017 = some (.bnz ⟨7, true⟩ 6) ∧
  decodeTableWord 48 0xFFFFFFE0001A = some (.trap 0x7FFFFFF) ∧
  decodeTableWord 48 0x800000000032 = some (.brk 0x4000000) ∧
  decodeTableWord 16 0x001C = some (.tret) ∧
  decodeTableWord 48 0x000010401622 = some (.sysr 11 0x082) ∧
  decodeTableWord 48 0x0000023D0026 = some (.sysw 0x011 ⟨13, true⟩) ∧
  decodeTableWord 16 0x0028 = some (.halt) ∧
  decodeTableWord 16 0x002C = some (.ifence) := by decide

/-- Words laid out from the tables of R184, R189 and R195. -/
theorem test_decode_integer_1 :
  decodeTableWord 32 0x022F0041 = some (.add 0 ⟨15, false⟩ ⟨2, true⟩) ∧
  decodeTableWord 32 0x052E0241 = some (.sub 1 ⟨14, true⟩ ⟨2, false⟩) ∧
  decodeTableWord 32 0x0A2D0441 = some (.and 2 ⟨13, false⟩ ⟨2, true⟩) ∧
  decodeTableWord 32 0x0D2C0641 = some (.or 3 ⟨12, true⟩ ⟨2, false⟩) ∧
  decodeTableWord 32 0x122B0841 = some (.xor 4 ⟨11, false⟩ ⟨2, true⟩) ∧
  decodeTableWord 32 0x152A0A41 = some (.andn 5 ⟨10, true⟩ ⟨2, false⟩) ∧
  decodeTableWord 32 0x1A290C41 = some (.shl 6 ⟨9, false⟩ ⟨2, true⟩) ∧
  decodeTableWord 32 0x1D280E41 = some (.shr 7 ⟨8, true⟩ ⟨2, false⟩) ∧
  decodeTableWord 32 0x22271041 = some (.shra 8 ⟨7, false⟩ ⟨2, true⟩) ∧
  decodeTableWord 32 0x25261241 = some (.min 9 ⟨6, true⟩ ⟨2, false⟩) ∧
  decodeTableWord 32 0x2A251441 = some (.max 10 ⟨5, false⟩ ⟨2, true⟩) ∧
  decodeTableWord 32 0x2D241641 = some (.minn 11 ⟨4, true⟩ ⟨2, false⟩) := by decide

/-- Words laid out from the tables of R184, R189 and R195. -/
theorem test_decode_integer_2 :
  decodeTableWord 32 0x32231841 = some (.maxn 12 ⟨3, false⟩ ⟨2, true⟩) ∧
  decodeTableWord 32 0x35221A41 = some (.slt 13 ⟨2, true⟩ ⟨2, false⟩) ∧
  decodeTableWord 32 0x3A211C41 = some (.sltn 14 ⟨1, false⟩ ⟨2, true⟩) ∧
  decodeTableWord 32 0x3D201E41 = some (.seq 15 ⟨0, true⟩ ⟨2, false⟩) ∧
  decodeTableWord 32 0x02080045 = some (.mul 0 ⟨8, false⟩ ⟨0, true⟩) ∧
  decodeTableWord 32 0x07180245 = some (.mulh 1 ⟨8, true⟩ ⟨1, true⟩) ∧
  decodeTableWord 32 0x0A280445 = some (.mulhn 2 ⟨8, false⟩ ⟨2, true⟩) ∧
  decodeTableWord 32 0x0F380645 = some (.div 3 ⟨8, true⟩ ⟨3, true⟩) ∧
  decodeTableWord 32 0x12480845 = some (.divn 4 ⟨8, false⟩ ⟨4, true⟩) ∧
  decodeTableWord 32 0x17580A45 = some (.rem 5 ⟨8, true⟩ ⟨5, true⟩) ∧
  decodeTableWord 32 0x1A680C45 = some (.remn 6 ⟨8, false⟩ ⟨6, true⟩) ∧
  decodeTableWord 32 0x01000849 = some (.clz 4 ⟨0, true⟩) := by decide

/-- Words laid out from the tables of R184, R189 and R195. -/
theorem test_decode_integer_3 :
  decodeTableWord 32 0x05010849 = some (.ctz 4 ⟨1, true⟩) ∧
  decodeTableWord 32 0x09020849 = some (.popc 4 ⟨2, true⟩) ∧
  decodeTableWord 32 0x0D030849 = some (.brev 4 ⟨3, true⟩) ∧
  decodeTableWord 32 0x11040849 = some (.bswap 4 ⟨4, true⟩) ∧
  decodeTableWord 32 0x14010A49 = some (.sext .w8 5 ⟨1, false⟩) ∧
  decodeTableWord 32 0x14110A49 = some (.sext .w16 5 ⟨1, false⟩) ∧
  decodeTableWord 32 0x14210A49 = some (.sext .w32 5 ⟨1, false⟩) := by decide

/-- Words laid out from the tables of R184, R189 and R195. -/
theorem test_decode_immediate_1 :
  decodeTableWord 48 0x8000001E064E = some (.addi 3 ⟨14, true⟩ 0x4000000) ∧
  decodeTableWord 48 0x8000003E0652 = some (.andi 3 ⟨14, true⟩ 0x4000001) ∧
  decodeTableWord 48 0x8000005E0656 = some (.ori 3 ⟨14, true⟩ 0x4000002) ∧
  decodeTableWord 48 0x8000007E065A = some (.xori 3 ⟨14, true⟩ 0x4000003) ∧
  decodeTableWord 48 0x000007EE065E = some (.shli 3 ⟨14, false⟩ 63) ∧
  decodeTableWord 48 0x000007CE265E = some (.shri 3 ⟨14, false⟩ 62) ∧
  decodeTableWord 48 0x000007AE465E = some (.shrai 3 ⟨14, false⟩ 61) ∧
  decodeTableWord 48 0xFFFFFFD10462 = some (.slti 2 ⟨1, true⟩ 0x7FFFFFE) ∧
  decodeTableWord 48 0x000000210466 = some (.sltni 2 ⟨1, false⟩ 1) ∧
  decodeTableWord 64 0xFFFF000000021E6B = some (.li 15 0xFFFF00000002) ∧
  decodeTableWord 48 0xFFFFFFF50C6E = some (.lea 0 6 ⟨5, true⟩ 0x7FFFFFF) ∧
  decodeTableWord 48 0xFFFFFFF52C6E = some (.lea 1 6 ⟨5, true⟩ 0x7FFFFFF) := by decide

/-- Words laid out from the tables of R184, R189 and R195. -/
theorem test_decode_immediate_2 :
  decodeTableWord 48 0xFFFFFFF54C6E = some (.lea 2 6 ⟨5, true⟩ 0x7FFFFFF) ∧
  decodeTableWord 48 0xFFFFFFF56C6E = some (.lea 3 6 ⟨5, true⟩ 0x7FFFFFF) ∧
  decodeTableWord 48 0xFFFFE0001272 = some (.addpc 9 0x7FFFF00) ∧
  decodeTableWord 64 0x000000004C511477 = some (.sel 10 ⟨1, true⟩ ⟨2, false⟩ ⟨3, true⟩) := by decide

/-- Words laid out from the tables of R184, R189 and R195. -/
theorem test_decode_float_1 :
  decodeTableWord 32 0x01210EA1 = some (.fadd .f64 .rne 7 ⟨1, true⟩ ⟨2, false⟩) ∧
  decodeTableWord 32 0x25212EA1 = some (.fsub .f32 .rtz 7 ⟨1, true⟩ ⟨2, false⟩) ∧
  decodeTableWord 32 0x49214EA1 = some (.fmul .f16 .rdn 7 ⟨1, true⟩ ⟨2, false⟩) ∧
  decodeTableWord 32 0x6D216EA1 = some (.fdiv .bf16 .rup 7 ⟨1, true⟩ ⟨2, false⟩) ∧
  decodeTableWord 32 0x12214EA1 = some (.fmin .f16 7 ⟨1, false⟩ ⟨2, true⟩) ∧
  decodeTableWord 32 0x16216EA1 = some (.fmax .bf16 7 ⟨1, false⟩ ⟨2, true⟩) ∧
  decodeTableWord 32 0xD9092EA1 = some (.fsqrt .f32 .dyn 7 ⟨9, true⟩) ∧
  decodeTableWord 32 0x034310A5 = some (.fsgnj .f64 8 ⟨3, true⟩ ⟨4, true⟩) ∧
  decodeTableWord 32 0x074330A5 = some (.fsgnjn .f32 8 ⟨3, true⟩ ⟨4, true⟩) ∧
  decodeTableWord 32 0x0B4350A5 = some (.fsgnjx .f16 8 ⟨3, true⟩ ⟨4, true⟩) ∧
  decodeTableWord 32 0x0F4370A5 = some (.feq .bf16 8 ⟨3, true⟩ ⟨4, true⟩) ∧
  decodeTableWord 32 0x134310A5 = some (.flt .f64 8 ⟨3, true⟩ ⟨4, true⟩) := by decide

/-- Words laid out from the tables of R184, R189 and R195. -/
theorem test_decode_float_2 :
  decodeTableWord 32 0x174330A5 = some (.fle .f32 8 ⟨3, true⟩ ⟨4, true⟩) ∧
  decodeTableWord 32 0x180370A5 = some (.fclass .bf16 8 ⟨3, false⟩) ∧
  decodeTableWord 64 0x00000060505118AB = some (.fmadd .f32 .rna 12 ⟨1, true⟩ ⟨2, false⟩ ⟨4, true⟩) ∧
  decodeTableWord 64 0x000000A9505118AB = some (.fmsub .f16 .sr 12 ⟨1, true⟩ ⟨2, false⟩ ⟨4, true⟩) ∧
  decodeTableWord 64 0x000000F2505118AB = some (.fnmadd .bf16 .dyn 12 ⟨1, true⟩ ⟨2, false⟩ ⟨4, true⟩) ∧
  decodeTableWord 32 0x6122C2AD = some (.fcvt .i32 .f16 .rup 1 ⟨2, true⟩) ∧
  decodeTableWord 32 0xA07202AD = some (.fcvt .f64 .n32 .sr 1 ⟨2, false⟩) := by decide

/-- Words laid out from the tables of R184, R189 and R220. -/
theorem test_decode_memory_1 :
  decodeTableWord 48 0xFFFFF00900C2 = some (.ld .i8 0 ⟨9, false⟩ 0xFFFFF0) ∧
  decodeTableWord 48 0xFFFFF13902C2 = some (.ld .i16 1 ⟨9, true⟩ 0xFFFFF1) ∧
  decodeTableWord 48 0xFFFFF24904C2 = some (.ld .i32 2 ⟨9, false⟩ 0xFFFFF2) ∧
  decodeTableWord 48 0xFFFFF37906C2 = some (.ld .i64 3 ⟨9, true⟩ 0xFFFFF3) ∧
  decodeTableWord 48 0xFFFFF48908C2 = some (.ld .n8 4 ⟨9, false⟩ 0xFFFFF4) ∧
  decodeTableWord 48 0xFFFFF5B90AC2 = some (.ld .n16 5 ⟨9, true⟩ 0xFFFFF5) ∧
  decodeTableWord 48 0xFFFFF6C90CC2 = some (.ld .n32 6 ⟨9, false⟩ 0xFFFFF6) ∧
  decodeTableWord 48 0x800000190AC6 = some (.st .i8 ⟨9, true⟩ 0x800000 ⟨5, false⟩) ∧
  decodeTableWord 48 0x800001392AC6 = some (.st .i16 ⟨9, true⟩ 0x800001 ⟨5, true⟩) ∧
  decodeTableWord 48 0x800002590AC6 = some (.st .i32 ⟨9, true⟩ 0x800002 ⟨5, false⟩) ∧
  decodeTableWord 48 0x800003792AC6 = some (.st .i64 ⟨9, true⟩ 0x800003 ⟨5, true⟩) ∧
  decodeTableWord 48 0x0000087406CA = some (.lda .i64 .cl 3 ⟨4, true⟩ 8) := by decide

/-- Words laid out from the tables of R184, R189 and R220. -/
theorem test_decode_memory_2 :
  decodeTableWord 48 0x0000089446CA = some (.lda .n8 .di 3 ⟨4, true⟩ 8) ∧
  decodeTableWord 48 0x000008B486CA = some (.lda .n16 .pk 3 ⟨4, true⟩ 8) ∧
  decodeTableWord 48 0x000008D4C6CA = some (.lda .n32 .sy 3 ⟨4, true⟩ 8) ∧
  decodeTableWord 48 0x0000080426CE = some (.strel .i8 .cl ⟨4, false⟩ 8 ⟨3, true⟩) ∧
  decodeTableWord 48 0x0000082466CE = some (.strel .i16 .di ⟨4, false⟩ 8 ⟨3, true⟩) ∧
  decodeTableWord 48 0x00000844A6CE = some (.strel .i32 .pk ⟨4, false⟩ 8 ⟨3, true⟩) ∧
  decodeTableWord 48 0x00000864E6CE = some (.strel .i64 .sy ⟨4, false⟩ 8 ⟨3, true⟩) ∧
  decodeTableWord 64 0x8000000000F604D3 = some (.amoadd false .rlx 2 ⟨6, true⟩ 0x8000 ⟨7, false⟩) ∧
  decodeTableWord 64 0x8001014100F604D3 = some (.amoand false (.acq .di) 2 ⟨6, true⟩ 0x8001 ⟨7, false⟩) ∧
  decodeTableWord 64 0x8002028200F604D3 = some (.amoor false (.rel .pk) 2 ⟨6, true⟩ 0x8002 ⟨7, false⟩) ∧
  decodeTableWord 64 0x800303C300F604D3 = some (.amoxor false (.ar .sy) 2 ⟨6, true⟩ 0x8003 ⟨7, false⟩) ∧
  decodeTableWord 64 0x8004040400F604D3 = some (.amomin true .rlx 2 ⟨6, true⟩ 0x8004 ⟨7, false⟩) := by decide

/-- Words laid out from the tables of R184, R189 and R220. -/
theorem test_decode_memory_3 :
  decodeTableWord 64 0x8005054500F604D3 = some (.amomax true (.acq .di) 2 ⟨6, true⟩ 0x8005 ⟨7, false⟩) ∧
  decodeTableWord 64 0x8006068600F604D3 = some (.amominn true (.rel .pk) 2 ⟨6, true⟩ 0x8006 ⟨7, false⟩) ∧
  decodeTableWord 64 0x800707C700F604D3 = some (.amomaxn true (.ar .sy) 2 ⟨6, true⟩ 0x8007 ⟨7, false⟩) ∧
  decodeTableWord 64 0x8008000800F604D3 = some (.amoswap false .rlx 2 ⟨6, true⟩ 0x8008 ⟨7, false⟩) ∧
  decodeTableWord 64 0x800901496CF604D3 = some (.amocas false (.acq .di) 2 ⟨6, true⟩ 0x8009 ⟨7, false⟩ ⟨11, true⟩) ∧
  decodeTableWord 64 0x800A028A00F604D3 = some (.amofadd false (.rel .pk) 2 ⟨6, true⟩ 0x800a ⟨7, false⟩) := by decide

/-- Words laid out from the tables of R184, R189 and R220. -/
theorem test_decode_synchronisation_1 :
  decodeTableWord 48 0xFFFFF87202D6 = some (.qacq .cl 1 ⟨2, true⟩ 0xFFFFF8) ∧
  decodeTableWord 48 0xFFFFF87242DA = some (.qrel .di 1 ⟨2, true⟩ 0xFFFFF8) ∧
  decodeTableWord 48 0xFFFFF87282DE = some (.qtry .pk 1 ⟨2, true⟩ 0xFFFFF8) ∧
  decodeTableWord 48 0xFFFFF872C2E2 = some (.vlock .sy 1 ⟨2, true⟩ 0xFFFFF8) ∧
  decodeTableWord 48 0xFFFFF87202E6 = some (.vunlock .cl 1 ⟨2, true⟩ 0xFFFFF8) ∧
  decodeTableWord 32 0x007308E9 = some (.waitvAny 4 ⟨.bc 3, true⟩ false 0) ∧
  decodeTableWord 32 0x0E9E08E9 = some (.waitvAll 4 ⟨.v 30, false⟩ true 5) ∧
  decodeTableWord 64 0x0000A840009300EF = some (.wmbind 2 .pk ⟨3, true⟩ ⟨4, false⟩ 33) ∧
  decodeTableWord 48 0x0000106270F2 = some (.wmadv .di ⟨2, false⟩ 16 ⟨8, true⟩) ∧
  decodeTableWord 48 0x00007FE021E2 = some (.acq .di 1023) ∧
  decodeTableWord 48 0x00007FC041E6 = some (.rel .pk 1022) ∧
  decodeTableWord 48 0x00007FA061EA = some (.acqrel .sy 1021) := by decide

/-- Words laid out from the tables of R184, R189 and R220. -/
theorem test_decode_synchronisation_2 :
  decodeTableWord 16 0x01EC = some (.fence) ∧
  decodeTableWord 48 0x0000402061F2 = some (.rgninv .sy 513) ∧
  decodeTableWord 48 0x0000002001F6 = some (.rgnwb 1) ∧
  decodeTableWord 48 0x800000712FFA = some (.scrub ⟨1, true⟩ 0x800000 ⟨7, true⟩) := by decide

/-- Words laid out from the tables of R184, R189 and R238. -/
theorem test_decode_vector_arithmetic_1 :
  decodeTableWord 32 0xE800BF01 = some (.vcfg 13 true 31) ∧
  decodeTableWord 48 0x000000D15306 = some (.setvl 2 6 9 ⟨1, true⟩) ∧
  decodeTableWord 48 0x000001E01306 = some (.setvlFree 9) ∧
  decodeTableWord 48 0x0108091F810A = some (.vadd (.v 0) ⟨.v 31, false⟩ ⟨.peek 0, true⟩ ⟨true, 0, false⟩) ∧
  decodeTableWord 48 0x072C095E830A = some (.vsub (.v 1) ⟨.v 30, true⟩ ⟨.peek 1, true⟩ ⟨true, 1, true⟩) ∧
  decodeTableWord 48 0x0948099D850A = some (.vmul (.v 2) ⟨.v 29, false⟩ ⟨.peek 2, true⟩ ⟨true, 2, false⟩) ∧
  decodeTableWord 48 0x0F6C09DC870A = some (.vdiv (.v 3) ⟨.v 28, true⟩ ⟨.peek 3, true⟩ ⟨true, 3, true⟩) ∧
  decodeTableWord 48 0x1188091B890A = some (.vmin (.v 4) ⟨.v 27, false⟩ ⟨.peek 0, true⟩ ⟨true, 4, false⟩) ∧
  decodeTableWord 48 0x17AC095A8B0A = some (.vmax (.v 5) ⟨.v 26, true⟩ ⟨.peek 1, true⟩ ⟨true, 5, true⟩) ∧
  decodeTableWord 48 0x19C809998D0A = some (.vand (.v 6) ⟨.v 25, false⟩ ⟨.peek 2, true⟩ ⟨true, 6, false⟩) ∧
  decodeTableWord 48 0x1FEC09D88F0A = some (.vor (.v 7) ⟨.v 24, true⟩ ⟨.peek 3, true⟩ ⟨true, 7, true⟩) ∧
  decodeTableWord 48 0x21080917910A = some (.vxor (.v 8) ⟨.v 23, false⟩ ⟨.peek 0, true⟩ ⟨true, 0, false⟩) := by decide

/-- Words laid out from the tables of R184, R189 and R238. -/
theorem test_decode_vector_arithmetic_2 :
  decodeTableWord 48 0x272C0956930A = some (.vshl (.v 9) ⟨.v 22, true⟩ ⟨.peek 1, true⟩ ⟨true, 1, true⟩) ∧
  decodeTableWord 48 0x29480995950A = some (.vshr (.v 10) ⟨.v 21, false⟩ ⟨.peek 2, true⟩ ⟨true, 2, false⟩) ∧
  decodeTableWord 48 0x2F6C09D4970A = some (.vshra (.v 11) ⟨.v 20, true⟩ ⟨.peek 3, true⟩ ⟨true, 3, true⟩) ∧
  decodeTableWord 48 0x31880913990A = some (.vsadd (.v 12) ⟨.v 19, false⟩ ⟨.peek 0, true⟩ ⟨true, 4, false⟩) ∧
  decodeTableWord 48 0x37AC09529B0A = some (.vssub (.v 13) ⟨.v 18, true⟩ ⟨.peek 1, true⟩ ⟨true, 5, true⟩) ∧
  decodeTableWord 48 0x39C809919D0A = some (.vmulh (.v 14) ⟨.v 17, false⟩ ⟨.peek 2, true⟩ ⟨true, 6, false⟩) ∧
  decodeTableWord 48 0x601A0A68010E = some (.vmadd .rup .last ⟨.l0, false⟩ ⟨.l1, true⟩ ⟨.pop 0, true⟩ ⟨false, 0, false⟩) ∧
  decodeTableWord 48 0x841A1A68010E = some (.vmsub .rna .last ⟨.l0, false⟩ ⟨.l1, true⟩ ⟨.pop 1, true⟩ ⟨false, 0, false⟩) ∧
  decodeTableWord 48 0xA81A2A68010E = some (.vnmadd .sr .last ⟨.l0, false⟩ ⟨.l1, true⟩ ⟨.pop 2, true⟩ ⟨false, 0, false⟩) := by decide

/-- Words laid out from the tables of R184, R189 and R238. -/
theorem test_decode_vector_one_source_1 :
  decodeTableWord 48 0x01E40030A912 = some (.vneg (.v 20) ⟨.bc 0, true⟩ ⟨true, 7, false⟩) ∧
  decodeTableWord 48 0x05E40031A912 = some (.vabs (.v 20) ⟨.bc 1, true⟩ ⟨true, 7, false⟩) ∧
  decodeTableWord 48 0x09E40032A912 = some (.vsqrt (.v 20) ⟨.bc 2, true⟩ ⟨true, 7, false⟩) ∧
  decodeTableWord 48 0x0DE40033A912 = some (.vrcp (.v 20) ⟨.bc 3, true⟩ ⟨true, 7, false⟩) ∧
  decodeTableWord 48 0x11E40034A912 = some (.vrsq (.v 20) ⟨.bc 4, true⟩ ⟨true, 7, false⟩) ∧
  decodeTableWord 48 0x15E40035A912 = some (.vexp2 (.v 20) ⟨.bc 5, true⟩ ⟨true, 7, false⟩) ∧
  decodeTableWord 48 0x19E40036A912 = some (.vlog2 (.v 20) ⟨.bc 6, true⟩ ⟨true, 7, false⟩) ∧
  decodeTableWord 48 0x1DE40037A912 = some (.vnot (.v 20) ⟨.bc 7, true⟩ ⟨true, 7, false⟩) ∧
  decodeTableWord 48 0x21E40038A912 = some (.vclz (.v 20) ⟨.bc 8, true⟩ ⟨true, 7, false⟩) ∧
  decodeTableWord 48 0x25E40039A912 = some (.vpopc (.v 20) ⟨.bc 9, true⟩ ⟨true, 7, false⟩) ∧
  decodeTableWord 48 0x034400810716 = some (.vcmpEq 3 ⟨.v 1, true⟩ ⟨.v 2, false⟩ ⟨true, 2, true⟩) ∧
  decodeTableWord 48 0x074400810916 = some (.vcmpNe 4 ⟨.v 1, true⟩ ⟨.v 2, false⟩ ⟨true, 2, true⟩) := by decide

/-- Words laid out from the tables of R184, R189 and R238. -/
theorem test_decode_vector_one_source_2 :
  decodeTableWord 48 0x0B4400810B16 = some (.vcmpLt 5 ⟨.v 1, true⟩ ⟨.v 2, false⟩ ⟨true, 2, true⟩) ∧
  decodeTableWord 48 0x0F4400810D16 = some (.vcmpLe 6 ⟨.v 1, true⟩ ⟨.v 2, false⟩ ⟨true, 2, true⟩) ∧
  decodeTableWord 48 0x01CC00C2831A = some (.vsel (.v 1) ⟨.v 2, true⟩ ⟨.v 3, true⟩ 6) ∧
  decodeTableWord 48 0xA3C40382831E = some (.vcvt 14 .sr (.v 1) ⟨.v 2, true⟩ ⟨true, 6, true⟩) ∧
  decodeTableWord 48 0x000403C28322 = some (.vqnt 15 .rne (.v 1) ⟨.v 2, true⟩) ∧
  decodeTableWord 48 0x010400090126 = some (.vredSum .rne 0 ⟨.v 9, true⟩ true 0) ∧
  decodeTableWord 48 0x252400090326 = some (.vredMax .rtz 1 ⟨.v 9, true⟩ true 1) ∧
  decodeTableWord 48 0x494400090526 = some (.vredMin .rdn 2 ⟨.v 9, true⟩ true 2) ∧
  decodeTableWord 48 0x6D6400090726 = some (.vredAnd .rup 3 ⟨.v 9, true⟩ true 3) ∧
  decodeTableWord 48 0x918400090926 = some (.vredOr .rna 4 ⟨.v 9, true⟩ true 4) ∧
  decodeTableWord 48 0xC0000009072A = some (.vreds .dyn 3 ⟨.v 9, false⟩ false 0) ∧
  decodeTableWord 48 0x218C08C9072E = some (.vdot .rtz 3 ⟨.v 9, true⟩ ⟨.pop 3, true⟩ true 4) := by decide

/-- Words laid out from the tables of R184, R189 and R238. -/
theorem test_decode_vector_one_source_3 :
  decodeTableWord 48 0x000401038532 = some (.vperm (.v 2) ⟨.v 3, true⟩ ⟨.v 4, false⟩ ⟨false, 0, false⟩) ∧
  decodeTableWord 48 0x032C0D438536 = some (.vslideUp (.v 2) ⟨.v 3, true⟩ ⟨5, true⟩ ⟨true, 1, true⟩) ∧
  decodeTableWord 48 0x072C0D438536 = some (.vslideDn (.v 2) ⟨.v 3, true⟩ ⟨5, true⟩ ⟨true, 1, true⟩) ∧
  decodeTableWord 48 0x00040D830B3A = some (.vext 5 ⟨.v 3, true⟩ ⟨6, false⟩) ∧
  decodeTableWord 48 0x04177D838B3A = some (.vins (.v 5) ⟨.v 3, true⟩ ⟨6, false⟩ ⟨7, true⟩) := by decide

/-- Words laid out from the tables of R184, R189 and R238. -/
theorem test_decode_masks_1 :
  decodeTableWord 32 0x05FF8B3D = some (.vbcast 5 ⟨.bc 15, true⟩ true 3) ∧
  decodeTableWord 32 0x0D808B3D = some (.viota 5 true 3) ∧
  decodeTableWord 48 0x03E001850342 = some (.mand 1 5 6 ⟨true, 7, true⟩) ∧
  decodeTableWord 48 0x07E001850542 = some (.mor 2 5 6 ⟨true, 7, true⟩) ∧
  decodeTableWord 48 0x0BE001850742 = some (.mxor 3 5 6 ⟨true, 7, true⟩) ∧
  decodeTableWord 48 0x0C0000050542 = some (.mnot 2 5 ⟨false, 0, false⟩) ∧
  decodeTableWord 48 0x114000051942 = some (.mpop 12 5 true 2) ∧
  decodeTableWord 48 0x140000051942 = some (.mfirst 12 5 false 0) ∧
  decodeTableWord 48 0x196400380542 = some (.mset 2 ⟨8, true⟩ ⟨true, 3, false⟩) ∧
  decodeTableWord 32 0x00518D45 = some (.vscget (.v 6) 17 true) ∧
  decodeTableWord 32 0x08118D45 = some (.vscset 6 17 false) ∧
  decodeTableWord 32 0x04C90149 = some (.vcompress .last ⟨.v 9, true⟩ true 1) := by decide

/-- Words laid out from the tables of R184, R189 and R238. -/
theorem test_decode_masks_2 :
  decodeTableWord 32 0x0CC98149 = some (.vexpand (.v 0) ⟨.v 9, true⟩ true 1) := by decide

/-- Words laid out from the tables of R184, R189 and R261. -/
theorem test_decode_vector_memory :
  decodeTableWord 64 0xFFFF07340173C563 = some (.vld 11 (.q 2) ⟨3, true⟩ 0xFFFF ⟨true, 2, true⟩ (some 3)) ∧
  decodeTableWord 64 0x00020801A0F39163 = some (.vlds 7 (.v 8) ⟨3, true⟩ 2 ⟨10, true⟩ ⟨false, 0, false⟩ none) ∧
  decodeTableWord 64 0x0002100001830163 = some (.vldff 12 .last ⟨3, false⟩ 2 ⟨false, 0, false⟩ none) ∧
  decodeTableWord 64 0x8000003A0CF30167 = some (.vst ⟨3, true⟩ 0x8000 ⟨.peek 3, true⟩ ⟨true, 5, true⟩) ∧
  decodeTableWord 64 0x0004081AB0F30167 = some (.vsts ⟨3, true⟩ 4 ⟨.v 7, false⟩ ⟨11, false⟩ ⟨true, 5, false⟩) ∧
  decodeTableWord 64 0x0004211A08F3936B = some (.vldx 0 (.v 9) ⟨3, true⟩ 4 ⟨.v 7, true⟩ ⟨true, 5, false⟩ (some 0)) ∧
  decodeTableWord 64 0x0004431A08F3936B = some (.vldx 1 (.v 9) ⟨3, true⟩ 4 ⟨.v 7, true⟩ ⟨true, 5, false⟩ (some 1)) ∧
  decodeTableWord 64 0x0004651A08F3936B = some (.vldx 2 (.v 9) ⟨3, true⟩ 4 ⟨.v 7, true⟩ ⟨true, 5, false⟩ (some 2)) ∧
  decodeTableWord 64 0x0004871A08F3936B = some (.vldx 3 (.v 9) ⟨3, true⟩ 4 ⟨.v 7, true⟩ ⟨true, 5, false⟩ (some 3)) ∧
  decodeTableWord 64 0x000408000D332B6B = some (.vstx ⟨3, true⟩ 4 ⟨.l1, true⟩ 21 ⟨false, 0, false⟩) ∧
  decodeTableWord 64 0x0000031C0BC0936F = some (.vldt (.v 9) 30 true true 6 (some 1)) ∧
  decodeTableWord 64 0x0000083C08802D6F = some (.vstt ⟨.v 4, true⟩ 22 ⟨true, 6, true⟩) := by decide

/-- Words laid out from the tables of R184, R189 and R281. -/
theorem test_decode_array_1 :
  decodeTableWord 48 0x000640000182 = some (.mlease ⟨9, true⟩) ∧
  decodeTableWord 48 0x080000000182 = some (.mfree) ∧
  decodeTableWord 48 0x00000FC50186 = some (.slclaim 5 63) ∧
  decodeTableWord 48 0x08000FBE0186 = some (.slfree 62 62) ∧
  decodeTableWord 64 0xFF80DA004C51018B = some (.slloadRow 13 40 ⟨1, true⟩ 0xFF80 ⟨2, false⟩ ⟨3, true⟩) ∧
  decodeTableWord 64 0x00080A410E41018B = some (.slloadCol 0 41 ⟨1, false⟩ 8 ⟨2, true⟩ ⟨3, false⟩) ∧
  decodeTableWord 64 0x00080A820011018B = some (.slloadScale 42 ⟨1, true⟩ 8) ∧
  decodeTableWord 48 0x06E57F81018E = some (.mop 3 1 62 12 13 ⟨5, true⟩) ∧
  decodeTableWord 48 0x0F782F81018E = some (.mops 2 1 62 15 14) ∧
  decodeTableWord 48 0x004810000192 = some (.aclaim false 1) ∧
  decodeTableWord 48 0x001020000192 = some (.aclaim true 2) ∧
  decodeTableWord 48 0x080030000192 = some (.afree 3) := by decide

/-- Words laid out from the tables of R184, R189 and R281. -/
theorem test_decode_array_2 :
  decodeTableWord 48 0x100010000192 = some (.mzero 1) ∧
  decodeTableWord 32 0x0574A795 = some (.mrd (.v 19) ⟨4, true⟩ true 2) ∧
  decodeTableWord 32 0x08343795 = some (.mwr ⟨4, false⟩ 27 false 0) ∧
  decodeTableWord 64 0x800000800E51019B = some (.mst 2 ⟨1, true⟩ 0x8000 ⟨2, true⟩ ⟨3, false⟩) ∧
  decodeTableWord 16 0x019C = some (.msync) := by decide

/-- Words laid out from the tables of R184, R189 and R293. -/
theorem test_decode_ferry_thread_task_1 :
  decodeTableWord 32 0x010801A1 = some (.ferry ⟨.x8, true⟩) ∧
  decodeTableWord 32 0x040C0FA1 = some (.ferrynb 7 ⟨.x12, false⟩) ∧
  decodeTableWord 64 0x00100000025107A7 = some (.lwinit 3 ⟨1, true⟩ 16 ⟨2, true⟩) ∧
  decodeTableWord 64 0x001000C1024107A7 = some (.lwwait .sy 3 ⟨1, false⟩ 16 ⟨2, true⟩) ∧
  decodeTableWord 64 0xFFF00002001107A7 = some (.lwread 3 ⟨1, true⟩ 0xFFF0) ∧
  decodeTableWord 64 0x00000080001107AB = some (.fjoin .pk 3 ⟨1, true⟩) ∧
  decodeTableWord 64 0x00400041001119AB = some (.fcpoll .di .x12 ⟨1, true⟩ 64) ∧
  decodeTableWord 64 0x000000004C4109C3 = some (.spawn 4 ⟨1, false⟩ ⟨2, false⟩ ⟨3, true⟩) ∧
  decodeTableWord 64 0x00000001000001C3 = some (.exit) ∧
  decodeTableWord 64 0x00000002000001C3 = some (.yield) ∧
  decodeTableWord 64 0x0020000000110BC7 = some (.join 5 ⟨1, true⟩ 32) ∧
  decodeTableWord 64 0x0020008100110BC7 = some (.leave .pk 5 ⟨1, true⟩ 32) := by decide

/-- Words laid out from the tables of R184, R189 and R293. -/
theorem test_decode_ferry_thread_task_2 :
  decodeTableWord 64 0x002000C200010BC7 = some (.gbar .sy 5 ⟨1, false⟩ 32) ∧
  decodeTableWord 64 0x00000040033401CB = some (.send false .di ⟨.x4, true⟩ ⟨9, true⟩) ∧
  decodeTableWord 64 0x000001C1032C0DCB = some (.sendnb true .sy 6 ⟨.x12, false⟩ ⟨9, true⟩) ∧
  decodeTableWord 32 0x000001CD = some (.hret) ∧
  decodeTableWord 32 0x050207CD = some (.hmask 3 ⟨2, true⟩) ∧
  decodeTableWord 32 0x080207CD = some (.hunmask 3 ⟨2, false⟩) ∧
  decodeTableWord 64 0x00400000001101D3 = some (.tspawn ⟨1, true⟩ 64) ∧
  decodeTableWord 64 0x00000001000011D3 = some (.grant .x8) ∧
  decodeTableWord 64 0x000003C2001403D3 = some (.watch true 7 1 ⟨.x4, true⟩) ∧
  decodeTableWord 64 0x00000003001203D3 = some (.unwatch 1 ⟨2, true⟩) ∧
  decodeTableWord 32 0x000003D5 = some (.getid .tid 1) ∧
  decodeTableWord 32 0x040005D5 = some (.getid .core 2) := by decide

/-- Words laid out from the tables of R184, R189 and R293. -/
theorem test_decode_ferry_thread_task_3 :
  decodeTableWord 32 0x080007D5 = some (.getid .clus 3) ∧
  decodeTableWord 32 0x0C0009D5 = some (.getid .pkg 4) ∧
  decodeTableWord 32 0x10000BD5 = some (.getid .quad 5) ∧
  decodeTableWord 32 0x14000DD5 = some (.getid .berth 6) ∧
  decodeTableWord 32 0x18000FD5 = some (.getid .ident 7) := by decide

/-- Words laid out from the tables of R184, R189 and R323, R333. -/
theorem test_decode_batching_and_ergs :
  decodeTableWord 48 0x000400350DDA = some (.cbopen 6 ⟨5, true⟩) ∧
  decodeTableWord 48 0x0404003401DA = some (.cbpost ⟨.x4, true⟩) ∧
  decodeTableWord 48 0x0804003905DA = some (.cbtake 2 ⟨9, true⟩) ∧
  decodeTableWord 48 0x0C00003997DA = some (.cbtakev 11 ⟨9, false⟩) ∧
  decodeTableWord 48 0x100C0E4501DA = some (.cbdone ⟨.v 5, true⟩ ⟨9, true⟩ false 0) ∧
  decodeTableWord 48 0x116C0E4501DA = some (.cbdone ⟨.v 5, true⟩ ⟨9, true⟩ true 3) ∧
  decodeTableWord 48 0x1404003901DA = some (.cbclose ⟨9, true⟩) ∧
  decodeTableWord 32 0x080007DD = some (.compose false true 3) ∧
  decodeTableWord 32 0x040007DD = some (.compose true false 3) ∧
  decodeTableWord 32 0x000025DD = some (.decomp 2) ∧
  decodeTableWord 32 0x00004BDD = some (.erginfo 5) := by decide
/-! ### States and answers for the witnesses -/

/-- A thread in berth 0 of core 0 whose address space maps the first 64 GiB onto themselves, OWNED. -/
def base : State := { State.reset.placeWord 0 with cur := ⟨0, 0⟩, chosen := none }

/-- The same with another leaf (R134). -/
def leafed (leaf : Nat) : State := base.placeBytes 0x4000 8 leaf

/-- An OWNED page of local HBM, a SYNC page there, a SYNC page of the core's scratchpad, an UNCACHED page of local HBM. -/
def owned : Nat := 0x1DF
def sync : Nat := 0xC00DF
def spm : Nat := sync + 2 ^ 55
def uncached : Nat := 0x801DF

/-- A state with the translation of an address cached. -/
def warm (leaf va : Nat) (k : Kind) : State := ((xlateM va k).go (leafed leaf)).2

/-- The translation that `warm` caches. -/
def xl (mode region pa va : Nat) : Xl := ⟨va, pa, mode, region, false, false, 0⟩

/-- Registers of the acting context. -/
def regs (s : State) (l : List (Nat × Word)) : State := s.updMe fun c => l.foldl (fun c e => c.setX e.1 e.2) c

/-- A source read with F = 1. -/
def f1 (r : Reg) : Src := ⟨r, true⟩

/-- Vector state of the acting context. -/
def withV (s : State) (v : VState) : State := s.updMe fun c => { c with vs := some v }

/-- The computation answers `a` and leaves `s`. -/
def answers {α : Type} [DecidableEq α] (r : Except Stop α × State) (a : α) (s : State) : Bool :=
  match r with
  | (.ok b, t) => decide (b = a) && decide (t = s)
  | _ => false

theorem answers_eq {α : Type} [DecidableEq α] {r : Except Stop α × State} {a : α} {s : State} (h : answers r a s = true) :
    r = (.ok a, s) := by
  obtain ⟨r, t⟩ := r
  cases r with
  | error e => simp [answers] at h
  | ok b =>
    simp [answers] at h
    rw [h.1, h.2]

/-- The computation answers something. -/
def oks {α : Type} (r : Except Stop α × State) : Bool :=
  match r with
  | (.ok _, _) => true
  | _ => false

theorem oks_eq {α : Type} {r : Except Stop α × State} (h : oks r = true) : ∃ a s', r = (.ok a, s') := by
  obtain ⟨r, t⟩ := r
  cases r with
  | error e => simp [oks] at h
  | ok b => exact ⟨b, t, rfl⟩

theorem pair_with {α β : Type} {p : α × β} {a : α} (q : β → Prop) (h : p.1 = a) (hq : q p.2) : ∃ b, p = (a, b) ∧ q b :=
  ⟨p.2, by rw [← h], hq⟩

theorem pair_of {α β : Type} {p : α × β} {a : α} (h : p.1 = a) : ∃ b, p = (a, b) := ⟨p.2, by rw [← h]⟩

/-- The outcome is a next state. -/
def nexts (o : Host.Outcome State Fault Refusal) : Bool :=
  match o with
  | .next _ => true
  | _ => false

theorem nexts_eq {o : Host.Outcome State Fault Refusal} (h : nexts o = true) : ∃ t, o = .next t := by
  cases o with
  | next t => exact ⟨t, rfl⟩
  | fault f => cases h
  | refused r => cases h

/-- The address is a head. -/
def headOk (s : State) (t : Nat) : Bool :=
  t % 2 == 0 && t % 64 / 2 != 0 &&
    match (fetchBytes (t / 64 * 64)).go s with
    | (.ok b, s') => decide (s'.cur = s.cur) && decide (s'.me = s.me) &&
      match lineOk b with
      | none => true
      | some h => decide (t % 64 / 2 ≤ h.n)
    | _ => false

theorem head_of {s : State} {t : Nat} (h : headOk s t = true) : ∃ s', Head s t s' := by
  simp only [headOk, Bool.and_eq_true, beq_iff_eq, bne_iff_ne, ne_eq] at h
  obtain ⟨⟨h1, h2⟩, h3⟩ := h
  split at h3
  · rename_i b s' hb
    simp only [Bool.and_eq_true, decide_eq_true_eq] at h3
    refine ⟨s', h1, h2, h3.1.1, h3.1.2, b, hb, ?_⟩
    intro k hk
    have := h3.2
    rw [hk] at this
    simpa using this
  · cases h3

/-- The address lies beyond the heads of its line. -/
def beyondOk (s : State) (t : Nat) : Bool :=
  t % 2 == 0 && t % 64 / 2 != 0 &&
    match (fetchBytes (t / 64 * 64)).go s with
    | (.ok b, _) =>
      match lineOk b with
      | none => false
      | some h => decide (h.n < t % 64 / 2)
    | _ => false

theorem noHead_of {s : State} {t : Nat} (h : beyondOk s t = true) : ∃ s', NoHead s t s' := by
  simp only [beyondOk, Bool.and_eq_true, beq_iff_eq, bne_iff_ne, ne_eq] at h
  obtain ⟨⟨h1, h2⟩, h3⟩ := h
  split at h3
  · rename_i b s' hb
    split at h3
    · cases h3
    · rename_i k hk
      exact ⟨s', .inr ⟨h1, h2, b, k, hb, hk, by simpa using h3⟩⟩
  · cases h3
/-! ### Witnesses: encoding, steps and integer instructions -/

/-- DecodeEncode, at the smallest and the largest operands. -/
theorem wit_DecodeEncode :
    encode (.add 0 ⟨0, false⟩ ⟨0, false⟩) = some 0x41 ∧ WellFormed (.add 0 ⟨0, false⟩ ⟨0, false⟩) = true ∧
    encode (.add 15 ⟨15, true⟩ ⟨15, true⟩) = some 0x03FF1E41 ∧ WellFormed (.add 15 ⟨15, true⟩ ⟨15, true⟩) = true := by decide

/-- A berth, or a handler slot, whose line holds one instruction and is entered. -/
def inLine (c : CtxId) (word : Nat) (mask : Nat) : State :=
  { (base.updCtx c fun x => { x with occ := .occupied, pc := placeAddr + 2, line := some ⟨placeAddr, oneLine word, 1, mask⟩ }) with
    chosen := some c }

/-- StepRunsDecoded: an instruction in a berth and in a handler slot with budget left, an illegal word, a null head. -/
theorem wit_StepRunsDecoded :
    (let s := inLine ⟨0, 0⟩ 0x01210641 (2 ^ 31 - 1)
     let l : Line := ⟨placeAddr, oneLine 0x01210641, 1, 2 ^ 31 - 1⟩
     s.chosen = some ⟨0, 0⟩ ∧ s.booted = true ∧ s.live ⟨0, 0⟩ = true ∧ (CtxId.mk 0 0).isHandler = false ∧ (s.ctxAt ⟨0, 0⟩).regErr = none ∧
     (s.ctxAt ⟨0, 0⟩).line = some l ∧ decode (l.word (s.ctxAt ⟨0, 0⟩).pc) = .instr (.add 3 ⟨1, true⟩ ⟨2, false⟩) ∧
     l.null (s.ctxAt ⟨0, 0⟩).pc = false) ∧
    (let s := inLine ⟨0, 9⟩ 0 (2 ^ 31 - 1)
     s.live ⟨0, 9⟩ = true ∧ (CtxId.mk 0 9).isHandler = true ∧ (s.ctxAt ⟨0, 9⟩).issued < (s.coreAt 0).budget ∧
     (s.ctxAt ⟨0, 9⟩).line = some ⟨placeAddr, oneLine 0, 1, 2 ^ 31 - 1⟩) ∧
    (let s := inLine ⟨0, 0⟩ 0x34 (2 ^ 31 - 1)
     let l : Line := ⟨placeAddr, oneLine 0x34, 1, 2 ^ 31 - 1⟩
     (s.ctxAt ⟨0, 0⟩).line = some l ∧ (∃ why, decode (l.word (s.ctxAt ⟨0, 0⟩).pc) = .illegal why)) ∧
    (let s := inLine ⟨0, 0⟩ 0 0
     let l : Line := ⟨placeAddr, oneLine 0, 1, 0⟩
     (s.ctxAt ⟨0, 0⟩).line = some l ∧ decode (l.word (s.ctxAt ⟨0, 0⟩).pc) = .instr .nop ∧ l.null (s.ctxAt ⟨0, 0⟩).pc = true) := by
  refine ⟨by decide +kernel, by decide +kernel, ⟨by decide +kernel, .reservedOp, by decide +kernel⟩, by decide +kernel⟩

/-- MemoryStaysCanonical: a state that keeps the form and steps. -/
theorem wit_MemoryStaysCanonical : ∃ t, (inLine ⟨0, 0⟩ 0 1).Inv ∧ (inLine ⟨0, 0⟩ 0 1).Steps t := by
  obtain ⟨t, h⟩ := nexts_eq (o := step (inLine ⟨0, 0⟩ 0 1)) (by decide +kernel)
  exact ⟨t, by unfold State.Inv; decide +kernel, h⟩

/-- AluResults, MulDivResults, BitAndImmediateResults, FloatResults, FloatSpecialCases: the operands are there, with the destination x0 and x15. -/
theorem wit_operands :
    base.OpsReady [srcX ⟨1, true⟩, srcX ⟨15, false⟩] [dstX 0] ∧ base.OpsReady [srcX ⟨0, true⟩] [dstX 15] ∧
    base.OpsReady [] [dstX 15] ∧ base.OpsReady [srcX ⟨1, true⟩, srcX ⟨2, true⟩, srcX ⟨3, true⟩] [dstX 15] := by
  unfold State.OpsReady
  decide +kernel

/-- MulDivResults: a divisor that is not zero, and each special case of R103. -/
theorem wit_MulDivResults : (1 : Word) ≠ 0 ∧ (0 : Word) = 0 ∧
    (BitVec.intMin 64 = BitVec.intMin 64 ∧ (BitVec.allOnes 64 : Word) = BitVec.allOnes 64) ∧ (BitVec.allOnes 64 : Word) ≠ 0 := by decide

/-- A state in which the scalar registers of the list have these states. -/
def marks (s : State) (l : List (Nat × RegSt)) : State := s.updMe fun c => l.foldl (fun c e => c.markX e.1 e.2) c

/-- RegistersAndOperands: an empty source read with F = 1, in either place; an empty destination; a failed source, in either place. -/
theorem wit_RegistersAndOperands :
    (let s := marks base [(1, .empty)]
     s.me.failedSrc [srcX ⟨1, true⟩, srcX ⟨2, true⟩] = none ∧ s.me.stX 1 = .empty ∧
     s.me.failedSrc [srcX ⟨2, true⟩, srcX ⟨1, true⟩] = none) ∧
    (let s := marks base [(15, .empty)]
     s.me.failedSrc [srcX ⟨1, true⟩, srcX ⟨2, true⟩] = none ∧ s.me.stX 15 = .empty) ∧
    (let s := marks base [(1, .failed Cause.poison 0x40 0)]
     s.me.stX 1 = .failed Cause.poison 0x40 0 ∧ s.me.stX 2 = .full) ∧ (15 : Reg) ≠ 0 := by decide +kernel

/-- ScalarFrame: a form that waits, one that traps, one that completes; a float that completes. -/
theorem wit_ScalarFrame :
    (scalarDst (.add 3 (f1 1) (f1 2)) = some 3 ∧ ∃ t, exec (.add 3 (f1 1) (f1 2)) base = .next t) ∧
    (scalarDst (.div 0 (f1 1) (f1 2)) = some 0 ∧ ∃ t, exec (.div 0 (f1 1) (f1 2)) (marks base [(1, .empty)]) = .next t) ∧
    (floatDst (.fcvt .f16 .f64 .sr 15 (f1 1)) = some 15 ∧
      ∃ t, exec (.fcvt .f16 .f64 .sr 15 (f1 1)) (marks base [(1, .failed Cause.poison 0 0)]) = .next t) :=
  ⟨⟨rfl, nexts_eq (by decide +kernel)⟩, ⟨rfl, nexts_eq (by decide +kernel)⟩, ⟨rfl, nexts_eq (by decide +kernel)⟩⟩

/-- FloatSpecialCases: a value that is not zero. -/
theorem wit_FloatSpecialCases : (1 : Nat) ≠ 0 := by decide

/-! ### Witnesses: control and system -/

/-- Transfers: a head; an odd address, a header and an address beyond the heads of its line; x15 ready to be linked and to be read; each condition true and false. -/
theorem wit_Transfers :
    (∃ s', Head base (placeAddr + 2) s') ∧ (∃ s', NoHead base (placeAddr + 3) s') ∧ (∃ s', NoHead base placeAddr s') ∧
    (∃ s', NoHead base (placeAddr + 4) s') ∧
    target base 1 = placeAddr + 2 ∧ target base 2 = placeAddr + 4 ∧ target base 0 = placeAddr ∧
    (let s := regs base [(15, 0x10002), (1, 0x10002), (2, 0x10003)]
     val s (f1 1) = 0x10002 ∧ val s (f1 2) = 0x10003 ∧ s.OpsReady [srcX (f1 1)] [.x 15 false] ∧ s.OpsReady [.x 15 true] [] ∧
     s.OpsReady [] [.x 15 false] ∧ headOk s (s.me.getX 15).toNat = true) ∧
    (let s := regs base [(1, 5), (2, 5), (3, 0xFFFFFFFFFFFFFFFF)]
     s.OpsReady [srcX (f1 1), srcX (f1 2)] [] ∧ val s (f1 1) = val s (f1 2) ∧ val s (f1 1) ≠ val s (f1 3) ∧
     (val s (f1 3)).toInt < (val s (f1 1)).toInt ∧ ¬ (val s (f1 1)).toInt < (val s (f1 2)).toInt ∧
     (val s (f1 1)).toNat < (val s (f1 3)).toNat ∧ ¬ (val s (f1 3)).toNat < (val s (f1 1)).toNat ∧ val s (f1 0) = 0) := by
  refine ⟨head_of (by decide +kernel), ⟨base, .inl ⟨by decide, rfl⟩⟩, ⟨base, .inl ⟨by decide, rfl⟩⟩, noHead_of (by decide +kernel),
    by decide +kernel, by decide +kernel, by decide +kernel, ?_, ?_⟩ <;> (unfold State.OpsReady; decide +kernel)

/-- TrapEntry: a thread, a thread at a trap entry, TRAP at a trap entry, a handler. -/
theorem wit_TrapEntry :
    ((CtxId.mk 0 0).isHandler = false ∧ (base.ctxAt ⟨0, 0⟩).entryFails Cause.priv = false ∧ (base.ctxAt ⟨0, 0⟩).ergBit = false) ∧
    (let s := base.updMe fun x => { x with entry := true }
     (s.ctxAt ⟨0, 0⟩).entryFails Cause.software = false ∧ (s.ctxAt ⟨0, 0⟩).entry = true ∧ Cause.priv ≠ Cause.software) ∧
    (CtxId.mk 0 8).isHandler = true := by decide +kernel

/-- A thread in trap context that returns to level `p`. -/
def inTrap (p : Nat) : State :=
  base.updMe fun x => { x with trapBit := true, pl := 1, tstatus := wd p, trappc := wd (placeAddr + 2) }

/-- TrapReturn: no trap context; a return to MON from SUP; a return to USR and, from MON, to MON. -/
theorem wit_TrapReturn :
    base.me.trapBit = false ∧ ((inTrap 3).me.tstatus.toNat % 4 = 3 ∧ (inTrap 3).me.pl ≠ 3) ∧
    ((inTrap 0).me.trapBit = true ∧ (inTrap 0).me.tstatus.toNat % 4 ≠ 3 ∧ ∃ s', Head (inTrap 0) (inTrap 0).me.trappc.toNat s') ∧
    (let s := (inTrap 3).updMe fun x => { x with pl := 3 }
     s.me.trapBit = true ∧ s.me.pl = 3 ∧ ∃ s', Head s s.me.trappc.toNat s') := by
  refine ⟨by decide +kernel, by decide +kernel, ⟨by decide +kernel, by decide +kernel, head_of (by decide +kernel)⟩,
    by decide +kernel, by decide +kernel, head_of (by decide +kernel)⟩

/-- No array command is in the stream. -/
theorem numericIdle_of {s : State} (h : s.me.stream = []) : NumericIdle s := by
  intro t i0 n b st d mode satn seed pages k f hm
  rw [h] at hm
  cases hm

/-- A thread at SUP. -/
def sup : State := base.updMe fun x => { x with pl := 1 }

/-- SystemRegisterAccess: an unassigned number; a read and a write below the level; a read; a write of a register that nothing writes; a write that moves no bank, and one that moves some. -/
theorem wit_SystemRegisterAccess :
    sysAccess 0x00F = none ∧ base.OpsReady [] [dstX 15] ∧ base.OpsReady [srcX (f1 1)] [] ∧
    (sysAccess 0x001 = some (1, some 1) ∧ base.me.pl < 1) ∧ (sysAccess 0x020 = some (0, some 1) ∧ NumericIdle base) ∧
    sysAccess 0x070 = some (0, none) ∧
    (1 ≤ sup.me.pl ∧ NumericIdle sup ∧ (sup.writeSys 0x001 0).1 = 0 ∧ sysAccess 0x021 = some (1, some 1) ∧
      (sup.writeSys 0x021 28).1 ≠ 0) := by
  refine ⟨by decide, by unfold State.OpsReady; decide +kernel, by unfold State.OpsReady; decide +kernel, by decide +kernel,
    ⟨by decide, numericIdle_of (by decide +kernel)⟩, by decide, by decide +kernel, numericIdle_of (by decide +kernel),
    by decide +kernel, by decide, by decide +kernel⟩

/-- SystemRegisterFields: every register that a berth reads back, at the largest value; a thread at USR. -/
theorem wit_SystemRegisterFields :
    (∀ n ∈ [0x001, 0x002, 0x003, 0x004, 0x005, 0x006, 0x010, 0x011, 0x030, 0x031, 0x032, 0x033, 0x040, 0x047, 0x050, 0x051, 0x060, 0x073,
      0x080, 0x081, 0x082], (stored n (2 ^ 64 - 1)).isSome = true) ∧ base.cur.isHandler = false ∧
    (base.me.pl = 0 ∧ base.me.ergBit = false ∧ base.me.entry = false ∧ sysAccess 0x020 = some (0, some 1)) ∧
    ∃ t, exec (.sysw 0x020 (f1 1)) base = .next t :=
  ⟨by decide, by decide +kernel, by decide +kernel, nexts_eq (by decide +kernel)⟩

/-- A thread that still waits for the acknowledgement of a store, and one with an error due. -/
def storing : State := { base with pend := [⟨0, 0, base.me.uid, .none, [], VReg.zero, 0, none, .peer 1, (64, false), [], 0, 0⟩] }
def reporting : State := base.updMe fun x => { x with reports := [⟨Cause.poison, 0x40⟩] }

/-- An L1 with a clean word, a dirty one and a registered one of region 1. -/
def cached : State := ((base.setL1 0 8 ⟨1, 1, false, false, none, false, 0, 0, none⟩).setL1 0 9 ⟨1, 1, true, false, none, false, 0, 0, none⟩).setL1 0 10
  ⟨1, 1, false, true, none, false, 0, 0, none⟩

/-- WaitsAndFences: HALT with and without the wake bit, at USR, in a handler; everything performed, and something not; an error due; words of each kind in an L1. -/
theorem wit_WaitsAndFences :
    (let s := sup.updMe fun x => { x with wake := true }
     s.me.pl ≠ 0 ∧ s.cur.isHandler = false ∧ s.me.wake = true) ∧
    (sup.me.pl ≠ 0 ∧ sup.cur.isHandler = false ∧ sup.me.wake = false) ∧ base.me.pl = 0 ∧
    (let s := { sup.updCtx ⟨0, 8⟩ (fun x => { x with pl := 1 }) with cur := ⟨0, 8⟩ }
     s.me.pl ≠ 0 ∧ s.cur.isHandler = true) ∧
    (base.unperformed base.me.uid = false ∧ base.MayRelease 0 1023 ∧ (base.release (base.me.l1s base.cur.core) 0 1023).Quiet ∧
      (base.release (base.me.l1s base.cur.core) 3 1023).Quiet ∧ base.WayFree (base.writeBackHomes 1023) ∧ (base.writeBackMine 1023).Quiet ∧
      base.Quiet) ∧
    (cached.MayRelease 3 1023 ∧ cached.releaseHomes (cached.me.l1s cached.cur.core) 1023 ≠ []) ∧
    storing.unperformed storing.me.uid = true ∧
    (reporting.unperformed reporting.me.uid = false ∧
      firstReport reporting.me.reports = some ⟨Cause.poison, 0x40⟩) ∧
    (covers 1 1 = true ∧ covers 1023 1 = true ∧ covers 2 1 = false ∧ (cached.coreAt 0).l1.length = 3 ∧
      (∀ e ∈ (cached.coreAt 0).l1, e.2.erg = none)) := by
  unfold State.Quiet State.MayRelease State.WayFree
  decide +kernel
/-! ### Witnesses: memory, atomics, locks -/

/-- MemoryLaws, at the edges of a stored range. -/
theorem wit_MemoryLaws : Memory.wf [] = true ∧ Memory.wf (writeByte [] 7 1) = true ∧ 0 < 8 ∧ 7 < 8 ∧ (6 < 7 ∨ 7 + 8 ≤ 6) ∧
    (15 < 7 ∨ 7 + 8 ≤ 15) ∧ Memory.wf (writeBytes [] 7 0x100 2) = true := by decide

/-- A thread whose x1 holds an address and x2 a value, with the translation cached. -/
def acc (leaf va : Nat) (k : Kind) : State := regs (warm leaf va k) [(1, wd va), (2, 0x1122334455667788)]

/-- Loads: an aligned load on each kind of page; the last bytes of a line. -/
theorem wit_Loads :
    (let s := acc uncached 0x2003F .load
     s.OpsReady [srcX (f1 1)] [.x 15 false] ∧ Access s (addr s (f1 1) (0 : BitVec 24)) 1 .load (plainCheck true 1) [⟨xl 2 1 0x2003F 0x2003F, 0, 1⟩] ∧
     Open s [⟨xl 2 1 0x2003F 0x2003F, 0, 1⟩] false ∧ paClass 0x2003F ≠ 2 ∧
     (∃ v s', (readPieces [⟨xl 2 1 0x2003F 0x2003F, 0, 1⟩]).go s = (.ok v, s')) ∧
     s.Translates 0x2003F .load (xl 2 1 0x2003F 0x2003F) ∧ (plainCheck true 1 (xl 2 1 0x2003F 0x2003F) 1).go s = (.ok (), s) ∧
     (∀ w ∈ wordsOf 0x2003F 1, s.holder w = none)) ∧
    (let s := acc owned 0x20038 .load
     Access s (addr s (f1 1) (0 : BitVec 24)) 8 .load (plainCheck true 8) [⟨xl 0 1 0x20038 0x20038, 0, 8⟩] ∧
     (∃ v s', (readPieces [⟨xl 0 1 0x20038 0x20038, 0, 8⟩]).go s = (.ok v, s'))) := by
  refine ⟨⟨?_, answers_eq ?_, ?_, ?_, oks_eq ?_, answers_eq ?_, answers_eq ?_, ?_⟩, answers_eq ?_, oks_eq ?_⟩
  all_goals try unfold State.OpsReady
  all_goals try unfold Open
  all_goals decide +kernel

/-- MisalignTraps: a misaligned address on a SYNC page and elsewhere, at the last byte before an aligned one. -/
theorem wit_MisalignTraps :
    (let s := acc sync 0x20007 .load
     s.OpsReady [srcX (f1 1)] [.x 15 false] ∧ s.OpsReady [srcX (f1 1), srcX (f1 2)] [] ∧
     s.OpsReady [srcX (f1 1), srcX (f1 2)] [.x 15 false] ∧ s.me.token = none ∧
     addr s (f1 1) (0 : BitVec 24) % (loadSize .i64).1 ≠ 0 ∧ addr s (f1 1) (0 : BitVec 24) % (loadSize .n16).1 ≠ 0 ∧
     s.Translates (addr s (f1 1) (0 : BitVec 24)) .load (xl 3 0 0x20007 0x20007) ∧ paClass 0x20007 = 0 ∧
     addr s (f1 1) (0 : BitVec 24) % storeSize .i16 ≠ 0 ∧ addr s (f1 1) (0 : BitVec 24) % 8 ≠ 0 ∧
     addr s (f1 1) (0 : BitVec 16) % amoBytes false ≠ 0 ∧ addr s (f1 1) (0 : BitVec 16) % amoBytes true ≠ 0) := by
  refine ⟨?_, ?_, ?_, ?_, ?_, ?_, answers_eq ?_, ?_, ?_, ?_, ?_, ?_⟩
  all_goals try unfold State.OpsReady
  all_goals decide +kernel

/-- StoresComplete: a plain store; a releasing store and a watermark store on a SYNC page; a scrub; an LDA before and after its answer. -/
theorem wit_StoresComplete :
    (let s := acc owned 0x20000 .store
     let ps : List Piece := [⟨xl 0 1 0x20000 0x20000, 0, 8⟩]
     s.OpsReady [srcX (f1 1), srcX (f1 2)] [] ∧ Access s (addr s (f1 1) (0 : BitVec 24)) 8 .store (plainCheck true 8) ps ∧
     Open s ps true ∧ (∃ v s', (writePieces ps 5).go s = (.ok v, s')) ∧
     Access s (addr s (f1 1) (0 : BitVec 24)) 8 .store scrubCheck ps ∧ paClass 0x20000 ≠ 2) ∧
    (let s := acc sync 0x20000 .store
     let ps : List Piece := [⟨xl 3 0 0x20000 0x20000, 0, 8⟩]
     addr s (f1 1) (0 : BitVec 24) % 8 = 0 ∧ Access s (addr s (f1 1) (0 : BitVec 24)) 8 .store syncCheck ps ∧ Open s ps true ∧
     s.MayRelease 3 1023 ∧ (releases s .sy).Quiet ∧
     (∃ v s', (writePieces ps 5).go (releases s .sy) = (.ok v, s'))) ∧
    (let s := acc sync 0x20000 .load
     let ps : List Piece := [⟨xl 3 0 0x20000 0x20000, 0, 8⟩]
     s.me.token = none ∧ Access s (addr s (f1 1) (0 : BitVec 24)) 8 .load syncCheck ps ∧ Open s ps false ∧
     (readPiece (xl 3 0 0x20000 0x20000) 8 false).go s = (.ok (0, none), s)) ∧
    (base.updMe fun x => { x with token := some [] }).me.token = some [] := by
  refine ⟨⟨?_, answers_eq ?_, ?_, oks_eq ?_, answers_eq ?_, ?_⟩, ⟨?_, answers_eq ?_, ?_, ?_, ?_, oks_eq ?_⟩, ⟨?_, answers_eq ?_, ?_, answers_eq ?_⟩, ?_⟩
  all_goals try unfold State.OpsReady
  all_goals try unfold Open
  all_goals try unfold State.Quiet
  all_goals try unfold State.MayRelease State.WayFree
  all_goals decide +kernel

/-- An L1 that holds the word of 0x20000. -/
def held : State := (acc owned 0x20000 .store).setL1 0 (0x20000 / 8) ⟨7, 1, false, false, none, false, 0, 0, none⟩

/-- StoreFrame: a store to an UNCACHED page, and one to an OWNED page whose word the L1 holds. -/
theorem wit_StoreFrame :
    (let s := acc uncached 0x2003F .store
     s.OpsReady [srcX (f1 1), srcX (f1 2)] [] ∧ addr s (f1 1) (0 : BitVec 24) % storeSize .i8 = 0 ∧
     s.Translates (addr s (f1 1) (0 : BitVec 24)) .store (xl 2 1 0x2003F 0x2003F) ∧ paClass 0x2003F = 0 ∧
     s.heldBack s.cur.core 0x2003F 1 = false ∧ Alone s ∧ AtHome s s.cur.core (0x2003F / 8) ∧
     ∃ t, exec (.st .i8 (f1 1) 0 (f1 2)) s = .next t) ∧
    (let s := held
     s.OpsReady [srcX (f1 1), srcX (f1 2)] [] ∧ addr s (f1 1) (0 : BitVec 24) % storeSize .i32 = 0 ∧
     s.Translates (addr s (f1 1) (0 : BitVec 24)) .store (xl 0 1 0x20000 0x20000) ∧ s.heldBack s.cur.core 0x20000 4 = false ∧ Alone s ∧
     s.l1 s.cur.core (0x20000 / 8) = some ⟨7, 1, false, false, none, false, 0, 0, none⟩ ∧
     (∀ k, k < 8 → ∀ e', s.l1 s.cur.core (8 * (0x20000 / 8 / 8) + k) = some e' → e'.erg = none) ∧
     ∃ t, exec (.st .i32 (f1 1) 0 (f1 2)) s = .next t) := by
  have h : ∀ k, k < 8 → (held.l1 held.cur.core (8 * (0x20000 / 8 / 8) + k)).all (fun e => e.erg == none) = true := by decide +kernel
  refine ⟨⟨?_, ?_, answers_eq ?_, ?_, ?_, ?_, ?_, nexts_eq ?_⟩, ?_, ?_, answers_eq ?_, ?_, ?_, ?_, fun k hk e' he => ?_, nexts_eq ?_⟩
  case refine_15 =>
    have := h k hk
    rw [he] at this
    simpa using this
  all_goals try unfold State.OpsReady
  all_goals try unfold Alone
  all_goals try unfold AtHome
  all_goals decide +kernel

/-- Atomics: an atomic at home with each ordering; one whose answer has come; a word of the scratchpad and one of a line that its home holds. -/
theorem wit_Atomics :
    (let s := acc uncached 0x20000 .atomic
     let p : Piece := ⟨xl 2 1 0x20000 0x20000, 0, 8⟩
     s.me.token = none ∧ s.OpsReady [srcX (f1 1), srcX (f1 2)] [.x 15 false] ∧
     s.OpsReady [srcX (f1 1), srcX (f1 2), srcX (f1 3)] [.x 15 false] ∧ addr s (f1 1) (0 : BitVec 16) % amoBytes true = 0 ∧
     Access s (addr s (f1 1) (0 : BitVec 16)) (amoBytes true) .atomic amoCheck [p] ∧ Open s [p] true ∧
     s.MayRelease 3 1023 ∧ (ordReleases s (.ar .sy)).Quiet ∧ ordRel (.ar .sy) ≠ none ∧
     (∃ v t, (amoPerform .add true .rlx 15 p.x 1 0).go s = (.ok v, t)) ∧
     (∃ v t, (amoPerform .cas true (.rel .di) 15 p.x 1 0).go (ordReleases s (.rel .di)) = (.ok v, t))) ∧
    (base.updMe fun x => { x with token := some [] }).me.token = some [] ∧
    (let s := acc (spm + 0x80000) 0x20000 .atomic
     Alone s ∧ AtHome s s.cur.core ((2 ^ 49 + 0x20000) / 8) ∧ paClass (2 ^ 49 + 0x20000) = 1) ∧
    (let s := { acc uncached 0x20000 .atomic with homeLines := [(0x20000 / 64, true)] }
     Alone s ∧ AtHome s s.cur.core (0x20000 / 8) ∧ paClass 0x20000 = 0 ∧ s.homeHolds 0x20000 = true) ∧ (15 : Reg) ≠ 0 := by
  refine ⟨⟨?_, ?_, ?_, ?_, answers_eq ?_, ?_, ?_, ?_, ?_, oks_eq ?_, oks_eq ?_⟩, ?_, ⟨?_, ?_, ?_⟩, ⟨?_, ?_, ?_, ?_⟩, ?_⟩
  all_goals try unfold State.OpsReady
  all_goals try unfold Open
  all_goals try unfold State.Quiet
  all_goals try unfold State.MayRelease State.WayFree
  all_goals try unfold Alone
  all_goals try unfold AtHome
  all_goals decide +kernel

/-- The word of a lock or group is written into memory. -/
def stored8 (s : State) (pa v : Nat) : State := { s with mem := writeBytes s.mem pa v 16 }

/-- A lock word that is free, and one that is held. -/
def lockFree : State := acc sync 0x20000 .atomic
def lockHeld : State := stored8 lockFree 0x20000 (lockWord 9 9)

theorem lockFree_word : SyncWord lockFree (addr lockFree (f1 1) (0 : BitVec 24)) 16 (xl 3 0 0x20000 0x20000) :=
  ⟨by decide +kernel, answers_eq (by decide +kernel), by decide +kernel, by decide +kernel, by decide +kernel, by decide +kernel,
    fun _ => by decide +kernel⟩

/-- LockInstructions: the word's checks, a free and a held lock, an answer that has come. -/
theorem wit_LockInstructions :
    SyncWord lockFree (addr lockFree (f1 1) (0 : BitVec 24)) 16 (xl 3 0 0x20000 0x20000) ∧
    lockFree.OpsReady [srcX (f1 1)] [.x 15 false] ∧ paClass 0x20000 ≠ 2 ∧ lockFree.me.token = none ∧ lockFree.cur.isHandler = false ∧
    bitsAt (lockFree.homeBytes 0x20000 8) 50 13 = 0 ∧ bitsAt (lockHeld.homeBytes 0x20000 8) 50 13 = 0 ∧
    (∃ v s', lockFree.lockAcquire 0x20000 (lockFree.waiterMe false) = (some v, s')) ∧
    (∃ s', lockHeld.lockAcquire 0x20000 (lockHeld.waiterMe false) = (none, s')) ∧
    (∃ v s', lockFree.lockAcquire 0x20000 (lockFree.waiterMe true) = (some v, s')) ∧
    (∃ s', lockHeld.lockAcquire 0x20000 (lockHeld.waiterMe true) = (none, s')) ∧
    (∃ s', lockFree.lockTry 0x20000 lockFree.identMe = (0, s')) ∧ (∃ s', lockHeld.lockTry 0x20000 lockHeld.identMe = (1, s')) ∧
    (lockFree.me.asks = [] ∧ lockFree.MayRelease 3 1023 ∧ (releases lockFree .sy).Quiet) ∧
    (base.updMe fun x => { x with token := some [5] }).me.token = some (5 :: []) := by
  have h1 : (lockFree.lockAcquire 0x20000 (lockFree.waiterMe false)).1.isSome = true := by decide +kernel
  have h2 : (lockHeld.lockAcquire 0x20000 (lockHeld.waiterMe false)).1 = none := by decide +kernel
  have h3 : (lockFree.lockAcquire 0x20000 (lockFree.waiterMe true)).1.isSome = true := by decide +kernel
  have h4 : (lockHeld.lockAcquire 0x20000 (lockHeld.waiterMe true)).1 = none := by decide +kernel
  have h5 : (lockFree.lockTry 0x20000 lockFree.identMe).1 = 0 := by decide +kernel
  have h6 : (lockHeld.lockTry 0x20000 lockHeld.identMe).1 = 1 := by decide +kernel
  obtain ⟨v, hv⟩ := Option.isSome_iff_exists.1 h1
  obtain ⟨w, hw⟩ := Option.isSome_iff_exists.1 h3
  refine ⟨lockFree_word, ?_, ?_, ?_, ?_, ?_, ?_, ⟨v, pair_of hv⟩, pair_of h2, ⟨w, pair_of hw⟩, pair_of h4, pair_of h5, pair_of h6, ?_, ?_⟩
  all_goals try unfold State.OpsReady
  all_goals try unfold State.Quiet
  all_goals try unfold State.MayRelease State.WayFree
  all_goals decide +kernel

/-- A group record in the scratchpad of core 0: members, arrived, phase. -/
def group (m a p : Nat) : State := stored8 base (2 ^ 49 + 0x20000) (m + a * 2 ^ 32 + p * 2 ^ 64)

/-- LocksAndGroups: a lock that is held, free, another's, with and without waiters; groups between phases, in one, before its last arrival, at it, empty, and of two members. -/
theorem wit_LocksAndGroups :
    (2 ^ 25 - 1 < 2 ^ 25 ∧ 0 < 2 ^ 25) ∧
    ((lockOf (lockHeld.homeBytes 0x20000 8)).held = true ∧ (lockOf (lockFree.homeBytes 0x20000 8)).held = false ∧
      (lockOf (lockHeld.homeBytes 0x20000 8)).owner ≠ 8 ∧ lockHeld.lockQueue 0x20000 = [] ∧
      (lockHeld.setLockQueue 0x20000 [lockHeld.waiterMe false]).lockQueue 0x20000 = [lockHeld.waiterMe false]) ∧
    (let pa := 2 ^ 49 + 0x20000
     paClass pa = 1 ∧ behindWindow pa = false ∧ pa % 16 = 0 ∧ base.poisonIn pa 16 = none ∧ base.holder (pa / 8) = none ∧
     base.holder (pa / 8 + 1) = none ∧
     (((group 0 0 0).group pa).arrived = 0 ∧ ((group 0 0 0).group pa).members + 1 < 2 ^ 32 ∧ ((group 0 0 0).group pa).members = 0) ∧
     ((group 2 1 0).group pa).arrived ≠ 0 ∧ ((group 3 1 65535).group pa).arrived + 1 < ((group 3 1 65535).group pa).members ∧
     ((group 2 1 65535).group pa).members ≤ ((group 2 1 65535).group pa).arrived + 1 ∧ 1 < ((group 3 1 65535).group pa).members ∧
     ((group 3 1 65535).group pa).phase = 65535) := by
  decide +kernel
/-! ### Witnesses: vectors -/

/-- Vector state with registers of many tags: v1, v2 I8; v3, v4 F32; v5, v6 N8; v7 I16; v8 scaled F16; v9 N64; v10, v11 BF16; q0 with one entry; m1. -/
def vecs : VState :=
  { VState.init 4 8 with
    v := [(1, ⟨0, false, 0x0807060504030201, []⟩), (2, ⟨0, false, 0x01, []⟩), (3, ⟨9, false, 0x3F800000, []⟩), (4, ⟨9, false, 0x40000000, []⟩),
      (5, ⟨4, false, 3, []⟩), (6, ⟨4, false, 4, []⟩), (7, ⟨1, false, 5, []⟩), (8, ⟨10, true, 0x3C00, []⟩), (9, ⟨7, false, 0x20000, []⟩),
      (10, ⟨11, false, 0x3F80, []⟩), (11, ⟨11, false, 0x3F80, []⟩)],
    q := [(0, [⟨0, ⟨0, false, 7, []⟩, .full⟩])], m := [(1, 0xAA)] }

/-- A thread with that state. -/
def vbase : State := withV (regs base [(1, 3), (2, 4)]) vecs

/-- A register source, a popping one, a broadcast. -/
def vr (n : BitVec 5) : VSrc := ⟨.v n, true⟩
def vpop : VSrc := ⟨.pop 0, true⟩
def vbc (r : Reg) : VSrc := ⟨.bc r, true⟩

/-- A queue source has an entry. -/
def entryOk (v : VState) (a : VSrc) : Bool :=
  match a.op with
  | .pop n | .peek n => !(v.queue n.toNat).isEmpty
  | _ => true

theorem hasEntry_of {v : VState} {a : VSrc} (h : entryOk v a = true) : hasEntry v a := by
  unfold entryOk at h
  unfold hasEntry
  split <;> simp_all

theorem vopen_of {s : State} {v : VState} {srcs : List VSrc} {more dsts : List Opd}
    (h : (s.me.failedSrc (srcs.map vopd ++ more) = none ∧ s.me.waitsSrc (srcs.map vopd ++ more) = false ∧ s.me.waitsDst dsts = false ∧
        ((srcs.map vopd ++ more).any Opd.isLast = true → s.lastDue s.me.uid = false)) ∧
      (isSvc s.cur.core = false ∧ (s.me.ergBit && !s.me.trapBit) = false ∧ s.me.vs = some v) ∧ srcs.all (entryOk v) = true) :
    VOpen s srcs more dsts v :=
  ⟨h.1, h.2.1, fun a ha => hasEntry_of (List.all_eq_true.1 h.2.2 a ha)⟩

/-- The tags of two sources. -/
def tagsB (v : VState) (x y : VArg) (d : VDst) (t : Tag) : Bool :=
  match x.tag, y.tag with
  | some p, some q => p == t && q == t
  | some p, none => p == t
  | none, some q => q == t
  | none, none => t == ⟨(dstTag v d).ty, false⟩

theorem tagsAre_of {v : VState} {x y : VArg} {d : VDst} {t : Tag} (h : tagsB v x y d t = true) : TagsAre v x y d t := by
  unfold tagsB at h
  unfold TagsAre
  split <;> simp_all

theorem tagsVec_of {v : VState} {x y : VArg} {t : Tag} (h : tagsB v x y .last t = true) (hx : x.tag.isSome = true) : TagsVec x y t := by
  unfold tagsB at h
  unfold TagsVec
  split <;> simp_all

theorem tagIs_of {v : VState} {x : VArg} {d : VDst} {t : Tag} (h : x.tag = some t) : TagIs v x d t := by
  unfold TagIs
  rw [h]

/-- VectorConfiguration: no bank to move, some to move, rows enough; VL that fits a new width, and one that does not; a thread without vector state. -/
theorem wit_VectorConfiguration :
    (base.OpsReady [srcX (f1 1)] [.x 15 false] ∧ base.OpsReady [] [.v 31 false] ∧ isSvc base.cur.core = false ∧
      (base.me.ergBit && !base.me.trapBit) = false ∧ base.cur.isHandler = false ∧ base.vectorBusy base.cur = false ∧
      vbase.vectorBusy vbase.cur = false) ∧
    (base.occupy 32 9 8).2.1 = 0 ∧
    ((base.updCtx ⟨0, 1⟩ fun x => { x with vs := some (VState.init 16 0) }).occupy 32 9 8).2.1 ≠ 0 ∧
    (32 ∈ [1, 2, 4, 8, 16, 32] ∧ 32 * 32 ≤ 64 * (base.coreAt 0).banks - base.grantedRows 0 ∧
      (∀ b, b < 8 → b ≠ 0 → (base.ctxAt ⟨0, b⟩).short = false) ∧ base.me.vs = none) ∧
    ((base.occupy 4 0 8).2.1 = 0 ∧ ∃ v, (base.occupy 4 0 8).2.2.me.vs = some v ∧ v.vl = 0) ∧
    (vbase.me.vs = some vecs ∧ Fits vbase vecs [tyWidth 12] ∧ vlmax 4 (vbase.coreAt 0).vlanes 8 = 1024 ∧
      vlmax 4 (vbase.coreAt 0).vlanes 64 < 129) := by
  have h : ∃ v, (base.occupy 4 0 8).2.2.me.vs = some v ∧ v.vl = 0 := by
    have h : (base.occupy 4 0 8).2.2.me.vs.any (fun v => v.vl == 0) = true := by decide +kernel
    obtain ⟨v, h1, h2⟩ := (Option.any_eq_true _ _).1 h
    exact ⟨v, h1, by simpa using h2⟩
  refine ⟨?_, ?_, ?_, ?_, ⟨?_, h⟩, ?_⟩
  all_goals try unfold State.OpsReady
  all_goals try unfold Fits
  all_goals decide +kernel

/-- VectorElements: a width, a mask register that is not m0. -/
theorem wit_VectorElements : 0 < 4 ∧ 7 ≠ 0 := by decide

/-- VectorArithmetic: two vectors, a vector and a broadcast, two broadcasts and a queue, of integers and of floats, with VL at the most that the grant holds. -/
theorem wit_VectorArithmetic :
    (VOpen vbase [vr 1, vr 2] [] (vdst (.v 31)) vecs ∧ TagsAre vecs (arg vbase vecs (vr 1)) (arg vbase vecs (vr 2)) (.v 31) ⟨0, false⟩ ∧
      Fits vbase vecs [8] ∧ isNum 0 = true ∧ isInt 0 = true) ∧
    (VOpen vbase [vpop, vbc 1] [] (vdst .last) vecs ∧ TagsAre vecs (arg vbase vecs vpop) (arg vbase vecs (vbc 1)) .last ⟨0, false⟩) ∧
    (VOpen vbase [vbc 1, vr 3] [] (vdst (.v 0)) vecs ∧ TagsAre vecs (arg vbase vecs (vbc 1)) (arg vbase vecs (vr 3)) (.v 0) ⟨9, false⟩ ∧
      Fits vbase vecs [32]) ∧
    (VOpen vbase [vbc 1, vbc 2] [] (vdst (.v 4)) vecs ∧ TagsAre vecs (arg vbase vecs (vbc 1)) (arg vbase vecs (vbc 2)) (.v 4) ⟨9, false⟩) ∧
    (VOpen vbase [vr 3] [] (vdst (.v 3)) vecs ∧ TagIs vecs (arg vbase vecs (vr 3)) (.v 3) ⟨9, false⟩ ∧ isFlt 9 = true ∧ isNum 9 = true) ∧
    (VOpen vbase [vr 1] [] (vdst (.v 1)) vecs ∧ TagIs vecs (arg vbase vecs (vr 1)) (.v 1) ⟨0, false⟩) ∧
    (let v := { vecs with vl := vlmax 4 32 8 }
     Fits (withV base v) v [8] ∧ ¬ Fits (withV base v) { v with vl := v.vl + 1 } [8]) := by
  refine ⟨⟨vopen_of ?_, tagsAre_of ?_, ?_, ?_, ?_⟩, ⟨vopen_of ?_, tagsAre_of ?_⟩, ⟨vopen_of ?_, tagsAre_of ?_, ?_⟩, ⟨vopen_of ?_, tagsAre_of ?_⟩,
    ⟨vopen_of ?_, tagIs_of ?_, ?_, ?_⟩, ⟨vopen_of ?_, tagIs_of ?_⟩, ?_⟩
  all_goals try unfold Fits
  all_goals decide +kernel

/-- VectorCompareAndMultiplyAdd: a comparison; a multiply-add of one type, and a widening one; a selection. -/
theorem wit_VectorCompareAndMultiplyAdd :
    (VOpen vbase [vr 1, vr 2] [] [] vecs ∧ TagsVec (arg vbase vecs (vr 1)) (arg vbase vecs (vr 2)) ⟨0, false⟩ ∧ Fits vbase vecs [8] ∧
      isNum 0 = true) ∧
    (VOpen vbase [vr 3, vr 4, vr 3] [] (vdst (.v 3)) vecs ∧
      (maddTags vecs (.v 3) (vr 3) (vr 4) (vr 3) (arg vbase vecs (vr 3)) (arg vbase vecs (vr 4)) (arg vbase vecs (vr 3))).go vbase =
        (.ok (⟨9, false⟩, ⟨9, false⟩), vbase)) ∧
    (VOpen vbase [vr 10, vr 11, vr 3] [] (vdst (.v 3)) vecs ∧
      (maddTags vecs (.v 3) (vr 10) (vr 11) (vr 3) (arg vbase vecs (vr 10)) (arg vbase vecs (vr 11)) (arg vbase vecs (vr 3))).go vbase =
        (.ok (⟨11, false⟩, ⟨9, false⟩), vbase)) ∧
    ((arg vbase vecs (vr 10)).tag = some ⟨11, false⟩ ∧ (arg vbase vecs (vr 11)).tag = some ⟨11, false⟩ ∧
      (arg vbase vecs (vr 3)).tag = some ⟨9, false⟩ ∧ Fits vbase vecs [16, 32] ∧ widens 11 9 = true) ∧
    (VOpen vbase [vr 1, vr 2] [] (vdst .last) vecs ∧ TagsAre vecs (arg vbase vecs (vr 1)) (arg vbase vecs (vr 2)) .last ⟨0, false⟩) := by
  refine ⟨⟨vopen_of ?_, tagsVec_of (v := vecs) ?_ ?_, ?_, ?_⟩, ⟨vopen_of ?_, answers_eq ?_⟩, ⟨vopen_of ?_, answers_eq ?_⟩, ⟨?_, ?_, ?_, ?_, ?_⟩,
    ⟨vopen_of ?_, tagsAre_of ?_⟩⟩
  all_goals try unfold Fits
  all_goals decide +kernel

/-- VectorConversionAndReduction: a conversion to the same type and to another, from F32 to a block format; a scaled source; a dot product; VL 0. -/
theorem wit_VectorConversionAndReduction :
    (VOpen vbase [vr 3] [] (vdst (.v 0)) vecs ∧ TagIs vecs (arg vbase vecs (vr 3)) (.v 0) ⟨9, false⟩ ∧ Fits vbase vecs [32, 32] ∧
      Fits vbase vecs [32, 8] ∧ isFlt 9 = true ∧ resolveMode vbase.me.fcsr .rne ≠ .sr ∧ 7 < vecs.vl ∧ vecs.active false 0 7 = true) ∧
    (VOpen vbase [vr 3] [] [.x 15 false] vecs ∧ (arg vbase vecs (vr 3)).tag = some ⟨9, false⟩ ∧ Fits vbase vecs [32] ∧ Red.sum.ok 9 = true) ∧
    (VOpen vbase [vr 1] [] [.x 15 false] vecs ∧ (arg vbase vecs (vr 1)).tag = some ⟨0, false⟩ ∧ Fits vbase vecs [8] ∧ Red.and.ok 0 = true) ∧
    (VOpen vbase [vr 8] [] [.x 15 false] vecs ∧ (arg vbase vecs (vr 8)).tag = some ⟨10, true⟩ ∧ Fits vbase vecs [16] ∧ 10 ≤ 10) ∧
    (VOpen vbase [vr 3, vr 4] [] [.x 15 false] vecs ∧ TagsVec (arg vbase vecs (vr 3)) (arg vbase vecs (vr 4)) ⟨9, false⟩) ∧
    (let v := { vecs with vl := 0 }
     VOpen (withV vbase v) [vr 8] [] [.x 15 false] v ∧ v.vl = 0) := by
  refine ⟨⟨vopen_of ?_, tagIs_of ?_, ?_, ?_, ?_, ?_, ?_, ?_⟩, ⟨vopen_of ?_, ?_, ?_, ?_⟩, ⟨vopen_of ?_, ?_, ?_, ?_⟩, ⟨vopen_of ?_, ?_, ?_, ?_⟩,
    ⟨vopen_of ?_, tagsVec_of (v := vecs) ?_ ?_⟩, vopen_of ?_, ?_⟩
  all_goals try unfold Fits
  all_goals decide +kernel

/-- VectorMoves: an index vector, a count and an index inside and beyond VL, a broadcast, an integer destination. -/
theorem wit_VectorMoves :
    (VOpen vbase [vr 1, vr 5] [] (vdst (.v 0)) vecs ∧
      (tag2 vecs (vr 1) (arg vbase vecs (vr 1)) (arg vbase vecs (vr 5)) (some (.v 0))).go vbase = (.ok (⟨0, false⟩, ⟨4, false⟩), vbase) ∧
      Fits vbase vecs [8, 8] ∧ isNum 0 = true) ∧
    (VOpen vbase [vr 1] [srcX (f1 1)] (vdst (.v 0)) vecs ∧ TagIs vecs (arg vbase vecs (vr 1)) (.v 0) ⟨0, false⟩ ∧ Fits vbase vecs [8]) ∧
    (VOpen vbase [vr 1] [srcX (f1 1)] [.x 15 false] vecs ∧ (arg vbase vecs (vr 1)).tag = some ⟨0, false⟩ ∧ (val vbase (f1 1)).toNat < vecs.vl) ∧
    VOpen vbase [vr 1] [srcX (f1 1), srcX (f1 2)] (vdst (.v 0)) vecs ∧
    (VOpen vbase [vbc 1] [] [.v 0 false] vecs ∧ (arg vbase vecs (vbc 1)).tag = none ∧ isNum (dstTag vecs (.v 0)).ty = true ∧
      isInt (dstTag vecs (.v 0)).ty = true) ∧
    VOpen vbase [] [] [.v 31 false] vecs ∧ VOpen vbase [vr 1] [] (vdst .last) vecs := by
  refine ⟨⟨vopen_of ?_, answers_eq ?_, ?_, ?_⟩, ⟨vopen_of ?_, tagIs_of ?_, ?_⟩, ⟨vopen_of ?_, ?_, ?_⟩, vopen_of ?_, ⟨vopen_of ?_, ?_, ?_, ?_⟩,
    vopen_of ?_, vopen_of ?_⟩
  all_goals try unfold Fits
  all_goals decide +kernel

/-- MasksAndSideArrays: no active bit, and a first one; a scaled register; a record of N8 scales. -/
theorem wit_MasksAndSideArrays :
    VOpen vbase [] [] [] vecs ∧ VOpen vbase [] [srcX (f1 1)] [] vecs ∧ VOpen vbase [] [] [.x 15 false] vecs ∧
    (upTo vecs.vl).filter (fun k => vecs.active false 0 k && vecs.maskBit 2 k) = [] ∧
    ((upTo vecs.vl).filter fun k => vecs.active false 0 k && vecs.maskBit 1 k) = 1 :: [3, 5, 7] ∧
    (VOpen vbase [vr 8] [] (vdst (.v 0)) vecs ∧ Fits vbase vecs [tyWidth (vecs.getV 8).ty, 8]) ∧
    (VOpen vbase [vr 5] [] [.v 8 false] vecs ∧ (vecs.getV 5).ty = 4 ∧ Fits vbase vecs [tyWidth (vecs.getV 5).ty, tyWidth (vecs.getV 8).ty]) := by
  refine ⟨vopen_of ?_, vopen_of ?_, vopen_of ?_, ?_, ?_, ⟨vopen_of ?_, ?_⟩, ⟨vopen_of ?_, ?_, ?_⟩⟩
  all_goals try unfold Fits
  all_goals decide +kernel

/-- VectorGates: a service core; an erg; a thread without vector state; an empty queue; VL beyond the grant; two tags. -/
theorem wit_VectorGates :
    (let s := { base with cur := ⟨1024, 0⟩ }
     s.OpsReady [] [] ∧ s.OpsReady [vopd (vr 1), vopd (vr 2)] (vdst (.v 0)) ∧ isSvc s.cur.core = true) ∧
    (let s := base.updMe fun x => { x with ergBit := true }
     isSvc s.cur.core = false ∧ s.me.ergBit = true ∧ s.me.trapBit = false ∧ s.OpsReady [vopd (vr 1), vopd (vr 2)] (vdst (.v 0))) ∧
    (base.OpsReady [vopd (vr 1), vopd (vr 2)] (vdst (.v 0)) ∧ base.me.ergBit = false ∧ base.me.vs = none) ∧
    (let v := { vecs with q := [] }
     (withV base v).VectorReady v ∧ v.queue 3 = [] ∧ vpop.op = .pop 0) ∧
    (let v := { vecs with vl := 10000 }
     VOpen (withV base v) [vr 1, vr 2] [] (vdst (.v 0)) v ∧ TagsAre v (arg (withV base v) v (vr 1)) (arg (withV base v) v (vr 2)) (.v 0) ⟨0, false⟩ ∧
     vlmax v.g ((withV base v).coreAt 0).vlanes 8 < v.vl) ∧
    (VOpen vbase [vr 1, vr 3] [] (vdst (.v 0)) vecs ∧ (arg vbase vecs (vr 1)).tag = some ⟨0, false⟩ ∧
      (arg vbase vecs (vr 3)).tag = some ⟨9, false⟩ ∧ Fits vbase vecs [8, 32] ∧ isNum 0 = true ∧ (⟨9, false⟩ : Tag) ≠ ⟨0, false⟩) := by
  refine ⟨?_, ?_, ?_, ?_, ⟨vopen_of ?_, tagsAre_of ?_, ?_⟩, ⟨vopen_of ?_, ?_, ?_, ?_, ?_, ?_⟩⟩
  all_goals try unfold Fits
  all_goals try unfold State.OpsReady
  all_goals try unfold State.VectorReady
  all_goals decide +kernel

/-- VectorFrame: a thread with vector state. -/
theorem wit_VectorFrame : vbase.me.vs = some vecs := by decide +kernel
/-! ### Witnesses: vector memory -/

/-- What a computation answers, an empty list where it does not. -/
def elemsOf (r : Except Stop Elems × State) : Elems :=
  match r with
  | (.ok l, _) => l
  | _ => []

/-- What a first-fault access answers. -/
def firstOf (r : Except Stop (Elems × Option Nat) × State) : Elems :=
  match r with
  | (.ok l, _) => l.1
  | _ => []

/-- A thread with vector state at VL `n` and a cached page; x1 holds the address, x3 a stride of 2. -/
def vacc (leaf va n : Nat) (k : Kind) : State := regs (withV (acc leaf va k) { vecs with vl := n }) [(3, 2)]

/-- The vector state of `vacc`. -/
def vat (n : Nat) : VState := { vecs with vl := n }

/-- The elements of a plain load or store: `n` bytes from x1. -/
def bytesAt (va n : Nat) : List VElem := ((vat n).actives 0 n ⟨false, 0, false⟩).map (unitElem va 0 8)

theorem unscaled_of {s : State} {l : Elems} (h : (s.oneWindow l).all (fun q => !q.scaled) = true) : Unscaled s l := by
  intro q hq
  rw [hq] at h
  simpa using h

/-- VectorLoads: eight bytes; a strided load; an indexed one; a first-fault load that ends at its fifth element; one nibble. -/
theorem wit_VectorLoads :
    (let s := vacc owned 0x20000 8 .load
     let l := elemsOf ((xlElems .load (elemCheck (fun f => f == 0) 8 0) (bytesAt 0x20000 8)).go s)
     LoadOpen s [srcX (f1 1)] (.v 31) (vat 8) [8] ∧ Room (vat 8) (.q 1) [] ∧ Unscaled s l ∧
     ((∀ e ∈ bytesAt 0x20000 8, e.va % elemBytes 8 = 0) ∧
       (xlElems .load (elemCheck (fun f => f == 0) 8 0) (bytesAt 0x20000 8)).go s = (.ok l, s) ∧
       (∀ e ∈ l, s.heldBack s.cur.core e.2.pa (elemBytes 8) = false)) ∧ l.length = 8 ∧ (∃ r s', (loadElems 8 l).go s = (.ok r, s')) ∧
     (let r := (firstFault 0 (elemCheck (fun f => f == 0) 8 0) (bytesAt 0x20000 8)).go s
      r = (.ok (firstOf r, none), s))) ∧
    (let s := vacc owned (2 ^ 36 - 4) 8 .load
     let r := (firstFault 0 (elemCheck (fun f => f == 0) 8 0) (bytesAt (2 ^ 36 - 4) 8)).go s
     r = (.ok (firstOf r, some 4), s)) ∧
    (let s := vacc owned 0x20000 8 .load
     LoadOpen s [srcX (f1 1), srcX (f1 3)] (.v 0) (vat 8) [8] ∧
     oks ((xlElems .load (elemCheck (fun f => f == 0) 8 0) (((vat 8).actives 0 8 ⟨false, 0, false⟩).map (strideElem 0x20000 0 2 8))).go s) = true) ∧
    (let s := vacc owned 0x20000 8 .load
     s.OpsReady [srcX (f1 1), vopd (vr 5)] (vdst (.v 0)) ∧ s.VectorReady (vat 8) ∧ hasEntry (vat 8) (vr 5) ∧ Room (vat 8) (.v 0) [] ∧
     (arg s (vat 8) (vr 5)).tag = some ⟨4, false⟩ ∧ Fits s (vat 8) [8, 8] ∧
     s.oneFormat (elemsOf ((xlElems .load (elemCheck (fun f => tyWidth f == 8) 8 0) (bytesAt 0x20000 8)).go s)) = none) := by
  refine ⟨⟨⟨?_, ?_, ?_, fun _ => rfl⟩, fun _ => rfl, unscaled_of ?_, ⟨?_, answers_eq ?_, ?_⟩, ?_, oks_eq ?_, answers_eq ?_⟩,
    answers_eq ?_, ⟨⟨?_, ?_, ?_, fun _ => rfl⟩, ?_⟩, ?_, ?_, hasEntry_of ?_, fun _ => rfl, ?_, ?_, ?_⟩
  all_goals try unfold State.OpsReady
  all_goals try unfold State.VectorReady
  all_goals try unfold Fits
  all_goals decide +kernel

/-- ElementsAndTargets: a width of a byte and more; a failed check of an element that VLDFF may end at. -/
theorem wit_ElementsAndTargets :
    8 ≤ 8 ∧ vbase.me.vs = some vecs ∧ truncates Cause.protection = true ∧ (1 : Nat) ≠ 0 ∧ 0x20001 % elemBytes (tyWidth 0) = 0 ∧
    (acc owned 0x20001 .load).Translates 0x20001 .load (xl 0 1 0x20001 0x20001) ∧
    (∃ s', ((fun _ => trap Cause.protection 0 : Xl → M Unit) (xl 0 1 0x20001 0x20001)).go (acc owned 0x20001 .load) =
      (.error (.trap Cause.protection 0 0), s')) ∧ (0 : Nat) ≠ 15 :=
  ⟨by decide, by decide +kernel, by decide, by decide, by decide, answers_eq (by decide +kernel), ⟨_, rfl⟩, by decide⟩

/-- A thread whose binding w3 names a SYNC word of 0x20000 that holds 16. -/
def marked : State :=
  let s := stored8 (acc sync 0x20000 .load) 0x20000 16
  withV s { vecs with w := [(3, ⟨true, 0x20000, 0x1000, 0, .sy⟩)] }

/-- Watermarks: an unbound binding; a bound one before and after admission; elements below the mark and at it; WMBIND of x0, of an aligned and of a misaligned word. -/
theorem wit_Watermarks :
    (vbase.OpsReady [srcX (f1 1)] (vdst (.v 0)) ∧ vbase.VectorReady vecs ∧ (KMap.find Wm.none vecs.w 2).bound = false) ∧
    (let v : VState := { vecs with w := [(3, ⟨true, 0x20000, 0x1000, 0, .sy⟩)] }
     let b : Wm := ⟨true, 0x20000, 0x1000, 0, .sy⟩
     marked.me.vs = some v ∧ (KMap.find Wm.none v.w 3) = b ∧ marked.me.token = none ∧
     (marked.updMe fun x => { x with token := some [] }).me.token.isSome = true ∧
     marked.Translates b.addr .load (xl 3 0 0x20000 0x20000) ∧ (syncCheck (xl 3 0 0x20000 0x20000) 8).go marked = (.ok (), marked) ∧
     marked.heldBack marked.cur.core 0x20000 8 = false ∧
     (readPiece (xl 3 0 0x20000 0x20000) 8 true).go marked = (.ok (16, none), marked) ∧
     (∀ e ∈ ([(⟨0, 0x100F, false⟩, xl 0 1 0 0)] : Elems), addr64 ((e.1.va : Int) - b.base) / 2 ^ b.shift < 16) ∧
     (∃ e ∈ ([(⟨0, 0x1010, false⟩, xl 0 1 0 0)] : Elems), 16 ≤ addr64 ((e.1.va : Int) - b.base) / 2 ^ b.shift) ∧ paClass 0x20000 ≠ 2) ∧
    (let s := regs vbase [(1, 0x20008), (2, 0x20001)]
     s.OpsReady [srcX (f1 1), srcX (f1 2)] [] ∧ isSvc s.cur.core = false ∧ s.me.vs = some vecs ∧ (f1 0).r = 0 ∧ (f1 1).r ≠ 0 ∧
     (val s (f1 1)).toNat % 8 = 0 ∧ (val s (f1 2)).toNat % 8 ≠ 0) := by
  refine ⟨?_, ⟨?_, ?_, ?_, ?_, answers_eq ?_, answers_eq ?_, ?_, answers_eq ?_, ?_, ?_, ?_⟩, ?_⟩
  all_goals try unfold State.OpsReady
  all_goals try unfold State.VectorReady
  all_goals decide +kernel

/-- VectorStores: eight bytes; a strided store; an indexed one; an element that is misaligned. -/
theorem wit_VectorStores :
    (let s := vacc owned 0x20000 8 .store
     let l := elemsOf ((xlElems .store (elemCheck (fun f => f == 0) 8 0) (bytesAt 0x20000 8)).go s)
     (arg s (vat 8) (vr 1)).tag = some ⟨0, false⟩ ∧ (∃ r s', (l.forM (writeElem (arg s (vat 8) (vr 1)) 0)).go s = (.ok r, s')) ∧
     StoreOpen s [srcX (f1 1), vopd (vr 1)] (vr 1) (vat 8) [8] ∧
     ((∀ e ∈ bytesAt 0x20000 8, e.va % elemBytes 8 = 0) ∧
       (xlElems .store (elemCheck (fun f => f == 0) 8 0) (bytesAt 0x20000 8)).go s = (.ok l, s) ∧
       (∀ e ∈ l, s.heldBack s.cur.core e.2.pa (elemBytes 8) = false) ∧ (∀ e ∈ l, e.2.wb = false)) ∧ l.length = 8 ∧
     StoreOpen s [srcX (f1 1), srcX (f1 3), vopd (vr 1)] (vr 1) (vat 8) [8] ∧
     StoreOpen s [srcX (f1 1), vopd (vr 1), .v 5 true] (vr 1) (vat 8) [8, 8] ∧ 4 ≤ ((vat 8).getV 5).ty ∧ ((vat 8).getV 5).ty < 8) ∧
    (let s := regs (vacc owned 0x20000 8 .store) [(3, 1)]
     (arg s (vat 8) (vr 7)).tag = some ⟨1, false⟩ ∧ StoreOpen s [srcX (f1 1), srcX (f1 3), vopd (vr 7)] (vr 7) (vat 8) [16] ∧
     ((((vat 8).actives 1 8 ⟨false, 0, false⟩).map (strideElem 0x20000 0 1 16)).find? fun e => e.va % elemBytes 16 != 0).isSome = true) := by
  refine ⟨⟨?_, oks_eq ?_, ⟨?_, ?_, hasEntry_of ?_, ?_⟩, ⟨?_, answers_eq ?_, ?_, ?_⟩, ?_, ⟨?_, ?_, hasEntry_of ?_, ?_⟩, ⟨?_, ?_, hasEntry_of ?_, ?_⟩, ?_, ?_⟩,
    ?_, ⟨?_, ?_, hasEntry_of ?_, ?_⟩, ?_⟩
  all_goals try unfold State.OpsReady
  all_goals try unfold State.VectorReady
  all_goals try unfold Fits
  all_goals decide +kernel

/-- A record in v12: a box of 2 by 2 bytes from 0x20000, rows 16 bytes apart, the second column out of range in an array of 1 by 4. -/
def record (box0 : Nat) : Nat :=
  let w : List (Nat × Nat) := [(0, 0x20000), (1, 2), (2, 4), (3, 2), (6, 1), (7, 16), (14, box0), (15, 2)]
  w.foldl (fun n e => n + e.2 * 2 ^ (64 * e.1)) 0

/-- The vector state that holds it as N64. -/
def recs (ty g box0 : Nat) : VState := { VState.init g 4 with v := [(1, ⟨0, false, 0x04030201, []⟩), (12, ⟨ty, false, record box0, []⟩)] }

/-- Its fields. -/
def shapeOf (box0 : Nat) : Shape := Shape.of fun k => bitsAt (record box0) (64 * k) 64

/-- TensorAccess: a good record for a load and a store; a register of another type; a grant too small; a box of no element. -/
theorem wit_TensorAccess :
    (let v := recs 7 4 2
     let s := withV (acc owned 0x20000 .load) v
     let h := shapeOf 2
     let l := elemsOf ((xlElems .load (elemCheck (fun f => f == h.ty) h.width 0) (boxElems (h.walk h.inner))).go s)
     s.OpsReady [.v 12 true] (vdst (.v 0)) ∧ s.VectorReady v ∧ Room v (.v 0) [] ∧ (recordOf v 12 true 0).go s = (.ok h, s) ∧
     ((∀ e ∈ boxElems (h.walk h.inner), e.va % elemBytes h.width = 0) ∧
       (xlElems .load (elemCheck (fun f => f == h.ty) h.width 0) (boxElems (h.walk h.inner))).go s = (.ok l, s) ∧
       (∀ e ∈ l, s.heldBack s.cur.core e.2.pa (elemBytes h.width) = false)) ∧ l.length = 4 ∧
     (∃ r s', (loadElems h.width l).go s = (.ok r, s'))) ∧
    (let v := recs 3 4 2
     let s := withV (acc owned 0x20000 .store) v
     let h := shapeOf 2
     s.OpsReady [vopd (vr 1), .v 12 true] [] ∧ hasEntry v (vr 1) ∧ (arg s v (vr 1)).tag = some ⟨0, false⟩ ∧
     (recordOf v 12 false 8).go s = (.ok h, s) ∧ (h.walk h.inner).length ≤ vlmax v.g (s.coreAt s.cur.core).vlanes 8 ∧ h.lsz ≠ 255 ∧ tyWidth 0 ≠ 4) ∧
    (((recs 9 4 2).getV 12).ty ≠ 3 ∧ ((recs 9 4 2).getV 12).ty ≠ 7) ∧
    (vlmax (recs 7 1 2).g 16 64 < 18 ∧ 18 ≤ vlmax (recs 7 4 2).g 32 64) ∧
    (∃ e, (shapeOf 0).bad true false (vlmax 4 32 8) = some e) := by
  refine ⟨⟨?_, ?_, fun _ => rfl, answers_eq ?_, ⟨?_, answers_eq ?_, ?_⟩, ?_, oks_eq ?_⟩, ⟨?_, hasEntry_of ?_, ?_, answers_eq ?_, ?_, ?_, ?_⟩, ?_, ?_,
    Option.isSome_iff_exists.1 ?_⟩
  all_goals try unfold State.OpsReady
  all_goals try unfold State.VectorReady
  all_goals decide +kernel

/-- A thread whose x1 and v9 name a SYNC word that holds `n`. -/
def waits (n vl : Nat) : State := withV (stored8 (acc sync 0x20000 .load) 0x20000 n) { vecs with vl := vl }

/-- WaitForWords: a handler; a misaligned word; a word that is zero, and one that is not; one vector element, none, and more than 32. -/
theorem wit_WaitForWords :
    (let s := waits 5 1
     s.OpsReady [.x 1 true] [.x 15 false] ∧ s.cur.isHandler = false ∧ (s.me.getX 1).toNat % 8 = 0 ∧
     s.Translates 0x20000 .load (xl 3 0 0x20000 0x20000) ∧ (syncCheck (xl 3 0 0x20000 0x20000) 8).go s = (.ok (), s) ∧
     s.heldBack s.cur.core 0x20000 8 = false ∧ paClass 0x20000 ≠ 2 ∧
     (readPiece (xl 3 0 0x20000 0x20000) 8 true).go s = (.ok (5, none), s) ∧ wd 5 ≠ 0 ∧
     (readPiece (xl 3 0 0x20000 0x20000) 8 true).go (waits 0 1) = (.ok (0, none), waits 0 1)) ∧
    ({ base with cur := ⟨0, 8⟩ } : State).cur.isHandler = true ∧ (0x20007 : Nat) % 8 ≠ 0 ∧
    (let s := waits 5 1
     let v := vat 1
     let el : List VElem := [⟨0, 0x20000, false⟩]
     let l : Elems := [(⟨0, 0x20000, false⟩, xl 3 0 0x20000 0x20000)]
     (∀ r, (vr 9).op ≠ .bc r) ∧ s.OpsReady [vopd (vr 9)] [.x 15 false] ∧ s.VectorReady v ∧ hasEntry v (vr 9) ∧
     (arg s v (vr 9)).tag = some ⟨7, false⟩ ∧ Fits s v [64] ∧
     ((upTo v.vl).filter (v.active false 0)).map (fun k => (⟨k, (arg s v (vr 9)).bits 64 k, false⟩ : VElem)) = el ∧
     (xlElems .load (fun x => syncCheck x 8) el).go s = (.ok l, s) ∧
     (l.mapM fun e => do let r ← readWait e.2; return (e, r) : M _).go s = (.ok (l.map fun e => (e, wd 5)), s) ∧
     (l.mapM fun e => do let r ← readWait e.2; return (e, r) : M _).go (waits 0 1) = (.ok (l.map fun e => (e, 0)), waits 0 1)) ∧
    (upTo 1).filter ((vat 1).active true 3) = [] ∧ 32 < ((upTo 33).filter ((vat 33).active false 0)).length ∧ Fits vbase (vat 33) [64] := by
  refine ⟨⟨?_, ?_, ?_, answers_eq ?_, answers_eq ?_, ?_, ?_, answers_eq ?_, ?_, answers_eq ?_⟩, ?_, ?_,
    ⟨(fun r h => by cases h), ?_, ?_, hasEntry_of ?_, ?_, ?_, ?_, answers_eq ?_, answers_eq ?_, answers_eq ?_⟩, ?_, ?_, ?_⟩
  all_goals try unfold State.OpsReady
  all_goals try unfold State.VectorReady
  all_goals try unfold Fits
  all_goals decide +kernel
/-! ### Witnesses: the outer-product array -/

/-- The computation leaves `s` and its answer has the property `p`. -/
def keeps {α : Type} (r : Except Stop α × State) (s : State) (p : α → Bool) : Bool :=
  match r with
  | (.ok a, t) => decide (t = s) && p a
  | _ => false

theorem keeps_eq {α : Type} {r : Except Stop α × State} {s : State} {p : α → Bool} (h : keeps r s p = true) :
    ∃ a, r = (.ok a, s) ∧ p a = true := by
  obtain ⟨r, t⟩ := r
  cases r with
  | error e => simp [keeps] at h
  | ok b =>
    simp [keeps] at h
    exact ⟨b, by rw [h.1], h.2⟩

/-- The acting thread, or another one, owns slots and tiles of its cluster. -/
def owns (s : State) (who : Nat) (slots tiles : List Nat) : State :=
  let s := slots.foldl (fun (s : State) n => s.updSlot 0 n fun x => { x with owner := some who }) s
  tiles.foldl (fun (s : State) n => s.updTile 0 n fun x => { x with owner := some who }) s

/-- A stream of `n` commands. -/
def streamed (s : State) (n : Nat) : State := s.updMe fun x => { x with stream := (upTo n).map fun _ => ⟨.mzero 0, false, 0⟩ }

/-- LeasesAndClaims: before the grant and after it; slots free, owned and not; an empty stream, one with room for one, a full one; MLEASE and MFREE alone in a stream. -/
theorem wit_LeasesAndClaims :
    (isSvc base.cur.core = false ∧ (base.me.ergBit && !base.me.trapBit) = false ∧ base.cur.isHandler = false) ∧
    ((base.updMe fun x => { x with token := some [] }).me.token.isSome = true ∧ base.me.token = none ∧
      base.OpsReady [srcX (f1 1)] []) ∧
    ((base.updMe fun x => { x with stream := [⟨.mlease 256, false, 7⟩] }).me.stream = [⟨.mlease 256, false, 7⟩] ∧
      (base.updMe fun x => { x with stream := [⟨.mfree, false, 0⟩] }).me.stream = [⟨.mfree, false, 0⟩] ∧
      (let s := streamed base 16
       16 ≤ s.me.stream.length ∧ s.me.token = none ∧ s.OpsReady [srcX (f1 1)] [])) ∧
    (let s := streamed (owns base base.me.uid [63] [3]) 15
     s.me.stream.length < 16 ∧ s.me.stream ≠ [] ∧ (∀ n, (62 : BitVec 6).toNat ≤ n → n ≤ (63 : BitVec 6).toNat → ((cluster s).slot n).owner = none ∨ OwnsSlot s n) ∧
     ((cluster s).tile (0 : BitVec 2).toNat).owner = none ∧ OwnsTile s (3 : BitVec 2).toNat) ∧
    (base.me.stream = [] ∧ base.unperformed base.me.uid = false ∧ base.me.reports ++ base.me.msyncReports = []) := by
  have h : ∀ n, n < 64 → 62 ≤ n → (let s := streamed (owns base base.me.uid [63] [3]) 15
      ((cluster s).slot n).owner = none ∨ ((cluster s).slot n).owner = some s.me.uid) := by decide +kernel
  refine ⟨?_, ?_, ?_, ⟨?_, ?_, fun n ha hb => h n (by simp at hb; omega) (by simpa using ha), ?_, ?_⟩, ?_⟩
  all_goals try unfold State.OpsReady
  all_goals try unfold OwnsTile
  all_goals decide +kernel

/-- A thread with a lease that owns slots 0 to 3 and 62, 63 and tiles 0 (F32) and 3 (I32); x1, x2, x3 hold a base, a stride and a count. -/
def arrayed (kind : Kind) (st cnt vl : Nat) (leaf : Nat := owned) : State :=
  let s := owns (withV (acc leaf 0x20000 kind) { vecs with vl := vl, v := vecs.v ++ [(12, ⟨2, false, 0, []⟩)] }) base.me.uid [0, 1, 2, 3, 62, 63] [0, 3]
  regs ((s.updTile 0 3 fun x => { x with i32 := true }).updMe fun x => { x with lease := .held }) [(2, wd st), (3, wd cnt)]

/-- ArrayCommands: rows and columns at the largest count; sidecars; a MOP of a pair and one of k = 64; both kinds of pair; the last elements of a tile; a whole tile stored. -/
theorem wit_ArrayCommands :
    (let s := arrayed .load 256 (256 * 2 ^ 16) 128
     ArrayReady s ∧ s.OpsReady [srcX (f1 1), srcX (f1 2), srcX (f1 3)] [] ∧ OwnsSlot s 62 ∧ OwnsPair s 62 ∧
     bitsAt (val s (f1 3)).toNat 0 9 + bitsAt (val s (f1 3)).toNat 16 9 = 256 ∧
     (baseWindow 0x20000 .load).go s = (.ok none, s) ∧ 0x20000 % max 1 (spacing none 1) = 0 ∧ 256 % max 1 (spacing none 1) = 0 ∧
     (∃ r, RowPages s .load (slCheck 0 false) 0x20000 256 1 128 (upTo 256) r ∧ true = true) ∧
     (∃ r, RowPages s .load (slCheck 0 false) 0x20000 256 1 256 (upTo 128) r ∧ true = true) ∧
     (s.OpsReady [srcX (f1 1)] [] ∧ 0x20000 % 8 = 0 ∧ ∃ r, (runPages .load (slCheck 0 true) 0x20000 1 128 ⟨[], []⟩).go s = (.ok r, s) ∧ true = true)) ∧
    (let s := regs (arrayed .load 0 256 128) [(4, 64), (5, 127 + 3 * 2 ^ 8)]
     Leased s ∧ OwnsSlot s 0 ∧ OwnsSlot s 2 ∧ OwnsPair s 2 ∧ OwnsTile s 0 ∧ OwnsTile s 3 ∧
     (tileI32 0).go s = (.ok false, s) ∧ (tileI32 3).go s = (.ok true, s) ∧ s.OpsReady [srcX (f1 3)] [] ∧
     opaPair false 0 0 = some true ∧ (val s (f1 3)).toNat % 512 = 256 ∧ opaPair false 11 11 = some false ∧ (val s (f1 4)).toNat % 512 = 64 ∧
     tyWidth 11 = 16 ∧ (∃ f g i, opaPair true f g = some i) ∧
     s.me.vs.isSome = true ∧ bitsAt (val s (f1 5)).toNat 8 2 = 3 ∧ bitsAt (val s (f1 5)).toNat 0 7 * 128 + 128 = 16384 ∧
     s.OpsReady [srcX (f1 5)] (vdst (.v 31)) ∧ s.OpsReady [srcX (f1 5)] (vdst (.q 3)) ∧ s.OpsReady [.v 12 true, srcX (f1 5)] [] ∧
     s.OpsReady [.v 3 true, srcX (f1 4)] [] ∧ (∃ v, s.me.vs = some v ∧ Fits s v [32] ∧ (v.getV 12).ty = 2 ∧ (v.getV 3).ty = 9)) ∧
    (let s := arrayed .store 512 (128 * 2 ^ 8) 128 (uncached + 2 ^ 55)
     s.OpsReady [srcX (f1 1), srcX (f1 2), srcX (f1 3)] [] ∧ Leased s ∧ OwnsTile s 3 ∧ bitsAt (val s (f1 3)).toNat 8 8 = 128 ∧
     (baseWindow 0x20000 .store).go s = (.ok none, s) ∧ 0x20000 % spacing none 4 = 0 ∧ 512 % spacing none 4 = 0 ∧
     ∃ r, RowPages s .store mstCheck 0x20000 512 4 128 (upTo 128) r ∧ (r.xls.all fun x => !x.wb) = true) := by
  refine ⟨⟨?_, ?_, ?_, ?_, ?_, answers_eq ?_, ?_, ?_, keeps_eq (p := fun _ => true) ?_, keeps_eq (p := fun _ => true) ?_,
      ?_, ?_, keeps_eq (p := fun _ => true) ?_⟩,
    ⟨?_, ?_, ?_, ?_, ?_, ?_, answers_eq ?_, answers_eq ?_, ?_, ?_, ?_, ?_, ?_, ?_, ⟨13, 13, false, ?_⟩, ?_, ?_, ?_, ?_, ?_, ?_, ?_, ⟨_, rfl, ?_⟩⟩,
    ?_, ?_, ?_, ?_, answers_eq ?_, ?_, ?_, keeps_eq (p := fun r : Runs => r.xls.all fun x => !x.wb) ?_⟩
  all_goals try unfold State.OpsReady
  all_goals try unfold ArrayReady
  all_goals try unfold Leased
  all_goals try unfold OwnsPair
  all_goals try unfold OwnsSlot
  all_goals try unfold OwnsTile
  all_goals try unfold Fits
  all_goals decide +kernel

/-- ArrayTraps: a service core; an erg; a handler, before a grant; state NONE, and a lease that is being given up; a tile and a slot of another thread behind one of its own; a full stream. -/
theorem wit_ArrayTraps :
    isSvc ({ base with cur := ⟨1024, 0⟩ } : State).cur.core = true ∧
    (let s := base.updMe fun x => { x with ergBit := true }
     isSvc s.cur.core = false ∧ s.me.ergBit = true ∧ s.me.trapBit = false) ∧
    (let s := { base with cur := ⟨0, 15⟩ }
     isSvc s.cur.core = false ∧ (s.me.ergBit && !s.me.trapBit) = false ∧ s.cur.isHandler = true ∧ s.me.token = none ∧
     s.OpsReady [srcX (f1 1)] []) ∧
    (isSvc base.cur.core = false ∧ (base.me.ergBit && !base.me.trapBit) = false ∧ base.cur.isHandler = false ∧ ¬ Leased base ∧
      ¬ Leased ((arrayed .load 0 0 1).updMe fun x => { x with stream := [⟨.mfree, false, 0⟩] })) ∧
    (let s := owns (arrayed .load 0 0 1) (base.me.uid + 1) [5] [1]
     Leased s ∧ ¬ OwnsTile s 2 ∧ ((cluster s).tile (1 : BitVec 2).toNat).owner = some (base.me.uid + 1) ∧ base.me.uid + 1 ≠ s.me.uid ∧
     ((cluster s).slot 5).owner = some (base.me.uid + 1) ∧ (∀ m, (3 : BitVec 6).toNat ≤ m → m < 5 → ((cluster s).slot m).owner = none ∨ OwnsSlot s m)) ∧
    (let s := streamed (arrayed .load 0 0 1) 16
     Leased s ∧ OwnsTile s 3 ∧ 16 ≤ s.me.stream.length) := by
  have h : ∀ m, m < 5 → 3 ≤ m → (let s := owns (arrayed .load 0 0 1) (base.me.uid + 1) [5] [1]
      ((cluster s).slot m).owner = none ∨ ((cluster s).slot m).owner = some s.me.uid) := by decide +kernel
  refine ⟨?_, ?_, ?_, ?_, ⟨?_, ?_, ?_, ?_, ?_, fun m ha hb => h m hb (by simpa using ha)⟩, ?_⟩
  all_goals try unfold State.OpsReady
  all_goals try unfold Leased
  all_goals try unfold OwnsTile
  all_goals decide +kernel
/-! ### Witnesses: Ferry engines, threads, messages, tasks -/

/-- A word of memory. -/
def poke (s : State) (pa v : Nat) : State := { s with mem := writeBytes s.mem pa v 8 }

/-- The quad x4 to x7, read with F = 1. -/
def q4 : QSrc := ⟨.x4, true⟩

/-- A thread whose quad holds four words. -/
def quads (s : State) (w : List Nat) : State := regs s ((upTo 4).map fun k => (4 + k, wd (w.getD k 0)))

/-- A core whose FIFO holds `n` commands of the thread with tag 7. -/
def fifoed (s : State) (n : Nat) : State :=
  s.updCore 0 fun k => { k with fifo := (upTo n).map fun _ => ⟨0, s.me.uid, s.me.tid, s.cur.key, 0, 0, 0, none, 0x00070C01, 0, 0, 0, none⟩ }

/-- A ring in an UNCACHED page: base 0x20040, one record, PROD and CONS. -/
def ring (prod cons : Nat) : State :=
  let s := acc uncached 0x20000 .atomic
  poke (poke (poke (poke s 0x20000 0x20040) 0x20010 prod) 0x20018 cons) 0x20040 1

/-- A landing word of the scratchpad. -/
def landPage (k : Kind) : State := acc (uncached + 2 ^ 55) 0x20000 k

/-- The translation of a scratchpad address. -/
def lx : Xl := xl 2 1 (2 ^ 49 + 0x20000) 0x20000

/-- FerryInstructions: a COPY without a record and one with a landing word, with room and without, in a thread and in a handler; each malformed word; landing words before and after their generation; FJOIN with and without an open command; an empty ring and a record. -/
theorem wit_FerryInstructions :
    (let s := fifoed (quads base [0xC01, 0, 0, 0]) 15
     s.OpsReady (quadSrcs q4) [.x 15 false] ∧ s.OpsReady (quadSrcs q4) [] ∧ (ferryCheck (s.ferryCmd (quad s q4))).go s = (.ok none, s) ∧
     (s.coreAt s.cur.core).fifo.length < 16 ∧ s.MayRelease (max 1 (s.ferryCmd (quad s q4)).scope) 1023 ∧
     (s.release (s.me.l1s s.cur.core) (max 1 (s.ferryCmd (quad s q4)).scope) 1023).Quiet ∧
     s.unjoined s.cur.core s.me.uid 7 = true ∧ s.unjoined s.cur.core s.me.uid 8 = false ∧ s.cur.isHandler = false) ∧
    (let s := fifoed (quads (landPage .store) [0x301, 0, 0, 0x20000]) 16
     (ferryCheck (s.ferryCmd (quad s q4))).go s = (.ok (some (2 ^ 49 + 0x20000)), s) ∧ 16 ≤ (s.coreAt s.cur.core).fifo.length ∧
     s.cur.isHandler = false) ∧
    (let s := fifoed (quads { base with cur := ⟨0, 8⟩ } [0xC01, 0, 0, 0]) 16
     s.OpsReady (quadSrcs q4) [] ∧ (ferryCheck (s.ferryCmd (quad s q4))).go s = (.ok none, s) ∧ 16 ≤ (s.coreAt s.cur.core).fifo.length ∧ s.cur.isHandler = true) ∧
    ((base.ferryCmd [0]).op = 0 ∧ 4 < (base.ferryCmd [5]).op ∧ bitsAt (base.ferryCmd [0x1001]).w0 12 4 ≠ 0 ∧
      ((base.ferryCmd [0x100000002]).op = 2 ∧ (base.ferryCmd [0x100000002]).count ≠ 0) ∧
      ((base.ferryCmd [0xC01, 0, 0, 1]).compl = 3 ∧ (base.ferryCmd [0xC01, 0, 0, 1]).w3 ≠ 0)) ∧
    (let s := landPage .store
     s.OpsReady [srcX (f1 1), srcX (f1 2)] [.x 15 false] ∧ LandWord s 0x20000 .store lx ∧ lx.wb = false ∧ s.poisonIn lx.pa 16 = none) ∧
    (let s := landPage .load
     s.OpsReady [srcX (f1 1), srcX (f1 2)] [.x 15 false] ∧ s.OpsReady [srcX (f1 1)] [.x 15 false] ∧ s.cur.isHandler = false ∧
     LandWord s 0x20000 .load lx ∧ s.landPoison lx.pa = false ∧ s.me.token = none ∧ landed 0 0 = true ∧ landed 0 1 = false ∧ landed 32767 0 = true ∧ landed 32768 0 = false ∧
     (s.updMe fun x => { x with token := some [] }).me.token.isSome = true) ∧
    (let s := ring 0 0
     s.OpsReady [srcX (f1 1)] (quadDsts .x4) ∧ 0x20000 % 64 = 0 ∧ s.Translates 0x20000 .atomic (xl 2 1 0x20000 0x20000) ∧
     ringPlace (xl 2 1 0x20000 0x20000) = true ∧ (xl 2 1 0x20000 0x20000).wb = false ∧ s.heldBack s.cur.core 0x20000 64 = false ∧
     (ringWord (xl 2 1 0x20000 0x20000) 0).go s = (.ok (0x20040, none), s) ∧ (ringWord (xl 2 1 0x20000 0x20000) 8).go s = (.ok (0, none), s) ∧
     (ringWord (xl 2 1 0x20000 0x20000) 16).go s = (.ok (0, none), s) ∧ (ringWord (xl 2 1 0x20000 0x20000) 24).go s = (.ok (0, none), s)) ∧
    (let s := ring 1 0
     (ringWord (xl 2 1 0x20000 0x20000) 16).go s = (.ok (1, none), s) ∧ paClass (0x20000 + 24) ≠ 2 ∧
     s.Translates 0x20040 .load (xl 2 1 0x20040 0x20040) ∧
     (ringRead (xl 2 1 0x20040 0x20040)).go s = (.ok ([1, 0, 0, 0], none), s)) := by
  refine ⟨⟨?_, ?_, answers_eq ?_, ?_, ?_, ?_, ?_, ?_, ?_⟩, ⟨answers_eq ?_, ?_, ?_⟩, ⟨?_, answers_eq ?_, ?_, ?_⟩, ?_, ⟨?_, ⟨?_, answers_eq ?_, ?_⟩, ?_⟩,
    ⟨?_, ?_, ?_, ⟨?_, answers_eq ?_, ?_⟩, ?_⟩, ⟨?_, ?_, answers_eq ?_, ?_, ?_, ?_, answers_eq ?_, answers_eq ?_, answers_eq ?_, answers_eq ?_⟩,
    answers_eq ?_, ?_, answers_eq ?_, answers_eq ?_⟩
  all_goals try unfold State.OpsReady
  all_goals try unfold State.Quiet
  all_goals try unfold State.MayRelease State.WayFree
  all_goals decide +kernel

/-- Every berth of core 0 holds a thread. -/
def crowded : State := (upTo 8).foldl (fun (s : State) b => s.updCtx ⟨0, b⟩ fun x => { x with occ := .occupied }) (regs base [(1, 0x40), (2, 5), (3, 0)])

/-- A group record of a SYNC page of the scratchpad. -/
def gpage (m a p : Nat) : State := stored8 (acc (sync + 2 ^ 55) 0x20000 .atomic) (2 ^ 49 + 0x20000) (m + a * 2 ^ 32 + p * 2 ^ 64)

/-- The translation of that record. -/
def gx : Xl := xl 3 0 (2 ^ 49 + 0x20000) 0x20000

theorem gpage_word (m a p : Nat) (h1 : addr (gpage m a p) (f1 1) (0 : BitVec 24) % 16 = 0)
    (h2 : answers ((xlateM (addr (gpage m a p) (f1 1) (0 : BitVec 24)) .atomic).go (gpage m a p)) gx (gpage m a p) = true)
    (h3 : (gpage m a p).heldBack (gpage m a p).cur.core gx.pa 16 = false) (h4 : (gpage m a p).poisonIn gx.pa 16 = none) :
    SyncWord (gpage m a p) (addr (gpage m a p) (f1 1) (0 : BitVec 24)) 16 gx :=
  ⟨h1, answers_eq h2, by decide, by decide, by decide, h3, fun _ => h4⟩

/-- An erg's home with an access that is not performed. -/
def busyErg : State := storing.updMe fun x => { x with ergBit := true, ergSize := 4 }

/-- ThreadsAndGroups: a misaligned entry; each bad target; the last berths; no berth; thread and handler; groups between phases, in one and at its end; answers that have come. -/
theorem wit_ThreadsAndGroups :
    (let s := regs base [(1, 0x40), (2, 0x41), (3, 1023), (4, 2048), (5, 1025), (6, 1024), (7, 1020)]
     s.OpsReady [srcX (f1 1), srcX (f1 2), srcX (f1 3)] [.x 15 false] ∧ (val s (f1 2)).toNat % 64 ≠ 0 ∧ (val s (f1 1)).toNat % 64 = 0 ∧
     2 ^ 11 ≤ (val s (f1 4)).toNat ∧ (bitAt (val s (f1 5)).toNat 10 = true ∧ (val s (f1 5)).toNat % 1024 % 4 ≠ 0) ∧
     { s with fuse := { s.fuse with clmask := [(0, 1)] } }.corePresent 4 = false ∧
     ((val s (f1 3)).toNat < 2 ^ 11 ∧ bitAt (val s (f1 3)).toNat 10 = false ∧ s.corePresent 1023 = true) ∧
     (bitAt (val s (f1 6)).toNat 10 = true ∧ (val s (f1 6)).toNat % 1024 % 4 = 0 ∧ s.corePresent 0 = true) ∧
     s.edgeHeld (dieOf s.cur.core) (dieOf 1023) = false ∧ s.MayRelease 3 1023 ∧ (releases s .pk).Quiet ∧
     (releases s .pk).spawnPlace true 0 = some ⟨0, 1⟩ ∧ (releases s .pk).spawnPlace false 1023 = some ⟨1023, 0⟩) ∧
    (crowded.MayRelease 3 1023 ∧ (releases crowded .pk).spawnPlace false 0 = none) ∧
    (base.cur.isHandler = false ∧ ({ base with cur := ⟨0, 15⟩ } : State).cur.isHandler = true ∧ base.OpsReady [] [.x 15 false] ∧
      base.ergWaits base.cur = false ∧ ({ base with cur := ⟨0, 15⟩ } : State).ergWaits ⟨0, 15⟩ = false ∧ busyErg.ergWaits busyErg.cur = true) ∧
    (let s := gpage 0 0 65535
     s.OpsReady [srcX (f1 1)] [.x 15 false] ∧ SyncWord s (addr s (f1 1) (0 : BitVec 24)) 16 gx ∧ paClass gx.pa ≠ 2 ∧ s.me.token = none ∧
     (∃ v s', s.groupJoin gx.pa (s.waiterMe true) = (some v, s')) ∧ s.MayRelease 3 1023 ∧ (releases s .sy).Quiet ∧
     s.me.asks = [] ∧ (∃ v s', (releases s .sy).groupBar gx.pa ((releases s .sy).waiterMe false) = (some v, s'))) ∧
    (let s := gpage 3 1 0
     SyncWord s (addr s (f1 1) (0 : BitVec 24)) 16 gx ∧ (∃ s', s.groupJoin gx.pa (s.waiterMe true) = (none, s')) ∧
     (∃ s', (releases s .sy).groupBar gx.pa ((releases s .sy).waiterMe false) = (none, s'))) ∧
    (base.updMe fun x => { x with token := some [5] }).me.token = some (5 :: []) := by
  have h1 : ((gpage 0 0 65535).groupJoin gx.pa ((gpage 0 0 65535).waiterMe true)).1.isSome = true := by decide +kernel
  have h2 : ((releases (gpage 0 0 65535) .sy).groupBar gx.pa ((releases (gpage 0 0 65535) .sy).waiterMe false)).1.isSome = true := by decide +kernel
  have h3 : ((gpage 3 1 0).groupJoin gx.pa ((gpage 3 1 0).waiterMe true)).1 = none := by decide +kernel
  have h4 : ((releases (gpage 3 1 0) .sy).groupBar gx.pa ((releases (gpage 3 1 0) .sy).waiterMe false)).1 = none := by decide +kernel
  obtain ⟨v, hv⟩ := Option.isSome_iff_exists.1 h1
  obtain ⟨w, hw⟩ := Option.isSome_iff_exists.1 h2
  refine ⟨?_, ?_, ?_, ⟨?_, gpage_word 0 0 65535 ?_ ?_ ?_ ?_, ?_, ?_, ⟨v, pair_of hv⟩, ?_, ?_, ?_, ⟨w, pair_of hw⟩⟩,
    ⟨gpage_word 3 1 0 ?_ ?_ ?_ ?_, pair_of h3, pair_of h4⟩, ?_⟩
  all_goals try unfold State.OpsReady
  all_goals try unfold State.Quiet
  all_goals try unfold State.MayRelease State.WayFree
  all_goals decide +kernel

/-- A core whose handler table lies in 0x20000, with channel 5 for SUP. -/
def handled : State :=
  poke ((regs (leafed owned) [(1, 5), (2, 64)]).updCore 0 fun k => { k with htab := 0x20000, hptbase := base.me.ptbase, hsup := true })
    0x20058 (2 ^ 19)

/-- Messages: a thread and a handler; every bad destination; a full queue and one with room for one; a channel of SUP at USR and above it, the last channel and one beyond. -/
theorem wit_Messages :
    (let s := (regs base [(8, 63 + 1023 * 2 ^ 6), (9, 2 ^ 42), (10, 2 ^ 17), (11, 2 ^ 16 + 16 * 2 ^ 6)]).updCore 0 fun k => { k with reqOut := 15, repOut := 16 }
     s.OpsReady (quadSrcs q4 ++ [srcX (f1 8)]) [] ∧ s.OpsReady (quadSrcs q4 ++ [srcX (f1 8)]) [.x 15 false] ∧ s.cur.isHandler = false ∧
     s.dest (val s (f1 9)).toNat = none ∧ 2 ^ 42 ≤ (val s (f1 9)).toNat ∧ bitsAt (val s (f1 10)).toNat 17 15 ≠ 0 ∧
     (bitAt (val s (f1 11)).toNat 16 = true ∧ 16 ≤ bitsAt (val s (f1 11)).toNat 6 10) ∧
     s.dest (val s (f1 8)).toNat = some ⟨s.pkgid, 1023, 63⟩ ∧ s.sendFull true = true ∧ s.sendFull false = false ∧
     s.MayRelease 3 1023 ∧ (releases s .sy).Quiet ∧ (1 ≠ s.pkgid ∧ s.portHeld 1 = false)) ∧
    (({ base with cur := ⟨0, 8⟩ } : State).cur.isHandler = true ∧ base.OpsReady [srcX (f1 1)] [.x 15 false] ∧ handled.baseq = []) ∧
    ((∃ s', handled.supChannel handled.cur.core 5 = (true, s') ∧ s'.me.pl = 0) ∧
      (∃ s', (handled.updMe fun x => { x with pl := 1 }).supChannel handled.cur.core 5 = (true, s') ∧ s'.me.pl ≠ 0)) ∧
    base.supChannel base.cur.core 63 = (false, base) ∧ base.supChannel base.cur.core (64 % 64) = (false, base) := by
  refine ⟨?_, ?_, ⟨pair_with (fun s' : State => s'.me.pl = 0) ?_ ?_, pair_with (fun s' : State => s'.me.pl ≠ 0) ?_ ?_⟩, ?_, ?_⟩
  all_goals try unfold State.OpsReady
  all_goals try unfold State.Quiet
  all_goals try unfold State.MayRelease State.WayFree
  all_goals decide +kernel

/-- A task record at 0x20000 with quadrants `q`, and the words that TSPAWN reads of it. -/
def tasked (q prio : Nat) : State :=
  poke (poke (poke (acc owned 0x20000 .load) 0x20010 (1 + 2 ^ 32)) 0x20018 (prio * 2 ^ 48)) 0x20028 (1 + q * 2 ^ 4)
def taskWords (q prio : Nat) : List Nat := [0, 0, 1 + 2 ^ 32, prio * 2 ^ 48, 0, 1 + q * 2 ^ 4, 0, 0]

/-- The push of that record. -/
def taskPush (q prio : Nat) : Push := ⟨base.me.ptbase, 0, false, 0, 0x20000, taskWords q prio, (0, 0)⟩

/-- An instance of `rows` by `cols`. -/
def inst (rows cols : Nat) : Inst :=
  ⟨0x20000, 0, 0, 0, 0, rows, cols, 0, 2, 0, false, 0, 1, 1, false, false, false, 0, 0, 0, 0, 0, 0, 0, 1, 1, 0, 0, 0, .queued⟩

/-- A watchpoint in each of `n` places of cluster 0. -/
def watched (n : Nat) : State :=
  (quads (acc owned 0x20000 .load) [0x20038, 0, 0, 0]).updCl ((acc owned 0x20000 .load).homeSlice 0x20038) fun c =>
    { c with watch := (upTo n).map fun f => (f, some ⟨watchHandle 0 0 f, 0x20000, 1, 0, 0, 0, false, 0, 0, false⟩) }

/-- How a push failed. -/
def pushCode (r : Except (Nat × Nat) Unit × State) : Option (Nat × Nat) :=
  match r.1 with
  | .ok _ => none
  | .error e => some e

theorem pushCode_ok {r : Except (Nat × Nat) Unit × State} (h : pushCode r = none) : ∃ t, r = (.ok (), t) := by
  obtain ⟨a, t⟩ := r
  cases a with
  | ok u => exact ⟨t, rfl⟩
  | error e => cases h

theorem pushCode_error {r : Except (Nat × Nat) Unit × State} {n : Nat} (h : pushCode r = some (n, 0)) :
    ∃ k t, r = (.error (n, k), t) := by
  obtain ⟨a, t⟩ := r
  cases a with
  | ok u => cases h
  | error e => exact ⟨0, t, by cases h; rfl⟩

/-- TasksAndWatchpoints: a misaligned record, a bad one, a good one that enters, that no quadrant takes, and that finds its queue full; a thread with and without an instance; the ends of a cursor; each range of WATCH; a full slice, one with a last place; each handle of UNWATCH. -/
theorem wit_TasksAndWatchpoints :
    (let s := tasked 1 3
     s.OpsReady [srcX (f1 1)] [] ∧ s.me.asks = [] ∧ s.MayRelease 3 1023 ∧ (releases s .pk).Quiet ∧ s.baseq = [] ∧
     (s.pushInst (taskPush 1 3)).2.instAt s.nextInst ≠ none ∧
     (((s.pushInst (taskPush 1 3)).2.instAt s.nextInst).all fun v => !s.edgeHeld (dieOf s.cur.core) (v.owner / 4)) = true ∧
     val s (f1 1) = 0x20000 ∧ (0x20001 : Nat) % 64 ≠ 0 ∧
     ((upTo 8).mapM fun k => pushWord (0x20000 + 8 * k)).go (releases s .pk) = (.ok (taskWords 1 3), s) ∧
     (recordBad fun k => (taskWords 1 3).getD k 0) = false ∧ (taskWords 1 3).getD 6 0 = 0 ∧
     (∃ t, s.pushInst (taskPush 1 3) = (.ok (), t)) ∧
     (∃ k t, s.pushInst (taskPush 0 3) = (.error (1, k), t)) ∧ (recordBad fun k => ([1] : List Nat).getD k 0) = true ∧
     (let s := s.updDisp 0 fun d => { d with queues := [(3, List.replicate 512 0)] }
      ∃ k t, s.pushInst (taskPush 1 3) = (.error (2, k), t))) ∧
    (base.OpsReady [] (quadDsts .x4) ∧ base.me.inst = none ∧
      (let s := { base.updMe fun x => { x with inst := some 3 } with insts := [(3, inst 3 5)] }
       s.OpsReady [] (quadDsts .x4) ∧ s.me.inst = some 3 ∧ s.instAt 3 = some (inst 3 5) ∧
       s.edgeHeld (dieOf s.cur.core) ((inst 3 5).owner / 4) = false)) ∧
    ((inst 0 5).rows ≤ (inst 0 5).rb ∧ (inst 3 0).cols = 0 ∧ (inst 3 5).rb < (inst 3 5).rows ∧ (inst 3 5).c < (inst 3 5).cols ∧
      (inst 3 5).c + min (max 4 1) ((inst 3 5).cols - (inst 3 5).c) < (inst 3 5).cols ∧
      (inst 3 5).c + min (max 5 1) ((inst 3 5).cols - (inst 3 5).c) = (inst 3 5).cols) ∧
    (let s := watched 15
     s.OpsReady (quadSrcs q4) [.x 15 false] ∧ (s.me.getX q4.q.code).toNat = 0x20038 ∧ 0x20038 % 8 = 0 ∧ 0x20038 / 8 % 8 + ((0 : BitVec 3).toNat + 1) ≤ 8 ∧
     8 < 0x20038 / 8 % 8 + ((1 : BitVec 3).toNat + 1) ∧ 0x20039 % 8 ≠ 0 ∧ s.Translates 0x20038 .load (xl 0 1 0x20038 0x20038) ∧
     paClass 0x20038 = 0 ∧ s.edgeHeld (dieOf s.cur.core) (s.homeSlice 0x20038 / 64) = false ∧ s.watchAt (s.homeSlice 0x20038) 15 = none ∧ (∀ g, g < 15 → s.watchAt (s.homeSlice 0x20038) g ≠ none) ∧
     (∀ f, f < 16 → (watched 16).watchAt (s.homeSlice 0x20038) f ≠ none)) ∧
    (landPage .load).Translates 0x20000 .load lx ∧ paClass lx.pa ≠ 0 ∧
    (let s := (regs base [(1, 2 ^ 32), (2, 2 ^ 12), (3, 15), (4, 14)]).updCl 0 fun c =>
        { c with watch := [(15, some ⟨15, 0x20000, 1, 0, 0, 0, false, 0, 0, false⟩)] }
     s.OpsReady [srcX (f1 1)] [.x 15 false] ∧ 2 ^ 32 ≤ (val s (f1 1)).toNat ∧ bitsAt (val s (f1 2)).toNat 12 4 ≠ 0 ∧
     { s with fuse := { s.fuse with clmask := [(0, 0)] } }.clusterPresent (bitsAt 15 4 8) = false ∧ s.clusterPresent 0 = true ∧
     s.edgeHeld (dieOf s.cur.core) (0 / 64) = false ∧
     s.watchAt 0 (15 % 16) = some ⟨15, 0x20000, 1, 0, 0, 0, false, 0, 0, false⟩ ∧ s.watchAt 0 (14 % 16) = none) := by
  refine ⟨⟨?_, ?_, ?_, ?_, ?_, ?_, ?_, ?_, ?_, answers_eq ?_, ?_, ?_, pushCode_ok ?_, pushCode_error ?_, ?_, pushCode_error ?_⟩, ?_, ?_,
    ⟨?_, ?_, ?_, ?_, ?_, ?_, answers_eq ?_, ?_, ?_, ?_, ?_, ?_⟩, answers_eq ?_, ?_, ?_⟩
  all_goals try unfold State.OpsReady
  all_goals try unfold State.Quiet
  all_goals try unfold State.MayRelease State.WayFree
  all_goals decide +kernel
/-! ### Witnesses: conflict batching, ergs, peers -/

/-- Items: one taken, one that shares its body, one that shares none. -/
def items : List Item := [⟨true, 0, 0, [7], 5, false⟩, ⟨false, 1, 1, [7], 6, false⟩, ⟨false, 2, 2047, [8], 0xFFFFFFFF, false⟩]

/-- A session of scope PK in slot 7. -/
def sess (closed : Bool) (l : List Item) : Session := ⟨0xFFFF, 3, 3, closed, l, []⟩

/-- Its handle. -/
def hand : Handle := ⟨0xFFFF, 3, 0, 7⟩

/-- A thread whose x1 and x7 hold that handle, in a cluster with that session and sessions in the slots below `n`. -/
def cbu (n : Nat) (v : Option Session) : State :=
  let s := regs (withV base { vecs with vl := 2 }) [(1, hand.word), (7, hand.word), (5, 0xFFFFFFFFFFFFFFFF), (2, wd (bitsAt 0 0 32)), (3, 7)]
  ((upTo n).foldl (fun (s : State) k => s.setSession 0 k (some ⟨k, 0, 0, false, [], []⟩)) s).setSession 0 7 v

/-- The vector state of a thread whose v9 holds `n` tokens of the first item. -/
def tokens (n : Nat) : VState := { vecs with vl := n, v := [(9, ⟨7, false, 7 * 2 ^ 43, []⟩)] }

/-- ConflictBatching: each bad target; full and free units; a stale handle, an open and a closed session; posts that fit, have entered, have lost their session; ready, none ready, drained; what ends a wait, with items and without; good and bad tokens, of a scalar and of a vector; each clause on items at its bounds. -/
theorem wit_ConflictBatching :
    (let s := cbu 7 none
     BatchReady s ∧ s.OpsReady [srcX (f1 1)] [.x 15 false] ∧ 2 ^ 11 ≤ (2048 : Nat) ∧ (bitAt 257 8 = true ∧ bitsAt 257 0 8 ≠ 0) ∧
     { s with fuse := { s.fuse with clmask := [(3, 0)] } }.clusterPresent (bitsAt 255 0 8) = false ∧ s.clusterPresent 255 = true ∧
     s.edgeHeld (dieOf s.cur.core) (255 / 64) = false ∧
     s.session 0 7 = none ∧ (∀ j, j < 7 → s.session 0 j ≠ none) ∧ (∀ k, k < 8 → (cbu 7 (some (sess false []))).session 0 k ≠ none) ∧
     s.OpsReady (quadSrcs q4) [] ∧ HandleIs s (s.me.getX (q4.q.code + 3)) hand ∧ HandleIs s (val s (f1 1)) hand ∧
     s.me.token = none ∧ s.MayRelease 3 1023 ∧ (releasesAt s 3).Quiet ∧ (releasesAt s 3).handleSession hand = none ∧
     s.handleSession hand = none) ∧
    (∀ l ∈ ([[], [3], [3, 7]] : List (List Word)), (base.updMe fun x => { x with token := some l }).me.token = some l) ∧
    (let s := cbu 0 (some (sess false items))
     (releasesAt s 3).handleSession hand = some (sess false items) ∧ (sess false items).closed = false ∧ ((releasesAt s 3).clAt 0).cbuPosts = [] ∧
     (releasesAt s 3).cbuFits 0 7 (postBodies (s.me.getX 5).toNat (s.me.getX 6).toNat) = true ∧
     s.handleSession hand = some (sess false items) ∧
     (sess false items).takes = [] ∧ (sess false items).ready = [⟨false, 2, 2047, [8], 0xFFFFFFFF, false⟩] ∧
     badToken (sess false items) 7 [7 * 2 ^ 11] = none ∧ badToken (sess false items) 7 [6 * 2 ^ 11] = some (4, 6 * 2 ^ 11) ∧
     badToken (sess false items) 7 [7 * 2 ^ 11 + 1] = some (3, 7 * 2 ^ 11 + 1) ∧ s.OpsReady [.x 2 true, srcX (f1 1)] []) ∧
    (let s := cbu 0 (some (sess true []))
     (releasesAt s 3).handleSession hand = some (sess true []) ∧ (sess true []).closed = true ∧
     s.handleSession hand = some (sess true []) ∧ (sess true []).ready = [] ∧ s.drained 0 7 (sess true []) = true ∧
     (cbu 0 (some (sess false []))).handleSession hand = some (sess false []) ∧
     (cbu 0 (some (sess false []))).drained 0 7 (sess false []) = false) ∧
    (let s := withV (cbu 0 (some (sess false items))) (tokens 1)
     s.OpsReady [srcX (f1 1)] [.v 31 false] ∧ (s.me.ergBit && !s.me.trapBit) = false ∧ s.me.vs = some (tokens 1) ∧ Fits s (tokens 1) [64] ∧
     (tokens 1).vl ≠ 0 ∧ (tokens 0).vl = 0 ∧ Fits s (tokens 0) [64] ∧ s.OpsReady [vopd (vr 9), srcX (f1 1)] [] ∧ hasEntry (tokens 1) (vr 9) ∧
     (arg s (tokens 1) (vr 9)).tag = some ⟨7, false⟩ ∧ tokensOf s (tokens 1) (vr 9) false 0 = [7 * 2 ^ 11] ∧
     tokensOf s (tokens 0) (vr 9) false 0 = [] ∧ (∀ r, (vr 9).op ≠ .bc r)) ∧
    (let i : Item := ⟨false, 2, 2047, [8], 0xFFFFFFFF, false⟩
     (sess false items).items = items.take 2 ++ i :: [] ∧ i.taken = false ∧ (∀ e ∈ items.take 2, ∀ b ∈ e.bodies, b ∉ i.bodies) ∧
     i.tseq < 2 ^ 17 ∧ 7 < 8 ∧ i.entry < 2 ^ 11 ∧ i.payload < 2 ^ 32) := by
  refine ⟨?_, ?_, ?_, ?_, ⟨?_, ?_, ?_, ?_, ?_, ?_, ?_, ?_, hasEntry_of ?_, ?_, ?_, ?_, fun r h => by cases h⟩, ?_⟩
  all_goals try unfold State.OpsReady
  all_goals try unfold State.Quiet
  all_goals try unfold State.MayRelease State.WayFree
  all_goals try unfold BatchReady
  all_goals try unfold HandleIs
  all_goals try unfold Fits
  all_goals decide +kernel

/-- Another core does not lend. -/
def unlent : State := base.updCore 1 fun k => { k with lend := false }
/-- Berth 7 of core 1 is not free. -/
def taken7 : State := base.updCtx ⟨1, 7⟩ fun x => { x with occ := .occupied }

/-- Ergs: an answer that has come; a member that does not lend; free members, and one that is not; each check; an erg's home, one in trap context, a thread in none. -/
theorem wit_Ergs :
    base.OpsReady [] [.x 15 false] ∧ (base.updMe fun x => { x with token := some [] }).me.token.isSome = true ∧
    (MayCompose base ∧ (∀ k ∈ ergOthers base.cur.core 4, (base.coreAt k).lend = true) ∧ (base.clAt (clusterOf base.cur.core)).ergQueue = [] ∧
      base.membersFree base.cur.core 4 = true) ∧
    (MayCompose unlent ∧ ∃ k ∈ ergOthers unlent.cur.core 2, (unlent.coreAt k).lend = false) ∧
    (MayCompose taken7 ∧ (∀ k ∈ ergOthers taken7.cur.core 2, (taken7.coreAt k).lend = true) ∧ taken7.membersFree taken7.cur.core 2 = false) ∧
    (let s := { base with cur := ⟨1024, 0⟩ }
     s.OpsReady [] [.x 0 false] ∧ s.me.token = none ∧ isSvc s.cur.core = true) ∧
    (let s := { base with cur := ⟨0, 8⟩ }
     s.me.token = none ∧ isSvc s.cur.core = false ∧ s.cur.isHandler = true) ∧
    (let s := base.updCore 0 fun k => { k with usrc := false }
     s.me.token = none ∧ isSvc s.cur.core = false ∧ s.cur.isHandler = false ∧ s.me.pl = 0 ∧ (s.coreAt s.cur.core).usrc = false ∧
     (s.updMe fun x => { x with pl := 1 }).me.pl ≠ 0) ∧
    ((base.coreAt base.cur.core).usrc = true ∧ (base.updMe fun x => { x with ergBit := true }).me.ergBit = true ∧ base.me.ergBit = false ∧
      vbase.me.ergBit = false ∧ vbase.me.vs ≠ none ∧
      ((base.updMe fun x => { x with lease := .lapsed }).me.vs = none ∧ (base.updMe fun x => { x with lease := .lapsed }).me.lease ≠ .none) ∧
      (base.me.lease = .none ∧ (fifoed base 1).ferryOpen base.cur.core base.me.uid = true ∧ (fifoed base 1).me.vs = none)) ∧
    (base.updMe fun x => { x with ergBit := true, ergSize := 4 }).me.composed = true ∧
    (let s := base.updMe fun x => { x with ergBit := true, ergSize := 4, trapBit := true }
     s.me.trapBit = true ∧ s.me.ergBit = true ∧ s.me.heldErg = true) ∧
    (base.me.composed = false ∧ (base.me.trapBit && base.me.ergBit) = false ∧ base.cur.isHandler = false ∧ isSvc base.cur.core = false ∧
      base.cur.idx < 8) := by
  refine ⟨?_, ?_, ⟨?_, ?_, ?_, ?_⟩, ⟨?_, 1, ?_, ?_⟩, ⟨?_, ?_, ?_⟩, ⟨?_, ?_, ?_⟩, ?_, ?_, ⟨?_, ?_, ?_, ?_, ?_, ?_⟩, ?_, ?_, ?_⟩
  all_goals try unfold State.OpsReady
  all_goals try unfold MayCompose
  all_goals decide +kernel

/-- A page of package 1, which a port reaches; and its translation. -/
def peered (leaf : Nat) (k : Kind) : State :=
  regs ((xlateM 0x20000 k).go { leafed (leaf + 2 ^ 56 + 2 ^ 45) with route := [(1, 0x10001)] }).2 [(1, 0x20000), (2, 5)]
def px (mode region : Nat) : Xl := xl mode region (2 ^ 50 + 2 ^ 39 + 0x20000) 0x20000

/-- An answer of package 1. -/
def answered (s : State) (op : PeerOp) (v : Nat) : State := s.updMe fun x => { x with asks := [⟨1, op, some (.value v)⟩] }

theorem answered_of (op : PeerOp) (v : Nat) : Answered (answered (peered sync .atomic) op v) (px 3 0).pa op v := by
  refine ⟨⟨1, op, some (.value v)⟩, ?_, rfl⟩
  have h : (answered (peered sync .atomic) op v).me.asks = [⟨1, op, some (.value v)⟩] := by
    unfold answered
    simp
  rw [h]
  have h1 : bitsAt (px 3 0).pa 39 10 = 1 := by decide
  simp [h1]

theorem peered_word (s : State) (n : Nat) (h : (decide (0x20000 % n = 0) && answers ((xlateM 0x20000 .atomic).go s) (px 3 0) s &&
      !s.heldBack s.cur.core (px 3 0).pa n) = true) : SyncWord s 0x20000 n (px 3 0) := by
  simp only [Bool.and_eq_true, decide_eq_true_eq, Bool.not_eq_true'] at h
  exact ⟨h.1.1, answers_eq h.1.2, by decide, by decide, by decide, h.2, fun h => absurd h (by decide)⟩

/-- PeerForms: loads of an UNCACHED and of a SYNC page; an atomic and a SCRUB; each lock and group instruction with its answer; one without; a result that returns. -/
theorem wit_PeerForms :
    (let s := peered uncached .load
     s.OpsReady [srcX (f1 1)] [.x 15 false] ∧ Open s [⟨px 2 1, 0, 8⟩] false ∧ paClass (px 2 1).pa = 2 ∧ 2 ≤ (px 2 1).mode ∧
     Access s (addr s (f1 1) (0 : BitVec 24)) 8 .load (plainCheck true 8) [⟨px 2 1, 0, 8⟩]) ∧
    (let s := peered sync .load
     Open s [⟨px 3 0, 0, 8⟩] false ∧ s.me.token = none ∧ addr s (f1 1) (0 : BitVec 24) % 8 = 0 ∧
     Access s (addr s (f1 1) (0 : BitVec 24)) 8 .load syncCheck [⟨px 3 0, 0, 8⟩]) ∧
    (∃ r, (amoPerform .add true .rlx 15 (px 2 1) 1 0).go (peered uncached .atomic) = (.ok (), r)) ∧ ordAcq .rlx = none ∧
    (let s := peered uncached .store
     s.OpsReady [srcX (f1 1), srcX (f1 2)] [] ∧ addr s (f1 1) (0 : BitVec 24) % 8 = 0 ∧
     Access s (addr s (f1 1) (0 : BitVec 24)) 8 .store scrubCheck [⟨px 2 1, 0, 8⟩] ∧ Open s [⟨px 2 1, 0, 8⟩] true) ∧
    (let s := peered sync .atomic
     addr s (f1 1) (0 : BitVec 24) = 0x20000 ∧ (val s (f1 1) + ((0 : BitVec 16).signExtend 24).signExtend 64).toNat = 0x20000 ∧ s.me.asks = [] ∧
     SyncWord s 0x20000 16 (px 3 0)) ∧
    (∀ op v, op ∈ [PeerOp.qacq 0x20000 (peered sync .atomic).identMe false, .qacq 0x20000 (peered sync .atomic).identMe true,
        .qrel 0x20000 (peered sync .atomic).identMe false, .qrel 0x20000 (peered sync .atomic).identMe true,
        .qtry 0x20000 (peered sync .atomic).identMe, .group 0 0x20000, .group 1 0x20000, .group 2 0x20000] → v ∈ [0, 1] →
      let s := answered (peered sync .atomic) op v
      s.OpsReady [srcX (f1 1)] [.x 15 false] ∧ s.me.token = none ∧ s.cur.isHandler = false ∧ SyncWord s 0x20000 8 (px 3 0) ∧
      SyncWord s 0x20000 16 (px 3 0) ∧ Answered s (px 3 0).pa op v) ∧
    (let r : Pend := ⟨4, 0, 0, .x 15, [], VReg.zero, 0, none, .peer 1, (8, true), [], 0, 0⟩
     let s := { base with pend := [r] }
     s.pendAt 4 = some r ∧ s.inStream 4 = false) := by
  have h : ∀ op v, op ∈ [PeerOp.qacq 0x20000 (peered sync .atomic).identMe false, .qacq 0x20000 (peered sync .atomic).identMe true,
      .qrel 0x20000 (peered sync .atomic).identMe false, .qrel 0x20000 (peered sync .atomic).identMe true,
      .qtry 0x20000 (peered sync .atomic).identMe, .group 0 0x20000, .group 1 0x20000, .group 2 0x20000] → v ∈ [0, 1] →
      (let s := answered (peered sync .atomic) op v
       (s.me.failedSrc [srcX (f1 1)] = none ∧ s.me.waitsSrc [srcX (f1 1)] = false ∧ s.me.waitsDst [.x 15 false] = false ∧
         ([srcX (f1 1)].any Opd.isLast = true → s.lastDue s.me.uid = false) ∧ s.me.token = none ∧
         s.cur.isHandler = false ∧ answers ((xlateM 0x20000 .atomic).go s) (px 3 0) s = true ∧ s.heldBack s.cur.core (px 3 0).pa 8 = false ∧
         s.heldBack s.cur.core (px 3 0).pa 16 = false)) := by
    intro op v hop hv
    simp only [List.mem_cons, List.not_mem_nil, or_false] at hop hv
    rcases hv with rfl | rfl <;> rcases hop with rfl | rfl | rfl | rfl | rfl | rfl | rfl | rfl <;> decide +kernel
  refine ⟨⟨?_, ?_, ?_, ?_, answers_eq ?_⟩, ⟨?_, ?_, ?_, answers_eq ?_⟩, ⟨_, answers_eq (s := ((amoPerform .add true .rlx 15 (px 2 1) 1 0).go (peered uncached .atomic)).2) ?_⟩, ?_,
    ⟨?_, ?_, answers_eq ?_, ?_⟩, ⟨?_, ?_, ?_, peered_word _ 16 ?_⟩, ?ans, ?_⟩
  case ans =>
    intro op v hop hv
    obtain ⟨h1, h2, h3, h0, h4, h5, h6, h7, h8⟩ := h op v hop hv
    exact ⟨⟨h1, h2, h3, h0⟩, h4, h5, peered_word _ 8 (by rw [h6, h7]; rfl), peered_word _ 16 (by rw [h6, h8]; rfl), answered_of op v⟩
  all_goals try unfold State.OpsReady
  all_goals try unfold Open
  all_goals decide +kernel
/-! ### Witnesses: events -/

/-- The line of the acting context is fetched and malformed, or well formed with its address among the heads. -/
def fetchIs (s : State) (good : Bool) : Bool :=
  let pc := s.me.pc
  match (fetchBytes (pc / 64 * 64)).go s with
  | (.ok b, s') => decide (s'.me = s.me) &&
    match lineOk b with
    | none => !good
    | some h => good && pc % 2 == 0 && decide (1 ≤ pc % 64 / 2) && decide (pc % 64 / 2 ≤ h.n) && !(h.pe && h.pm ≠ 0)
  | _ => false

theorem fetchIs_good {s : State} (h : fetchIs s true = true) : ∃ b k s', (fetchBytes (s.me.pc / 64 * 64)).go s = (.ok b, s') ∧ lineOk b = some k ∧
    s'.me = s.me ∧ s.me.pc % 2 = 0 ∧ 1 ≤ s.me.pc % 64 / 2 ∧ s.me.pc % 64 / 2 ≤ k.n ∧ (k.pe && k.pm ≠ 0) = false := by
  simp only [fetchIs] at h
  split at h
  · rename_i b s' hb
    simp only [Bool.and_eq_true, decide_eq_true_eq] at h
    obtain ⟨h1, h2⟩ := h
    split at h2
    · cases h2
    · rename_i k hk
      simp only [Bool.and_eq_true, Bool.true_and, beq_iff_eq, decide_eq_true_eq, Bool.not_eq_true'] at h2
      exact ⟨b, k, s', hb, hk, h1, h2.1.1.1, h2.1.1.2, h2.1.2, by simpa using h2.2⟩
  · cases h

theorem fetchIs_bad {s : State} (h : fetchIs s false = true) : ∃ b s', (fetchBytes (s.me.pc / 64 * 64)).go s = (.ok b, s') ∧ lineOk b = none ∧
    s'.me = s.me := by
  simp only [fetchIs] at h
  split at h
  · rename_i b s' hb
    simp only [Bool.and_eq_true, decide_eq_true_eq] at h
    obtain ⟨h1, h2⟩ := h
    split at h2
    · rename_i hk
      exact ⟨b, s', hb, hk, h1⟩
    · simp at h2
  · cases h

/-- The computation ends in a trap. -/
def trapsIn {α : Type} (r : Except Stop α × State) : Bool :=
  match r with
  | (.error (.trap _ _ _), _) => true
  | _ => false

theorem trapsIn_eq {α : Type} {r : Except Stop α × State} (h : trapsIn r = true) : ∃ c v m s', r = (.error (.trap c v m), s') := by
  obtain ⟨r, t⟩ := r
  cases r with
  | error e => cases e <;> first | exact ⟨_, _, _, t, rfl⟩ | cases h
  | ok b => cases h

/-- A thread that has yet to enter its line. -/
def outside (pc : Nat) : State := base.updMe fun x => { x with occ := .occupied, line := none, pc := pc, uid := 1 }

/-- A result on its way to x15 of that thread, which fails or not. -/
def arriving (fail : Option (Nat × Nat × Nat)) (key : Nat) : Pend := ⟨4, key, 1, .x 15, [5], VReg.zero, 0, fail, .here, (64, false), [], 0, 0⟩

/-- A berth that drains. -/
def drains (s : State) (c : CtxId) : State := s.updCtx c fun x => { x with occ := .draining, uid := 1 }

/-- MachineEvents: a present cluster; a good line, a malformed one, one that does not exist; a core that selects after a handler, one that selects a handler, one that has selected; a hold that has ended and one that has not; results; a move; a bank that may return; draining with and without results. -/
theorem wit_MachineEvents :
    (base.clusterPresent 255 = true ∧ (base.clAt 255).frozen = none) ∧
    (let s := outside (placeAddr + 2)
     (CtxId.mk 0 0).idx < 8 ∧ s.live ⟨0, 0⟩ = true ∧ (s.ctxAt ⟨0, 0⟩).line = none ∧ (s.ctxAt ⟨0, 0⟩).regErr = none ∧
     ∃ b k s', (fetchBytes (s.me.pc / 64 * 64)).go s = (.ok b, s') ∧ lineOk b = some k ∧ s'.me = s.me ∧ s.me.pc % 2 = 0 ∧
       1 ≤ s.me.pc % 64 / 2 ∧ s.me.pc % 64 / 2 ≤ k.n ∧ (k.pe && k.pm ≠ 0) = false) ∧
    (let s := outside (placeAddr + 0x102)
     s.live ⟨0, 0⟩ = true ∧ ∃ b s', (fetchBytes (s.me.pc / 64 * 64)).go s = (.ok b, s') ∧ lineOk b = none ∧ s'.me = s.me) ∧
    (let s := outside (2 ^ 40 + 2)
     s.live ⟨0, 0⟩ = true ∧ ∃ c v m s', (fetchBytes (s.me.pc / 64 * 64)).go s = (.error (.trap c v m), s')) ∧
    (let s := (outside (placeAddr + 2)).updCore 0 fun k => { k with hprev := true, seen := 0 }
     let s₁ := s.updCore 0 fun k => { k with seen := s.fc + 1 }
     s.corePresent 0 = true ∧ s.coreDead 0 = false ∧ (s.coreAt 0).seen = s.fc ∧ (s.coreAt 0).hprev = true ∧
     s₁.berthReady encoded 0 0 = true ∧ s₁.held (s₁.berthCtx 0 0) = false ∧ (∃ c, (s.select encoded 0).1 = some c)) ∧
    (let s := (inLine ⟨0, 9⟩ 0 (2 ^ 31 - 1)).updCore 0 fun k => { k with seen := 0 }
     (s.coreAt 0).seen = s.fc ∧ (s.coreAt 0).hprev = false ∧ (s.updCore 0 fun k => { k with seen := s.fc + 1 }).ready encoded ⟨0, 8 + 1⟩ = true ∧
     base.fc < (base.coreAt 0).seen) ∧
    (let s := { base.updMe fun x => { x with hold := some 8 } with fc := 8 }
     (s.ctxAt ⟨0, 0⟩).hold = some 8 ∧ 8 ≤ s.fc ∧ 7 < 8) ∧
    (∀ f, f ∈ [none, some (Cause.poison, 0, 0)] →
      let s := { outside 0 with pend := [arriving f 0] }
      s.pendAt 4 = some (arriving f 0) ∧ s.inStream 4 = false ∧ (arriving f 0).dst = .x 15 ∧ (arriving f 0).origin.isPeer = false ∧
      (arriving f 0).origin.isBase = false ∧ (arriving f 0).origin.isRecall = false ∧ s.resultHeld (arriving f 0) = false ∧ s.ctxOf (arriving f 0).uid = some ⟨0, 0⟩ ∧
      (s.ctxAt ⟨0, 0⟩).uid = (arriving f 0).uid ∧ (s.ctxAt ⟨0, 0⟩).occ ≠ .free ∧ (arriving f 0).fail = f) ∧
    ((base.updMe fun x => { x with moving := some (15, 7) }).ctxAt ⟨0, 0⟩).moving = some (15, 7) ∧
    (let s := base.updCore 1023 fun k => { k with banks := 17 }
     s.corePresent 1023 = true ∧ isSvc 1023 = false ∧ ((s.coreAt 1023).vrfb < (s.coreAt 1023).banks ∧ s.grantedRows 1023 + 64 ≤ 64 * (s.coreAt 1023).banks) ∧
     ¬ ((base.coreAt 1023).vrfb < (base.coreAt 1023).banks)) ∧
    (let s := drains base ⟨0, 7⟩
     (s.ctxAt ⟨0, 7⟩).occ = .draining ∧ (s.ctxAt ⟨0, 7⟩).saving = false ∧ s.awaits ⟨0, 7⟩ = false ∧ (s.ctxAt ⟨0, 7⟩).stream = [] ∧
     { s with pend := [arriving none 7] }.awaits ⟨0, 7⟩ = true ∧
     (let s := s.updCtx ⟨0, 7⟩ fun x => { x with saving := true }
      (s.ctxAt ⟨0, 7⟩).occ = .draining ∧ (s.ctxAt ⟨0, 7⟩).saving = true ∧ s.saveReady ⟨0, 7⟩ = true)) := by
  have h : (let s := (outside (placeAddr + 2)).updCore 0 fun k => { k with hprev := true, seen := 0 }
      ((s.select encoded 0).1).isSome = true) := by decide +kernel
  refine ⟨?_, ⟨?_, ?_, ?_, ?_, fetchIs_good ?_⟩, ⟨?_, fetchIs_bad ?_⟩, ⟨?_, trapsIn_eq ?_⟩, ⟨?_, ?_, ?_, ?_, ?_, ?_, Option.isSome_iff_exists.1 h⟩, ?_, ?_, ?_, ?_, ?_, ?_⟩
  all_goals decide +kernel

/-- A message to channel 5 of core 0. -/
def mess (rep refused : Bool) (core : Nat) : Msg := ⟨rep, core, 0, 5, 0, 0, 0, 8, [1, 2, 3, 4], refused, 7, false, false⟩

/-- A core whose handler table has channel 5 enabled, with `n` REQ messages in its mailbox and a policy. -/
def boxed (n : Nat) (pol : Bool) : State :=
  let s := (leafed owned).updCore 0 fun k =>
    { k with htab := 0x20000, hptbase := base.me.ptbase, hsup := true, mboxpol := pol, box := (upTo n).map fun _ => mess false false 0 }
  poke s 0x20058 (2 ^ 18)

/-- The channel of a message is enabled, or not, and the mailbox is full, or not. -/
theorem chan_of {s : State} {m : Msg} {e : Bool} (h : (s.chanEnabled m.dstCore m.chan).1 = e) :
    s.chanEnabled m.dstCore m.chan = (e, (s.chanEnabled m.dstCore m.chan).2) := by rw [← h]

/-- MessageEvents: REQ, REP and refused messages in flight; a mailbox with room, a full one under each policy; a disabled channel; a core that is dead; held messages; a handler slot free and not; a notice; a slot that drains. -/
theorem wit_MessageEvents :
    (let s := { base with msgs := [mess false false 0, mess true false 0, mess true true 1] }
     s.flight 0 = some (mess false false 0) ∧ s.flight 1 = some (mess true false 0) ∧ s.flight 2 = some (mess true true 1) ∧
     (let m := { mess true false 0 with dstPkg := 1 }
      m.rep = true ∧ m.refused = false ∧ m.srcPkg = s.pkgid ∧ m.dstPkg ≠ s.pkgid ∧ ¬ (mess true false 0).dstPkg ≠ s.pkgid)) ∧
    (∃ s', Welcome (boxed 31 false) s' (mess false false 0) ∧ (s'.coreAt 0).boxFull false = false) ∧
    (∃ s', Welcome (boxed 32 false) s' (mess false false 0) ∧ (s'.coreAt 0).boxFull false = true ∧ (s'.coreAt 0).mboxpol = false) ∧
    (∃ s', Welcome (boxed 32 true) s' (mess false false 0) ∧ (s'.coreAt 0).boxFull false = true ∧ (s'.coreAt 0).mboxpol = true) ∧
    (base.corePresent 0 = true ∧ base.coreDead 0 = false ∧ base.chanEnabled 0 5 = (false, base)) ∧
    (let s := base.updCore 0 fun k => { k with held := [mess true false 0, mess false false 0] }
     ((s.coreAt 0).held.filter fun m => m.rep == false)[0]? = some (mess false false 0) ∧ (s.coreAt 0).boxFull false = false ∧
     ((((s.coreAt 0).held.filter fun m => m.rep == false).take 0).any fun h => sameSender h (mess false false 0)) = false) ∧
    (base.corePresent 0 = true ∧ base.coreDead 0 = false ∧ ((base.updCtx ⟨0, 8⟩ fun x => { x with occ := .occupied }).updCtx ⟨0, 9⟩ fun x => { x with occ := .occupied }).freeSlot 0 = none) ∧
    { base with notices := [3, 1023] }.notices[1]? = some 1023 ∧
    (let s := drains base ⟨0, 8 + 1⟩
     (s.ctxAt ⟨0, 8 + 1⟩).occ = .draining ∧ s.awaits ⟨0, 8 + 1⟩ = false ∧ { s with pend := [arriving none 9] }.awaits ⟨0, 8 + 1⟩ = true) := by
  refine ⟨?_, ⟨_, ⟨?_, ?_, chan_of ?_, ?_⟩, ?_⟩, ⟨_, ⟨?_, ?_, chan_of ?_, ?_⟩, ?_⟩, ⟨_, ⟨?_, ?_, chan_of ?_, ?_⟩, ?_⟩, ?_, ?_, ?_, ?_, ?_⟩
  all_goals decide +kernel

/-- Instances in one state. -/
def withInsts (l : List Inst) : State := { base with insts := (upTo l.length).map (fun k => (k, l.getD k (inst 0 0))), fc := 160001 }

/-- Every berth of the only cluster holds a thread; that of core 0's berth 0 is of instance 0. -/
def packed : State :=
  let s := withInsts [{ inst 1 1 with prio := 0, started := 1, st := .live }, { inst 1 1 with prio := 1, diemask := 15, qmask := 15, started := 0, threads := 0 }]
  let s := { s with fuse := { s.fuse with clmask := [(0, 1), (1, 0), (2, 0), (3, 0)] } }
  let s := (upTo 4).foldl (fun (s : State) k => (upTo 8).foldl (fun (s : State) b => s.updCtx ⟨k, b⟩ fun x => { x with occ := .occupied }) s) s
  ((s.updCtx ⟨0, 0⟩ fun x => { x with inst := some 0 }).updCore 0 fun k => { k with saveN := 1, saveBase := 0x40000 }).updDisp 0 fun d => d.enqueue 1 1

/-- An instance whose threads have ended, with a completion word. -/
def endedInst : Inst := { inst 1 1 with st := .live, threads := 0, ferries := 0, compl := 0x20000, ptbase := base.me.ptbase, started := 1 }

/-- The state in which a completing instance has released what the cores have written (R71). -/
def releasedAll (s : State) : State := (s.releaseAllHomes.foldl (fun (s : State) a => s.reach a.1 a.2.1 a.2.2) s).releaseAll

/-- A dirty word of another die in the L1 of core 0, and no way to its home. -/
def stuck (s : State) : State :=
  { s with edgeFail := [(0, 1)] }.updCore 0 fun k => { k with l1 := [(2 ^ 34, ⟨0, 0, true, false, none, false, 0, 0, none⟩)] }

/-- TaskEvents: the first match of a cluster and a second one; a word at its threshold, below it, poisoned; a dispatcher with nothing to enter; a thread to start; an instance that may rise, and one that may not; a victim, and none; a core without saved threads; an instance that is over, with and without a completion word, and one that is not. -/
theorem wit_TaskEvents :
    (let w : Watch := ⟨0, 0x20000, 1, 0, 0, 0, false, 0, 0, false⟩
     let s := { base with hits := [⟨0, w⟩, ⟨0, w⟩] }
     s.hits[0]? = some ⟨0, w⟩ ∧ ((s.hits.take 0).any fun e => e.cl == 0) = false ∧ s.hits[1]? = some ⟨0, w⟩ ∧ ((s.hits.take 1).any fun e => e.cl == 0) = true) ∧
    (let v := { inst 1 1 with st := .pending, depPa := 0x20000, depThr := 5 }
     let s := { withInsts [v] with insts := [(0, v)] }
     s.instAt 0 = some v ∧ v.st = .pending ∧ s.heldBack (1024 + v.owner) v.depPa 8 = false ∧ (s.homeWord (v.depPa / 8)).2 = false ∧ (s.homeWord (v.depPa / 8)).1.toNat < v.depThr ∧
     v.depThr ≤ ((poke s 0x20000 5).homeWord (v.depPa / 8)).1.toNat ∧ ((s.setPoison (0x20000 / 8) true).homeWord (v.depPa / 8)).2 = true) ∧
    (base.dispDead 15 = false ∧ (base.dispAt 15).satisfied = []) ∧
    (let s := (withInsts [inst 3 5]).updDisp 0 fun d => d.enqueue 0 0
     (∃ i v c, s.dispatchNext 0 = some (i, v, c)) ∧ s.instAt 0 = some (inst 3 5) ∧ (inst 3 5).owner = 0 ∧ s.ages (inst 3 5) = true ∧
     ({ s with fc := 160000 } : State).ages (inst 3 5) = false) ∧
    ((∃ c, packed.dispVictim 0 = some c) ∧ base.dispVictim 0 = none ∧ packed.dispDead 0 = false) ∧
    (base.coreDead 1023 = false ∧ (base.coreAt 1023).saved = []) ∧
    (let v := { endedInst with compl := 0 }
     let s := { withInsts [v] with insts := [(0, v)] }
     s.instAt 0 = some v ∧ s.instOver v = true ∧ (releasedAll s).lacks = s.lacks ∧ (releasedAll s).releasing = false ∧ (releasedAll s).complBlocked v = false ∧
     s.instOver (inst 3 5) = false ∧
     (let s := stuck s
      s.instOver v = true ∧ (releasedAll s).lacks ≠ s.lacks) ∧
     (let s := { s with pend := [{ arriving none 15 with dst := .none, origin := .peer 1 }] }
      (releasedAll s).lacks = s.lacks ∧ ((releasedAll s).releasing || (releasedAll s).complBlocked v) = true)) ∧
    (let s := { leafed uncached with insts := [(0, endedInst)] }
     endedInst.lost = 0 ∧ endedInst.compl ≠ 0 ∧
     (∃ x s', s.complXl (pushSpace endedInst.ptbase endedInst.asid endedInst.psup endedInst.owner) endedInst.compl = (some x, s') ∧ paClass x.pa = 0 ∧
       s'.heldBack (1024 + endedInst.owner) x.pa 8 = false ∧
       (s'.homePut x.pa 8 ((s'.homeBytes x.pa 8 + 1) % 2 ^ 64)).1 = none)) := by
  have h1 : (((withInsts [inst 3 5]).updDisp 0 fun d => d.enqueue 0 0).dispatchNext 0).isSome = true := by decide +kernel
  have h2 : (packed.dispVictim 0).isSome = true := by decide +kernel
  have h3 : ({ leafed uncached with insts := [(0, endedInst)] } : State).complXl (pushSpace endedInst.ptbase endedInst.asid endedInst.psup endedInst.owner) endedInst.compl =
      (some (xl 2 1 0x20000 0x20000),
        (({ leafed uncached with insts := [(0, endedInst)] } : State).complXl (pushSpace endedInst.ptbase endedInst.asid endedInst.psup endedInst.owner) endedInst.compl).2) := by
    decide +kernel
  obtain ⟨r, hr⟩ := Option.isSome_iff_exists.1 h1
  refine ⟨?_, ?_, ?_, ⟨⟨r.1, r.2.1, r.2.2, hr⟩, ?_, ?_, ?_, ?_⟩, ⟨Option.isSome_iff_exists.1 h2, ?_, ?_⟩, ?_, ?_, ?_, ?_, _, _, h3, ?_, ?_, ?_⟩
  all_goals decide +kernel
/-! ### Witnesses: the host, peers, units, registers -/

/-- A context that waits at a write-blocked page. -/
def blockedAt (since last fc : Nat) : State := { base.updMe fun x => { x with wait := some (.writeBlock since last 0x20000) } with fc := fc }

/-- An atomic forwarded to a base die. -/
def based (pa : Nat) : BaseOp := ⟨pa, .add, true, 1, 0, 0, 0, 0, 0⟩

/-- HostAndCacheEvents: the link down; a module not booted; a host offset, clean, poisoned and free of holders; a masked vector and one that is not; an idle port and a busy one, held and not; a page that is blocked, before and after each time, outside an erg; a way that is open; a clean L1, a dirty and a registered word of one; a registered word; host memory; a lane that turns; the first atomic of a line and a second one. -/
theorem wit_HostAndCacheEvents :
    { base with cxlDown := true }.cxlDown = true ∧
    (base.cxlDown = false ∧ ({ base with bootstat := 0 } : State).booted = false) ∧
    (HostReaches base 0x20000 8 ∧ base.hostPa 0x20000 = some 0x20000 ∧ 0x20000 % 8 = 0 ∧ ([1, 2, 3, 4, 5, 6, 7, 8] : List Byte).length = 8 ∧
      (base.homePut 0x20000 8 (bytesVal [1, 2, 3, 4, 5, 6, 7, 8])).1 = none ∧ base.poisoned (0x20000 / 8) = false ∧ base.holder (0x20000 / 8) = none) ∧
    (HostReaches base 0x20005 12 ∧ base.booted = true ∧ base.hostHeld (base.hostPieces 0x20005 12) = false ∧
      (hostPuts base 5 false (base.hostPieces 0x20005 12)).1 = [] ∧ (∀ p ∈ base.hostPieces 0x20005 12, base.poisonIn p.2.1 p.2.2 = none) ∧
      base.hostPieces (2 ^ 39) 8 = [] ∧
      (let s := base.setPoison (0x20008 / 8) true
       HostReaches s 0x20005 12 ∧ (hostPuts s 5 false (s.hostPieces 0x20005 12)).1 = (3, 0) :: [] ∧
       ∃ p ∈ s.hostPieces 0x20005 12, s.poisonIn p.2.1 p.2.2 ≠ none) ∧
      ({ base with edgeFail := [(0, 1)] } : State).hostHeld (base.hostPieces (2 ^ 37) 8) = true) ∧
    (bitAt { base with msixMask := 0 }.msixMask 15 = false ∧ bitAt base.msixMask 15 = true) ∧
    ((base.sdPort 15).busy = false ∧ bitsAt (0x8 : Word).toNat 2 2 ≠ 3 ∧ 15 < 16) ∧
    (let s := base.setSd 15 ⟨0x20000, 1, 0x20000, 1, 0xFFFFFFFF, false, true⟩
     (s.sdPort 15).busy = true ∧ (s.sdDrain (s.sdPort 15)).sdHeld (s.sdPort 15) = false ∧
     (let s := s.updMe fun x => { x with stream := [⟨.scale 0 0x20000 [(2, ⟨2, 0, 1, false, 0⟩)], false, 0⟩] }
      (s.sdDrain (s.sdPort 15)).sdHeld (s.sdPort 15) = true)) ∧
    (((blockedAt 0 0 1024).ctxAt ⟨0, 0⟩).wait = some (.writeBlock 0 0 0x20000) ∧ 0 + 1024 ≤ (blockedAt 0 0 1024).fc ∧ (blockedAt 0 0 1023).fc < 0 + 1024 ∧
      0 + 1048576 ≤ (blockedAt 0 1048575 1048576).fc ∧ (blockedAt 0 0 1048575).fc < 0 + 1048576) ∧
    (base.heldBack 0 (64 * 2 ^ 31) 64 = false ∧ base.heldBack ((clusterCores 0).headD 0) (64 * 2 ^ 31) 64 = false ∧
      base.heldBack (4 * base.homeSlice (64 * 2 ^ 31)) (64 * 2 ^ 31) 64 = false) ∧
    (let s := cached
     s.l1 0 (8 * 1 + 1) = some ⟨1, 1, true, false, none, false, 0, 0, none⟩ ∧ s.l1 0 (8 * 1 + 2) = some ⟨1, 1, false, true, none, false, 0, 0, none⟩ ∧
     paClass (8 * (8 * 1 + 1)) = 0 ∧ s.poisoned (8 * 1 + 1) = false ∧ s.near (clusterOf 0) (8 * 1 + 1) = none) ∧
    (∀ k e, k < 8 → base.l1 0 (8 * 4096 + k) = some e → e.dirty = false ∧ e.reg = false) ∧
    (let s := { base with reg := [(0x4000, some (.near 0))] }
     (s.holder 0x4000).isSome = true ∧ s.corePresent 1023 = true ∧ s.coreDead 1023 = false ∧ s.heldBack 1023 (8 * 0x4000) 8 = false) ∧
    (paClass (3 * 2 ^ 49) = 3 ∧ base.cxlDown = false ∧ base.clusterPresent 255 = true ∧ ({ base with bootstat := 0 } : State).booted = false) ∧
    KMap.find none { base with mbiNext := [(7, some 2)] }.mbiNext 7 = some 2 ∧
    (let s := { base with baseq := [based 0x20000, based 0x20038] }
     s.baseq[0]? = some (based 0x20000) ∧ ((s.pendAt (based 0x20000).pend).all fun p => p.origin.isBase) = true ∧ ((s.baseq.take 0).any fun a => a.pa / 64 == (based 0x20000).pa / 64) = false ∧
     s.baseq[1]? = some (based 0x20038) ∧ ((s.baseq.take 1).any fun a => a.pa / 64 == (based 0x20038).pa / 64) = true) := by
  refine ⟨?_, ?_, ?_, ?_, ?_, ?_, ?_, ?_, ?_, ?_, fun k e hk he => ?_, ?_, ?_, ?_, ?_⟩
  case refine_11 =>
    have h : ∀ k, k < 8 → base.l1 0 (8 * 4096 + k) = none := by decide +kernel
    rw [h k hk] at he
    cases he
  all_goals try unfold HostReaches State.WayFree
  all_goals decide +kernel

/-- A page of package 1. -/
def page1 : Nat := (2 ^ 50 + 2 ^ 39) / 65536

/-- The lease record of page 2. -/
def leased2 (r : LeaseRec) : State := base.setLease 2 r

/-- A request of 2^20 fc ago that core 5 has not answered. -/
def silent : State := { base with pend := [{ arriving none 0 with origin := .fwd (.l1 5), pa := 0x20000 }], fc := 1048576 }

/-- PeerAndLinkEvents: a page that is not granted yet; a page of this module without readers, with one that renews, one whose lease has ended, another that still reads; a writer, asked to return and not; grants held, read before and after its end, and write; requests that exist, that do not, to a lock; another incarnation; a thread; an edge, a port; agents alive, dead, overdue, and their counts. -/
theorem wit_PeerAndLinkEvents :
    (let s := { base with route := [(1, 0x10001)] }
     foreignPage page1 = true ∧ bitsAt (page1 * 65536) 39 10 = 1 ∧ 1 ≠ s.pkgid ∧ s.reached 1 = true ∧ KMap.find none s.grants page1 = none ∧ s.lacks = [] ∧
     s.grantHeld 1 page1 = false ∧ (let s : State := { s with route := [(1, 0x10010)], edgeFail := [(0, 1)] }
      s.reached 1 = true ∧ s.grantHeld 1 page1 = true ∧ s.lacks = [])) ∧
    (foreignPage 2 = false ∧ 1 ≠ base.pkgid ∧ (base.agent (.pkg 1)).dead = false ∧ base.exists (2 * 65536) = true ∧
      (base.lease 2).asks = [] ∧ (base.lease 2).writer = none ∧ (base.lease 2).recalled = none ∧ base.grantHeld 1 2 = false ∧
      ((leased2 ⟨1, [], some 3, some 0, []⟩).lease 2).recalled.isSome = true ∧ (∀ e ∈ (base.lease 2).readers, e.1 = 1 → e.2 ≤ base.fc) ∧
      (∀ e ∈ ((leased2 ⟨1, [(1, 0)], none, none, []⟩).lease 2).readers, e.1 = 1 → e.2 ≤ base.fc) ∧
      (∃ e ∈ ((leased2 ⟨1000, [(1, 1)], none, none, []⟩).lease 2).readers, e.1 = 1 ∧ base.fc < e.2) ∧
      (leased2 ⟨1, [(1, 1)], none, none, []⟩).leasesLeft 2 1 = false ∧ (leased2 ⟨1, [(3, 1)], none, none, []⟩).leasesLeft 2 1 = true) ∧
    (let g : PageGrant := ⟨1, false, 8⟩
     KMap.find none { base with grants := [(page1, some g)], fc := 8 }.grants page1 = some g ∧ g.write = false ∧
      g.ends ≤ ({ base with fc := 8 } : State).fc ∧ ({ base with fc := 7 } : State).fc < g.ends ∧
      KMap.find none { base with grants := [(page1, some ⟨1, true, 8⟩)] }.grants page1 = some ⟨1, true, 8⟩ ∧
      (let s : State := { base with grants := [(page1, some g)] }
       (s.dropGrant page1).lacks = s.lacks ∧ ((s.dropGrant page1).sendGrant 1 page1 (.back page1)).lacks = s.lacks)) ∧
    (((leased2 ⟨1, [], some 3, none, []⟩).lease 2).writer = some 3 ∧ ((leased2 ⟨1, [], some 3, none, []⟩).lease 2).recalled = none ∧
      (base.lease 2).writer ≠ some 3 ∧ base.grantHeld 3 2 = false ∧ 256 % 256 = (base.agent (.pkg 3)).inc ∧ 255 % 256 ≠ (base.agent (.pkg 3)).inc) ∧
    ((∃ e ∈ ((leased2 ⟨1, [(1, 0)], none, none, []⟩).lease 2).readers, e.1 = 1 ∧ e.2 ≤ base.fc) ∧
      (∀ e ∈ ((leased2 ⟨1, [(1, 1)], none, none, [⟨3, true⟩]⟩).lease 2).readers, e.1 = 1 → base.fc < e.2)) ∧
    (Heard base 1 256 ∧ PeerReaches base 0x20000 1 ∧ PeerReaches (leased2 ⟨1, [], some 1, none, []⟩) 0x20000 1 ∧
      (let s : State := { base with fuse := { base.fuse with stkcfg := [(0, 0), (1, 0)] } }
       Heard s 1 256 ∧ s.exists 0 = false)) ∧
    (base.lacks = [] ∧ ((fun s : State => s.lack none) base).lacks = [none] ∧
      (let s := leased2 ⟨1, [], some 3, none, []⟩
       ((fun s : State => s.lack (some 2)) s).lacks = [some 2])) ∧
    (let s := cbu 0 (some (sess false items))
     s.session 0 7 = some (sess false items) ∧ ∀ e ∈ (s.clAt 0).sessions, e.1 = 7 → e.2 = some (sess false items)) ∧
    (base.exists 0x20000 = true ∧ base.poisonIn 0x20000 8 = none ∧ base.poisonIn 0x20000 16 = none ∧
      bitsAt ((stored8 base 0x20000 (2 ^ 50)).homeBytes 0x20000 8) 50 13 ≠ 0) ∧
    (base.ctxAt ⟨0, 0⟩).occ ≠ .free ∧
    ((0 = Nat.xor 1 1 ∨ 0 = Nat.xor 1 2) ∧ (min 1 0, max 1 0) ∉ base.edgeFail) ∧
    (base.agentValid (.core 1023) = true ∧ (base.agent (.core 1023)).dead = false ∧ base.agentValid (.pkg 1) = true ∧ base.agentValid (.die 3) = true ∧
      ((base.markDead (.die 3)).agent (.die 3)).dead = true ∧ 256 % 256 = (base.agent (.core 0)).inc ∧ 255 % 256 ≠ (base.agent (.core 0)).inc ∧
      0x20000 ∉ base.overdue (.core 5) ∧ silent.agentValid (.core 5) = true ∧ 0x20000 ∈ silent.overdue (.core 5) ∧
      (base.agent (.die 3)).dead = false ∧ (base.agent (.pkg 1)).dead = false) ∧
    (bitAt (0x200 : Word).toNat 8 = false ∧ bitAt (0x200 : Word).toNat 9 = true) := by
  refine ⟨?_, ?_, ?_, ?_, ?_, ?_, ?_, ?_, ?_, ?_, ?_, ?_, ?_⟩
  all_goals try unfold Heard PeerReaches
  all_goals decide +kernel

/-- A command that an engine has taken. -/
def job (w0 : Nat) (land : Option Nat) (pieces : List Nat) (moved blocked : Bool) (status : Nat) : FerryJob :=
  ⟨⟨0, 1, 0, 0, 0, 0, 0, none, w0, 0, 0, 0, land⟩, [], [], 0, 0, 0, [], 0, moved, blocked, pieces, 0, status, 0, 0, land, 0, false⟩

/-- Cluster 0 with a job. -/
def jobbed (s : State) (j : FerryJob) : State := s.updCl 0 fun k => { k with jobs := [j] }

/-- A landing word with a target and a count. -/
def landOf (target count : Nat) : State := stored8 base (2 ^ 49 + 0x20000) (target + count * 2 ^ 32)

/-- A thread in WAIT, one that holds the lease with a command due, and the cluster's array. -/
def leasing : State := base.updMe fun x => { x with occ := .occupied, lease := .waiting }
def holding (boundary : Nat) : State :=
  (base.updMe fun x => { x with occ := .occupied, lease := .held, leaseK := 256, stream := [⟨.mzero 0, false, 0⟩] }).updCl 0 fun k =>
    { k with opaHeld := some 0, opaBoundary := boundary }

/-- UnitEvents: live engines; a landing word whose target is reached, one below it, a zero target; a command without a landing word, one with its pieces left, one that is done, one not moved, one blocked; a lease to grant, one held, a frozen array, a boundary reached and not; commands first in a stream; a COMPOSE that is ready and one that is not. -/
theorem wit_UnitEvents :
    (base.enginesLive 255 = true ∧ base.enginesLive 271 = true) ∧
    (let pa := 2 ^ 49 + 0x20000
     let j := job 0x1 (some pa) [7] true false 1
     (jobbed (landOf 5 5) j).jobAt 0 0 = some j ∧ (jobbed (landOf 5 5) j).landPoison pa = false ∧ (jobbed (landOf 5 5) j).homeDead pa = false ∧
     (jobbed (landOf 5 5) j).heldBack ((clusterCores 0).headD 0) pa 16 = false ∧ ((jobbed (landOf 5 5) j).landing pa).target ≠ 0 ∧
     ((jobbed (landOf 5 5) j).landing pa).target ≤ ((jobbed (landOf 5 5) j).landing pa).count ∧
     ((jobbed (landOf 0 5) j).landing pa).target = 0 ∧
     ((jobbed (landOf 5 4) j).landing pa).count < ((jobbed (landOf 5 4) j).landing pa).target ∧ j.pieces = [7]) ∧
    (let j := job 0xC01 none [] true false 1
     (jobbed base j).jobAt 0 0 = some j ∧ j.land = none ∧ j.cmd.rings = false ∧ j.moved = true ∧ (jobbed base j).jobCounted j = true ∧ j.status = 1 ∧
     j.fcode ≠ 13 ∧ j.blocked = false ∧ (job 0xC01 none [] false true 0).moved = false ∧ (job 0xC01 none [] false true 0).blocked = true) ∧
    (let t := { leasing with fc := 1 }.opaTick 0
     t.nextLease 0 (t.grantTime 0) = some ⟨0, 0⟩ ∧ (t.clAt 0).opaHeld = none ∧ (t.clAt 0).frozen = none ∧ t.grantTime 0 < t.fc ∧
     (leasing.opaTick 0).fc ≤ (leasing.opaTick 0).grantTime 0 ∧ (((holding 0).opaTick 0).clAt 0).opaHeld.isSome = true) ∧
    (let s := holding 0
     let k := s.clAt 0
     let x := s.ctxAt ⟨0, 0⟩
     x.lease = .held ∧ x.leaseUsed < x.leaseK ∧ k.opaBoundary ≤ s.opaNow 0 ∧
     (∃ e n l, nextForLease x.stream = some e ∧ e.cmd.leased = true ∧ e.cmd.ofLease = false ∧ acceptFirst x.stream = some (n, l) ∧
       max k.opaBoundary (max e.since k.opaThaw) < k.leaseStart + 2 * Config.leaseAc ∧
       max k.opaBoundary (max e.since k.opaThaw) ≤ s.opaNow 0) ∧
     (let s := s.updMe fun x => { x with leaseUsed := 256 }
      (s.ctxAt ⟨0, 0⟩).leaseK ≤ (s.ctxAt ⟨0, 0⟩).leaseUsed ∧ (s.clAt 0).opaBoundary ≤ s.opaNow 0) ∧
     (let s := { s.updMe fun x => { x with stream := [] } with fc := 16384 }
      nextForLease (s.ctxAt ⟨0, 0⟩).stream = none ∧ max (s.clAt 0).opaBoundary ((s.clAt 0).leaseStart + 2 * Config.leaseAc) ≤ s.opaNow 0)) ∧
    (base.clusterPresent 0 = true ∧ ((base.freeze 0 0).clAt 0).frozen = some 0) ∧
    (let s := base.updMe fun x => { x with stream := [⟨.mzero 0, true, 0⟩, ⟨.mzero 1, true, 0⟩] }
     let t := s.opaTick 0
     (t.ctxAt ⟨0, 0⟩).stream = ⟨.mzero 0, true, 0⟩ :: [⟨.mzero 1, true, 0⟩] ∧ (t.clAt (clusterOf 0)).frozen = none ∧
     (OpaCmd.mzero 0).ofLease = false ∧ (OpaCmd.mzero 0).leased = true ∧
     (let s := base.updMe fun x => { x with stream := [⟨.mzero 0, false, 0⟩] }
      ((s.opaTick 0).ctxAt ⟨0, 0⟩).stream = ⟨.mzero 0, false, 0⟩ :: [])) ∧
    (let s := { base.updMe fun x => { x with stream := [⟨.mrd 4 0 0 1 1, true, 0⟩, ⟨.mzero 1, true, 0⟩] } with pend := [arriving none 0] }
     let t := s.opaTick 0
     (t.ctxAt ⟨0, 0⟩).stream = ⟨.mrd 4 0 0 1 1, true, 0⟩ :: [⟨.mzero 1, true, 0⟩] ∧ t.pendAt 4 = some (arriving none 0)) ∧
    (let s := base.updCl 0 fun k => { k with ergQueue := [composeEntry ⟨0, 0⟩ 4] }
     (s.clAt 0).ergQueue = composeEntry ⟨0, 0⟩ 4 :: [] ∧
     (s.reserveBerths (CtxId.ofKey (composeEntry ⟨0, 0⟩ 4 / 8)).core (composeEntry ⟨0, 0⟩ 4 % 8)).composeReady 0 4 = true ∧
     (taken7.reserveBerths 0 4).composeReady 0 4 = false ∧ (∀ k ∈ ergOthers 0 4, (base.coreAt k).lend = true) ∧
     (∃ k ∈ ergOthers 0 2, (unlent.coreAt k).lend = false)) := by
  refine ⟨?_, ?_, ?_, ?_, ⟨?_, ?_, ?_, ⟨_, _, _, rfl, ?_, ?_, rfl, ?_, ?_⟩, ?_, ?_⟩, ?_, ?_, ?_, ?_⟩
  all_goals decide +kernel

/-- RegisterEvents: a FLEXCFG that moves no bank and one that does; a stream without an MST and one with it; an occupied berth and a free one; a failed x15; a kill and none; the last lane and package; each range of device offsets. -/
theorem wit_RegisterEvents :
    (1 ≤ sup.me.pl ∧ base.me.pl = 0 ∧ 3 ≤ (base.updMe fun x => { x with pl := 3 }).me.pl) ∧
    ((base.setFlex base.cur.core 16).1 = 0 ∧ (base.setFlex base.cur.core 28).1 ≠ 0) ∧ NumericIdle base ∧
    ¬ NumericIdle (base.updMe fun x => { x with stream := [⟨.mst 0 0 0 0 0 0 .rne false 0 [], false, 0⟩] }) ∧
    ((outside 0).corePresent 0 = true ∧ ((outside 0).ctxAt ⟨0, bitsAt (0x001 : Word).toNat 8 3⟩).occ = .occupied ∧
      ((outside 0).ctxAt ⟨0, bitsAt (0x701 : Word).toNat 8 3⟩).occ ≠ .occupied) ∧
    (marks base [(15, .failed Cause.poison 0 0)]).me.stX 15 = .failed Cause.poison 0 0 ∧
    (base.clusterPresent 255 = true ∧ bitAt (0x800 : Word).toNat 11 = true ∧ bitAt (0x700 : Word).toNat 11 = false) ∧
    (7 < 8 ∧ 1023 < 1024 ∧ 1039 < 1040 ∧ base.corePresent 1039 = true) ∧
    (0x30000 ≤ 0x32000 ∧ 0x60000 ≤ 0x64FF8 ∧ 0x64FF8 < 0x65000 ∧ 0xFFF8 < 0x10000) := by
  refine ⟨?_, ?_, numericIdle_of (by decide +kernel), fun h => ?_, ?_, ?_, ?_, ?_, ?_⟩
  case refine_3 => exact h 0 0 0 0 0 0 .rne false 0 [] false 0 (by decide +kernel)
  all_goals decide +kernel
/-! ### Witnesses: the other forms of the statements above -/

/-- AlwaysNext: a booted machine whose chosen thread runs at USR outside trap context, and steps. -/
theorem wit_AlwaysNext :
    let s := inLine ⟨0, 0⟩ 0x01210641 (2 ^ 31 - 1)
    s.booted = true ∧ s.chosen = some ⟨0, 0⟩ ∧ (CtxId.mk 0 0).isHandler = false ∧ (s.ctxAt ⟨0, 0⟩).occ = .occupied ∧
      (s.ctxAt ⟨0, 0⟩).pl = 0 ∧ (s.ctxAt ⟨0, 0⟩).trapBit = false ∧ ∃ t, s.Steps t := by
  refine ⟨?_, ?_, ?_, ?_, ?_, ?_, nexts_eq ?_⟩ <;> decide +kernel

/-- RegistersAndOperands: a fused form with its last source empty; a form of one source, whose destination is empty; SEL with its second and third sources failed, the first full. -/
theorem wit_RegistersAndOperands_forms :
    (let s := marks base [(3, .empty)]
     let i : Instr := .fmadd .f32 .rne 15 (f1 1) (f1 2) (f1 3)
     floatDst i = some 15 ∧ s.me.failedSrc ((scalarSrcs i).map srcX) = none ∧ (∃ a ∈ scalarSrcs i, a.f = true ∧ s.me.stX a.r.toNat = .empty)) ∧
    (let s := marks base [(15, .empty)]
     let i : Instr := .clz 15 (f1 1)
     scalarDst i = some 15 ∧ s.me.failedSrc ((scalarSrcs i).map srcX) = none ∧ s.me.stX (15 : Reg).toNat = .empty) ∧
    (let s := marks base [(2, .failed Cause.poison 0x40 0), (3, .failed Cause.protection 0x80 0)]
     let i : Instr := .sel 15 (f1 1) (f1 2) (f1 3)
     scalarDst i = some 15 ∧ scalarSrcs i = [f1 1] ++ f1 2 :: [f1 3] ∧ (f1 2).f = true ∧
       s.me.stX (f1 2).r.toNat = .failed Cause.poison 0x40 0 ∧
       (∀ b ∈ [f1 1], b.f = true → ∀ c' v' m', s.me.stX b.r.toNat ≠ .failed c' v' m')) := by
  have h : (marks base [(2, .failed Cause.poison 0x40 0), (3, .failed Cause.protection 0x80 0)]).me.stX (f1 1).r.toNat = .full := by decide +kernel
  refine ⟨⟨rfl, ?_, f1 3, ?_, rfl, ?_⟩, ⟨rfl, ?_, ?_⟩, rfl, rfl, rfl, ?_, ?_⟩
  case refine_7 =>
    intro b hb _ c v m
    rw [List.mem_singleton.1 hb, h]
    simp
  all_goals decide +kernel

/-- SystemRegisterFields: no thread of the core is saved, and one is. -/
theorem wit_SystemRegisterFields_saveptr :
    (base.coreAt base.cur.core).saved = [] ∧
    (let s := base.updCore 0 fun k => { k with saved := [⟨0, base.me, 0, 32⟩] }
     (s.coreAt s.cur.core).saved ≠ []) := by decide +kernel

/-- MisalignTraps: a store to a SYNC page; an atomic of one operand and one of two. -/
theorem wit_MisalignTraps_forms :
    (let s := acc sync 0x20007 .store
     s.OpsReady [srcX (f1 1), srcX (f1 2)] [] ∧ addr s (f1 1) (0 : BitVec 24) % storeSize .i64 ≠ 0 ∧
     s.Translates (addr s (f1 1) (0 : BitVec 24)) .store (xl 3 0 0x20007 0x20007) ∧ (xl 3 0 0x20007 0x20007).mode = 3 ∧
     behindWindow 0x20007 = false) ∧
    (let s := acc uncached 0x20007 .atomic
     s.OpsReady [srcX (f1 1), srcX (f1 2)] [.x (15 : Reg).toNat false] ∧
     s.OpsReady [srcX (f1 1), srcX (f1 2), srcX (f1 3)] [.x (15 : Reg).toNat false] ∧ s.me.token = none ∧
     addr s (f1 1) (0 : BitVec 16) % amoBytes true ≠ 0 ∧ addr s (f1 1) (0 : BitVec 16) % amoBytes false ≠ 0) := by
  refine ⟨⟨?_, ?_, answers_eq ?_, ?_, ?_⟩, ?_⟩
  all_goals try unfold State.OpsReady
  all_goals decide +kernel

/-- VectorConversionAndReduction: a rounding that draws; a quantised vector of two blocks; scaled sums of two blocks under a mask. -/
theorem wit_VectorConversionAndReduction_blocks :
    (resolveMode vbase.me.fcsr .sr = .sr ∧ ¬ ((11 : BitVec 4).toNat = 9 ∧ (false : Bool) = false) ∧
      VOpen vbase [vr 3] [] (vdst .last) vecs ∧ TagIs vecs (arg vbase vecs (vr 3)) .last ⟨9, false⟩ ∧ Fits vbase vecs [32, 16]) ∧
    (let v := { vecs with g := 32, vl := 260 }
     let s := withV base v
     VOpen s [vr 3] [] (vdst (.v 3)) v ∧ TagIs v (arg s v (vr 3)) (.v 3) ⟨9, false⟩ ∧ Fits s v [tyWidth 9, tyWidth 15] ∧ isFlt 9 = true) ∧
    (let v := { vecs with g := 32, vl := 260 }
     let s := withV base v
     VOpen s [vr 8] [] [.x (15 : Reg).toNat false] v ∧ (arg s v (vr 8)).tag = some ⟨10, true⟩ ∧ Fits s v [tyWidth 10]) := by
  refine ⟨⟨?_, ?_, vopen_of ?_, tagIs_of ?_, ?_⟩, ⟨vopen_of ?_, tagIs_of ?_, ?_, ?_⟩, vopen_of ?_, ?_, ?_⟩
  all_goals try unfold Fits
  all_goals decide +kernel

/-- VectorGates: each condition of a form that has a scalar source and of a store; an empty queue behind a full one; VL beyond the width of the second source alone. -/
theorem wit_VectorGates_forms :
    (let i : Instr := .vslideUp (.v 0) (vr 1) (f1 1) ⟨false, 0, false⟩
     let j : Instr := .vstx (f1 1) 0 (vr 1) 5 ⟨false, 0, false⟩
     vectorOps i = some (0x4D, [vopd (vr 1), srcX (f1 1)], vdst (.v 0)) ∧ vectorOps j = some (0x5A, [srcX (f1 1), vopd (vr 1), .v 5 true], []) ∧
     (let s := { base with cur := ⟨1024, 0⟩ }
      s.OpsReady [vopd (vr 1), srcX (f1 1)] (vdst (.v 0)) ∧ isSvc s.cur.core = true) ∧
     (let s := base.updMe fun x => { x with ergBit := true }
      s.OpsReady [srcX (f1 1), vopd (vr 1), .v 5 true] [] ∧ isSvc s.cur.core = false ∧ s.me.ergBit = true ∧ s.me.trapBit = false) ∧
     (base.OpsReady [srcX (f1 1), vopd (vr 1), .v 5 true] [] ∧ (base.me.ergBit && !base.me.trapBit) = false ∧ base.me.vs = none)) ∧
    (let v := vecs
     let srcs : List VSrc := [vpop, ⟨.peek 3, true⟩]
     vectorForm (.vperm .last vpop ⟨.peek 3, true⟩ ⟨false, 0, false⟩) = some (0x4C, srcs, [], vdst .last) ∧
     srcs = [vpop] ++ ⟨.peek 3, true⟩ :: [] ∧ vbase.OpsReady (srcs.map vopd ++ []) (vdst .last) ∧ vbase.VectorReady v ∧
     (∀ b ∈ [vpop], hasEntry v b) ∧ v.queue 3 = []) ∧
    (let v := { vecs with vl := 300 }
     let s := withV base v
     vr 3 ∈ [vr 1, vr 3] ∧ VOpen s [vr 1, vr 3] [] (vdst (.v 0)) v ∧ (arg s v (vr 3)).tag = some ⟨9, false⟩ ∧
     vlmax v.g (s.coreAt s.cur.core).vlanes (tyWidth 9) < v.vl ∧ v.vl ≤ vlmax v.g (s.coreAt s.cur.core).vlanes (tyWidth 0)) := by
  refine ⟨⟨?_, ?_, ?_, ?_, ?_⟩, ⟨?_, ?_, ?_, ?_, fun b hb => hasEntry_of (by rw [List.mem_singleton.1 hb]; decide +kernel), ?_⟩,
    ?_, vopen_of ?_, ?_, ?_, ?_⟩
  all_goals try unfold State.OpsReady
  all_goals try unfold State.VectorReady
  all_goals decide +kernel

/-- Watermarks: the five forms under an unbound binding and under a bound one whose load is admitted; a load that a write has woken. -/
theorem wit_Watermarks_forms :
    (vbase.VectorReady vecs ∧ (KMap.find Wm.none vecs.w 2).bound = false ∧ vbase.OpsReady [srcX (f1 1), srcX (f1 2)] (vdst (.v 0)) ∧
      vbase.OpsReady [srcX (f1 1), vopd (vr 5)] (vdst (.v 0)) ∧ vbase.OpsReady [.v (12 : BitVec 5).toNat true] (vdst (.v 0))) ∧
    (let s := marked.updMe fun x => { x with token := some [] }
     let v : VState := { vecs with w := [(3, ⟨true, 0x20000, 0x1000, 0, .sy⟩)] }
     s.me.vs = some v ∧ (KMap.find Wm.none v.w 3).bound = true ∧ s.me.token = some []) ∧
    (marked.updMe fun x => { x with token := some [64] }).me.token = some [64] := by
  unfold State.OpsReady State.VectorReady
  decide +kernel

/-- The answer of a computation that traps. -/
def trapsB {α : Type} (r : Except Stop α × State) (c v m : Nat) : Bool :=
  match r with
  | (.error (.trap c' v' m'), _) => decide (c' = c) && decide (v' = v) && decide (m' = m)
  | _ => false

theorem traps_eq {α : Type} {r : Except Stop α × State} {c v m : Nat} (h : trapsB r c v m = true) : ∃ t, r = (.error (.trap c v m), t) := by
  obtain ⟨r, t⟩ := r
  cases r with
  | ok a => cases h
  | error e =>
    cases e with
    | trap c' v' m' =>
      simp only [trapsB, Bool.and_eq_true, decide_eq_true_eq] at h
      exact ⟨t, by rw [h.1.1, h.1.2, h.2]⟩
    | _ => cases h

/-- VectorStores: a plain and an indexed store of an element that is misaligned; one that runs into a page that is not mapped, behind four that pass; one without permission. -/
theorem wit_VectorStores_checks :
    (let s := regs (vacc owned 0x20001 1 .store) []
     let el : List VElem := ((vat 1).actives 1 1 ⟨false, 0, false⟩).map (unitElem 0x20001 0 16)
     (arg s (vat 1) (vr 7)).tag = some ⟨1, false⟩ ∧ StoreOpen s [srcX (f1 1), vopd (vr 7)] (vr 7) (vat 1) [16] ∧
     StoreOpen s [srcX (f1 1), vopd (vr 7), .v 5 true] (vr 7) (vat 1) [16, 8] ∧
     (el.find? fun e => e.va % elemBytes 16 != 0) = some ⟨0, 0x20001, false⟩ ∧
     ((vat 1).actives 1 1 ⟨false, 0, false⟩).map (fun k => indexElem 0x20001 0 (((vat 1).getV 5).arg.bits 8 k) 16 k) = [⟨0, 0x20007, false⟩]) ∧
    (let s := vacc owned (2 ^ 36 - 4) 8 .store
     let chk := elemCheck (fun f => f == 0) 8 (tagVal (vspec (vr 1)) ⟨0, false⟩)
     StoreOpen s [srcX (f1 1), vopd (vr 1)] (vr 1) (vat 8) [8] ∧ (∀ e ∈ bytesAt (2 ^ 36 - 4) 8, e.va % elemBytes 8 = 0) ∧
     (∃ t, (xlElems .store chk (bytesAt (2 ^ 36 - 4) 8)).go s = (.error (.trap Cause.pageStore (2 ^ 36) 0), t)) ∧
     (∃ t, (xlateM (2 ^ 36) .store).go s = (.error (.trap Cause.pageStore (2 ^ 36) 0), t)) ∧
     (let l := elemsOf ((xlElems .store chk ((bytesAt (2 ^ 36 - 4) 8).take 4)).go s)
      (xlElems .store chk ((bytesAt (2 ^ 36 - 4) 8).take 4)).go s = (.ok l, s) ∧ l.length = 4)) ∧
    (let s := vacc 0x1DB 0x20000 8 .store
     ∃ t, (xlElems .store (elemCheck (fun f => f == 0) 8 (tagVal (vspec (vr 1)) ⟨0, false⟩)) (bytesAt 0x20000 8)).go s =
       (.error (.trap Cause.protection 0x20000 0), t)) := by
  refine ⟨⟨?_, ⟨?_, ?_, hasEntry_of ?_, ?_⟩, ⟨?_, ?_, hasEntry_of ?_, ?_⟩, ?_, ?_⟩,
    ⟨⟨?_, ?_, hasEntry_of ?_, ?_⟩, ?_, traps_eq ?_, traps_eq ?_, answers_eq ?_, ?_⟩, traps_eq ?_⟩
  all_goals try unfold State.OpsReady
  all_goals try unfold State.VectorReady
  all_goals try unfold Fits
  all_goals decide +kernel

/-- WaitForWords: the state that has translated its word, before and after what it reads; a word that has woken its instruction; a vector of words, of which one is zero. -/
theorem wit_WaitForWords_woken :
    (∀ n ∈ [0, 5], let s := (waits n 1).updMe fun c => { c with pas := [0x20000] }
     (waits n 1).me.pas = [] ∧ (waits n 1).me.token = none ∧ (readPiece (xl 3 0 0x20000 0x20000) 8 true).go s = (.ok (n, none), s)) ∧
    (let s := (waits 0 1).updMe fun c => { c with pas := [0x20000], token := some [wd 0x20000, 5] }
     s.cur.isHandler = false ∧ 0x20000 < 2 ^ 64 ∧ s.me.pas = [0x20000] ∧ s.me.token = some [wd 0x20000, 5] ∧ (5 : Word) ≠ 0 ∧
     s.OpsReady [.x 1 true] [.x 15 false] ∧ s.heldBack s.cur.core 0x20000 8 = false) ∧
    (∀ n ∈ [0, 5], let s := (waits n 1).updMe fun c => { c with pas := [0x20000] }
     let l : Elems := [(⟨0, 0x20000, false⟩, xl 3 0 0x20000 0x20000)]
     (l.mapM fun e => do let r ← readWait e.2; return (e, r) : M _).go s = (.ok (l.map fun e => (e, wd n)), s) ∧
     (∀ e ∈ l, s.heldBack s.cur.core e.2.pa 8 = false ∧ paClass e.2.pa ≠ 2)) ∧
    (let l : Elems := [(⟨0, 0x20000, false⟩, xl 3 0 0x20000 0x20000), (⟨1, 0x20008, false⟩, xl 3 0 0x20008 0x20008)]
     let s := (waits 5 2).updMe fun c => { c with pas := [0x20000, 0x20008] }
     (l.mapM fun e => do let r ← readWait e.2; return (e, r) : M _).go s = (.ok (l.zip [wd 5, wd 0]), s)) := by
  have h1 : ∀ n, n = 0 ∨ n = 5 → (let s := (waits n 1).updMe fun c => { c with pas := [0x20000] }
     let l : Elems := [(⟨0, 0x20000, false⟩, xl 3 0 0x20000 0x20000)]
     (waits n 1).me.pas = [] ∧ (waits n 1).me.token = none ∧ answers ((readPiece (xl 3 0 0x20000 0x20000) 8 true).go s) (n, none) s = true ∧
     answers ((l.mapM fun e => do let r ← readWait e.2; return (e, r) : M _).go s) (l.map fun e => (e, wd n)) s = true ∧
     (∀ e ∈ l, s.heldBack s.cur.core e.2.pa 8 = false ∧ paClass e.2.pa ≠ 2)) := by
    rintro n (rfl | rfl) <;> decide +kernel
  refine ⟨fun n hn => ?_, ?_, fun n hn => ?_, answers_eq ?_⟩
  · obtain ⟨a, b, c, _, _⟩ := h1 n (by simpa using hn)
    exact ⟨a, b, answers_eq c⟩
  · unfold State.OpsReady
    decide +kernel
  · obtain ⟨_, _, _, d, e⟩ := h1 n (by simpa using hn)
    exact ⟨answers_eq d, e⟩
  · decide +kernel

/-- The array states of another thread's slot 5 and tile 1. -/
def shared (kind : Kind) (st cnt vl : Nat) (leaf : Nat) : State := owns (arrayed kind st cnt vl leaf) (base.me.uid + 1) [5] [1]

/-- ArrayTraps: the gates of a form with sources and one without; a handler and a thread without a lease; slots and tiles that are not the thread's own; a pair that the tile does not take, counts beyond the slots and the tile, a pair that begins in an odd slot. -/
theorem wit_ArrayTraps_forms :
    (arrayOps (.mst 0 (f1 1) 0 (f1 2) (f1 3)) = some (0x66, [srcX (f1 1), srcX (f1 2), srcX (f1 3)], []) ∧ arrayOps .msync = some (0x67, [], []) ∧
      ({ base with cur := ⟨1024, 0⟩ } : State).OpsReady [srcX (f1 1), srcX (f1 2), srcX (f1 3)] []) ∧
    (let s := regs (shared .load 256 (256 * 2 ^ 16) 128 owned) [(4, 65)]
     Leased s ∧ s.OpsReady [srcX (f1 4)] [] ∧ ¬ OwnsSlot s (5 : BitVec 6).toNat ∧ OwnsSlot s (0 : BitVec 6).toNat ∧ OwnsSlot s (2 : BitVec 6).toNat ∧
     OwnsSlot s (1 : BitVec 6).toNat ∧ ¬ OwnsTile s (1 : BitVec 2).toNat ∧ OwnsTile s (0 : BitVec 2).toNat ∧ (tileI32 (0 : BitVec 2).toNat).go s = (.ok false, s) ∧
     opaPair false 9 9 ≠ some false ∧ opaPair true 11 11 ≠ some false ∧ opaPair false 11 11 = some false ∧ tyWidth 11 = 16 ∧
     64 < (val s (f1 4)).toNat % 512 ∧ opaPair true 13 13 = some false ∧ tyWidth 13 = 8 ∧ (1 : BitVec 6).toNat % 2 = 1) ∧
    (let s := shared .load 256 (1 + 256 * 2 ^ 16) 128 owned
     s.OpsReady [srcX (f1 1), srcX (f1 2), srcX (f1 3)] [] ∧ s.cur.isHandler = false ∧ ¬ OwnsSlot s (4 : BitVec 6).toNat ∧ OwnsSlot s (0 : BitVec 6).toNat ∧
     0 < bitsAt (val s (f1 3)).toNat 16 9 ∧ 256 < bitsAt (val s (f1 3)).toNat 0 9 + bitsAt (val s (f1 3)).toNat 16 9 ∧ tyWidth 15 = 4) ∧
    (let s := shared .store 512 (128 * 2 ^ 8) 128 (uncached + 2 ^ 55)
     ¬ OwnsTile s (1 : BitVec 2).toNat ∧ Leased s ∧ s.cur.isHandler = false ∧ ¬ Leased (s.updMe fun x => { x with lease := .none })) ∧
    (let v := { vecs with vl := 129 }
     let s := regs (withV (shared .load 256 0 128 owned) v) [(5, 127), (6, 256)]
     s.VectorReady v ∧ Fits s v [32] ∧ s.OpsReady [srcX (f1 5)] (vdst (.v 1)) ∧ s.OpsReady [.v (3 : BitVec 5).toNat true, srcX (f1 5)] [] ∧
     (tileI32 (bitsAt (val s (f1 5)).toNat 8 2)).go s = (.ok false, s) ∧ (v.getV (3 : BitVec 5).toNat).ty = 9 ∧
     ¬ OwnsTile s (bitsAt (val s (f1 6)).toNat 8 2) ∧ OwnsTile s (bitsAt (val s (f1 5)).toNat 8 2) ∧ Leased s ∧
     16384 < bitsAt (val s (f1 5)).toNat 0 7 * 128 + v.vl) := by
  refine ⟨⟨rfl, rfl, ?_⟩, ⟨?_, ?_, ?_, ?_, ?_, ?_, ?_, ?_, answers_eq ?_, ?_, ?_, ?_, ?_, ?_, ?_, ?_, ?_⟩, ?_, ?_, ?_, ?_, ?_, ?_, answers_eq ?_, ?_⟩
  all_goals try unfold State.OpsReady
  all_goals try unfold State.VectorReady
  all_goals try unfold Fits
  all_goals try unfold Leased
  all_goals try unfold OwnsSlot
  all_goals try unfold OwnsTile
  all_goals decide +kernel

/-- ArrayTraps: rows, columns and a stored tile whose addresses pass their checks. -/
theorem wit_ArrayTraps_checked :
    SlloadChecked (shared .load 256 (256 * 2 ^ 16) 128 owned) false 0 (f1 1) 0 (f1 2) (f1 3) ∧
    SlloadChecked (shared .load 256 (256 * 2 ^ 16) 128 owned) true 0 (f1 1) 0 (f1 2) (f1 3) ∧
    MstChecked (shared .store 512 (128 * 2 ^ 8) 128 (uncached + 2 ^ 55)) (f1 1) 0 (f1 2) (f1 3) := by
  have rows : ∀ {s : State} {k : Kind} {chk : Xl → M Unit} {b st step len : Nat} {l : List Nat},
      keeps ((l.foldlM (fun (acc : Runs) i => runPages k chk ((b + i * st) % 2 ^ 64) step len acc) ⟨[], []⟩).go s) s (fun _ => true) = true →
      ∃ r, RowPages s k chk b st step len l r := fun h => by
    obtain ⟨r, hr, _⟩ := keeps_eq h
    exact ⟨r, hr⟩
  obtain ⟨r1, h1⟩ := rows (s := shared .load 256 (256 * 2 ^ 16) 128 owned) (k := .load) (chk := slCheck 0 false) (b := 0x20000) (st := 256) (step := 1)
    (len := 128) (l := upTo 256) (by decide +kernel)
  obtain ⟨r2, h2⟩ := rows (s := shared .load 256 (256 * 2 ^ 16) 128 owned) (k := .load) (chk := slCheck 0 false) (b := 0x20000) (st := 256) (step := 1)
    (len := 256) (l := upTo 128) (by decide +kernel)
  obtain ⟨r3, h3⟩ := rows (s := shared .store 512 (128 * 2 ^ 8) 128 (uncached + 2 ^ 55)) (k := .store) (chk := mstCheck) (b := 0x20000) (st := 512)
    (step := 4) (len := 128) (l := upTo 128) (by decide +kernel)
  refine ⟨⟨none, r1, answers_eq ?_, ?_, ?_, ?_, h1⟩, ⟨none, r2, answers_eq ?_, ?_, ?_, ?_, h2⟩, none, r3, answers_eq ?_, ?_, ?_, h3⟩
  all_goals decide +kernel

/-- The token of an instruction that was woken. -/
def woken (s : State) (l : List Word) : State := s.updMe fun x => { x with token := some l }

/-- The translated address of an instruction that waits. -/
def landed₁ (s : State) : State := s.updMe fun x => { x with pas := [lx.pa] }

/-- A ring whose record lies beyond what is mapped. -/
def ringAway : State := poke (ring 1 0) 0x20000 (2 ^ 36)

/-- FerryInstructions: a command that a free place has woken, with a landing word and without; a landing word that may be initialised; LWWAIT before its translation, after it, and woken; a record that cannot be translated. -/
theorem wit_FerryInstructions_woken :
    (∀ l ∈ ([[], [wd (2 ^ 49 + 0x20000)]] : List (List Word)), let s := woken (fifoed (quads (landPage .store) [0x301, 0, 0, 0x20000]) 15) l
     let c := s.ferryCmd (quad s q4)
     s.OpsReady (quadSrcs q4) [] ∧ s.me.token = some l ∧ (s.coreAt s.cur.core).fifo.length < 16 ∧ s.MayRelease (max 1 c.scope) 1023 ∧
       (s.release (s.me.l1s s.cur.core) (max 1 c.scope) 1023).Quiet) ∧
    (fifoed (quads base [0xC01, 0, 0, 0]) 15).me.token = none ∧ (landPage .store).landReady lx.pa = true ∧
    ((landPage .load).me.pas = [] ∧ (landed₁ (landPage .load)).me.pas = [lx.pa] ∧ (woken (landed₁ (landPage .load)) []).me.token.isSome = true) ∧
    (let s := ringAway
     (ringWord (xl 2 1 0x20000 0x20000) 0).go s = (.ok (2 ^ 36, none), s) ∧ (ringWord (xl 2 1 0x20000 0x20000) 16).go s = (.ok (1, none), s) ∧
     ∃ t, (xlateM (2 ^ 36) .load).go s = (.error (.trap Cause.pageLoad (2 ^ 36) 0), t)) := by
  have h : ∀ l, l = [] ∨ l = [wd (2 ^ 49 + 0x20000)] → (let s := woken (fifoed (quads (landPage .store) [0x301, 0, 0, 0x20000]) 15) l
     let c := s.ferryCmd (quad s q4)
     (s.me.failedSrc (quadSrcs q4) = none ∧ s.me.waitsSrc (quadSrcs q4) = false ∧ s.me.waitsDst [] = false ∧
         ((quadSrcs q4).any Opd.isLast = true → s.lastDue s.me.uid = false)) ∧ s.me.token = some l ∧ (s.coreAt s.cur.core).fifo.length < 16 ∧
       (s.unperformed s.me.uid = false ∧ (1 ≤ max 1 c.scope → ∀ a ∈ s.releaseHomes (s.me.l1s s.cur.core) 1023, s.heldBack a.1 a.2.1 a.2.2 = false)) ∧
       ((s.release (s.me.l1s s.cur.core) (max 1 c.scope) 1023).unperformed (s.release (s.me.l1s s.cur.core) (max 1 c.scope) 1023).me.uid = false ∧
        (s.release (s.me.l1s s.cur.core) (max 1 c.scope) 1023).me.reports = [])) := by
    rintro l (rfl | rfl) <;> decide +kernel
  refine ⟨fun l hl => h l (by simpa using hl), ?_, ?_, ?_, answers_eq ?_, answers_eq ?_, traps_eq ?_⟩
  all_goals decide +kernel

/-- ThreadsAndGroups, Messages: nothing holds back the homes that an end needs; reading the handler table lacks nothing; a port that is not held. -/
theorem wit_ThreadsAndGroups_ends :
    base.endLacks base.cur = [] ∧ ({ base with cur := ⟨0, 15⟩ } : State).endLacks ⟨0, 15⟩ = [] ∧
    (handled.supChannel handled.cur.core 5).2.lacks = handled.lacks ∧ base.outHeld (dieOf base.cur.core) 1 0 = false := by decide +kernel

/-- A record with a dependence pair, and its words. -/
def tasked₂ : State := poke (poke (poke (tasked 1 3) 0x20030 0x20100) 0x20100 0x20200) 0x20108 5
def taskWords₂ : List Nat := (taskWords 1 3).set 6 0x20100

/-- TasksAndWatchpoints: a record that names a dependence pair, the two words of the pair, and the push. -/
theorem wit_TasksAndWatchpoints_pair :
    let s := releases tasked₂ .pk
    ((upTo 8).mapM fun k => pushWord (0x20000 + 8 * k)).go s = (.ok taskWords₂, s) ∧ (recordBad fun k => taskWords₂.getD k 0) = false ∧
    taskWords₂.getD 6 0 ≠ 0 ∧ (pushWord (taskWords₂.getD 6 0)).go s = (.ok 0x20200, s) ∧ (pushWord (taskWords₂.getD 6 0 + 8)).go s = (.ok 5, s) ∧
    (let p : Push := ⟨s.space.ptbase, s.space.asid, s.space.pl != 0, svcOfCore s.cur.core, 0x20000, taskWords₂, (0x20200, 5)⟩
     (∃ t, s.pushInst p = (.ok (), t)) ∧ (s.pushInst p).2.lacks = s.lacks) := by
  refine ⟨answers_eq ?_, ?_, ?_, answers_eq ?_, answers_eq ?_, pushCode_ok ?_, ?_⟩ <;> decide +kernel

/-- ConflictBatching: a post behind another one, and one whose item does not fit; a ready item whose payload was lost; takes that were woken with items and without; a done item of a stale handle; items that are all different. -/
theorem wit_ConflictBatching_waits :
    (let s := (cbu 0 (some (sess false items))).updCl 0 fun k => { k with cbuPosts := [⟨0, 0, 7, 0xFFFF, 0, [1], 0⟩] }
     (releasesAt s 3).handleSession hand = some (sess false items) ∧ ((releasesAt s 3).clAt 0).cbuPosts ≠ []) ∧
    (let l : List Item := [⟨false, 2, 2047, [8], 0xFFFFFFFF, true⟩]
     (sess false l).takes = [] ∧ (sess false l).ready = ⟨false, 2, 2047, [8], 0xFFFFFFFF, true⟩ :: []) ∧
    (∀ i ∈ (sess false items).ready.take (min 1 256), i.bad = false) ∧ (sess false items).ready ≠ [] ∧
    (woken base [3, 9, 0]).me.token = some (3 :: 9 :: 0 :: []) ∧ (woken base [3, 9, 1]).me.token = some (3 :: 9 :: 1 :: []) ∧
    (woken base [3, 9, 0, 10, 0]).me.token = some (3 :: ([9, 10] : List Word).flatMap fun w => [w, 0]) ∧
    (let s := cbu 7 none
     s.OpsReady [.x (2 : Reg).toNat true, srcX (f1 1)] [] ∧ HandleIs s (val s (f1 1)) hand ∧ s.MayRelease 3 1023 ∧ (releasesAt s 3).Quiet ∧
     (releasesAt s 3).handleSession hand = none) ∧ (sess false items).items.Nodup ∧
    (sess false items).items = items.take 2 ++ ⟨false, 2, 2047, [8], 0xFFFFFFFF, false⟩ :: [] ∧
    ⟨false, 2, 2047, [8], 0xFFFFFFFF, false⟩ ∈ (sess false items).ready := by
  unfold State.OpsReady State.Quiet State.MayRelease State.WayFree HandleIs
  decide +kernel

/-- Ergs: an answer with a value; a queue that is not empty, with members that lend and with one that does not; the entry of a context. -/
theorem wit_Ergs_queue :
    (woken base [2]).me.token = some [2] ∧
    (let s := base.updCl 0 fun k => { k with ergQueue := [composeEntry ⟨1, 0⟩ 4] }
     MayCompose s ∧ (s.clAt (clusterOf s.cur.core)).ergQueue ≠ [] ∧ (∀ k ∈ ergOthers s.cur.core 4, (s.coreAt k).lend = true)) ∧
    (let s := unlent.updCl 0 fun k => { k with ergQueue := [composeEntry ⟨1, 0⟩ 4] }
     MayCompose s ∧ (s.clAt (clusterOf s.cur.core)).ergQueue ≠ [] ∧ ¬ ∀ k ∈ ergOthers s.cur.core 2, (s.coreAt k).lend = true) ∧
    CtxId.ofKey (CtxId.mk 3 7).key = ⟨3, 7⟩ ∧ (∀ k ∈ ergOthers 3 4, (base.coreAt k).lend = true) ∧ ¬ ∀ k ∈ ergOthers 3 4, (unlent.coreAt k).lend = true := by
  unfold MayCompose
  decide +kernel

/-- The pages of package 1 that are OWNED and STREAM. -/
def stream : Nat := 0x401DF

/-- PeerForms: loads of OWNED and STREAM pages; stores to pages of each mode; STREL. -/
theorem wit_PeerForms_stores :
    (∀ m : Bool, let s := peered (if m then stream else owned) .load
     let x := px (if m then 1 else 0) 1
     Open s [⟨x, 0, 4⟩] false ∧ s.granted x.pa = false ∧ s.me.combined x.pa 4 = false ∧ s.holdsAny x 4 = false ∧
     Access s (addr s (f1 1) (0 : BitVec 24)) 4 .load (plainCheck true 4) [⟨x, 0, 4⟩]) ∧
    (∀ m : Bool, let s := peered (if m then stream else owned) .store
     let x := px (if m then 1 else 0) 1
     Open s [⟨x, 0, 8⟩] true ∧ (x.mode = 1 ∨ (x.mode = 0 ∧ s.writeGrant (x.pa / 8) = false)) ∧
     Access s (addr s (f1 1) (0 : BitVec 24)) 8 .store (plainCheck true 8) [⟨x, 0, 8⟩]) ∧
    (let s := peered uncached .store
     s.OpsReady [srcX (f1 1), srcX (f1 2)] [] ∧ addr s (f1 1) (0 : BitVec 24) % 8 = 0 ∧ (px 2 1).pa % 8 = 0 ∧ Open s [⟨px 2 1, 0, 8⟩] true ∧
     2 ≤ (px 2 1).mode ∧ Access s (addr s (f1 1) (0 : BitVec 24)) 8 .store (plainCheck true 8) [⟨px 2 1, 0, 8⟩]) ∧
    (let s := peered sync .store
     Open s [⟨px 3 0, 0, 8⟩] true ∧ (px 3 0).mode = 3 ∧ s.MayRelease 3 1023 ∧ (releases s .sy).Quiet ∧
     Access s (addr s (f1 1) (0 : BitVec 24)) 8 .store syncCheck [⟨px 3 0, 0, 8⟩]) := by
  have h1 : ∀ m : Bool, (let s := peered (if m then stream else owned) .load
     let x := px (if m then 1 else 0) 1
     Open s [⟨x, 0, 4⟩] false ∧ s.granted x.pa = false ∧ s.me.combined x.pa 4 = false ∧ s.holdsAny x 4 = false ∧
     Access s (addr s (f1 1) (0 : BitVec 24)) 4 .load (plainCheck true 4) [⟨x, 0, 4⟩]) := by
    intro m
    cases m <;> refine ⟨?_, ?_, ?_, ?_, answers_eq ?_⟩
    all_goals try unfold Open
    all_goals decide +kernel
  have h2 : ∀ m : Bool, (let s := peered (if m then stream else owned) .store
     let x := px (if m then 1 else 0) 1
     Open s [⟨x, 0, 8⟩] true ∧ (x.mode = 1 ∨ (x.mode = 0 ∧ s.writeGrant (x.pa / 8) = false)) ∧
     Access s (addr s (f1 1) (0 : BitVec 24)) 8 .store (plainCheck true 8) [⟨x, 0, 8⟩]) := by
    intro m
    cases m <;> refine ⟨?_, ?_, answers_eq ?_⟩
    all_goals try unfold Open
    all_goals decide +kernel
  refine ⟨h1, h2, ⟨?_, ?_, ?_, ?_, ?_, answers_eq ?_⟩, ?_, ?_, ?_, ?_, answers_eq ?_⟩
  all_goals try unfold State.OpsReady
  all_goals try unfold Open
  all_goals try unfold State.Quiet
  all_goals try unfold State.MayRelease State.WayFree
  all_goals decide +kernel
/-! ### Worked values of the spec -/

/-- What a next state gives. -/
def after {α : Type} (o : Host.Outcome State Fault Refusal) (f : State → α) : Option α :=
  match o with
  | .next t => some (f t)
  | _ => none

/-- The line of R203's example: five heads at 0x1_0000_0400, the thread at head `k`. -/
def traps (k : Nat) : State := base.updMe fun x => { x with pc := 0x100000400 + 2 * k, line := some ⟨0x100000400, 0x1005, 5, 2 ^ 31 - 1⟩ }

/-- What the trap registers and the status hold. -/
def trapView (t : State) : List Nat × Bool :=
  ([t.me.trapcause.toNat, t.me.trapval.toNat, t.me.trappc.toNat, t.me.tstatus.toNat % 4, t.me.pl], t.me.trapBit)

/-- R201, R203: TRAP 7 at head 3, at the last head, TRAP -1, BRK 7 at head 3. -/
theorem test_trap : after (exec (.trap 7) (traps 3)) trapView = some ([0x50, 7, 0x100000408, 0, 1], true) := by decide +kernel
theorem test_trap_last : (after (exec (.trap (-1)) (traps 5)) trapView).map (·.1.take 3) = some [0x50, 0xFFFFFFFF, 0x100000442] := by decide +kernel
theorem test_brk : (after (exec (.brk 7) (traps 3)) trapView).map (·.1.take 3) = some [0x50, 0x100000007, 0x100000406] := by decide +kernel

/-- R215: LI, SHRAI and FCVT of the example line, run by one step each. -/
theorem test_step_li : after (step (State.reset.withFetchWord 64 0xFFFFFFFFFFFE066B)) (fun t => t.me.getX 3) = some (-2) := by decide +kernel
theorem test_shrai : after (exec (.shrai 4 (f1 3) 1) (regs base [(3, -2)])) (fun t => t.me.getX 4) = some (-1) := by decide +kernel
theorem test_fcvt : after (exec (.fcvt .f32 .i64 .rne 5 (f1 4)) (regs base [(4, -1)])) (fun t => t.me.getX 5) = some 0xBF800000 := by decide +kernel

/-- R58: the GRANT sequence. -/
def grants : List Nat → Inst → List (List Word)
  | [], _ => []
  | vl :: r, v => (v.grant vl).1 :: grants r (v.grant vl).2

theorem test_grant : grants [128, 64, 128, 64, 128, 64, 128, 64] (inst 5 300) =
    [[0, 2, 0, 128], [0, 2, 128, 64], [0, 2, 192, 108], [2, 2, 0, 64], [2, 2, 64, 128], [2, 2, 192, 64], [2, 2, 256, 44], [4, 1, 0, 64]] := by
  decide +kernel

/-- R33: C's LEAVE completes the phase of three members of whom two arrived. -/
theorem test_leave : ((group 3 2 0x11).groupLeave (2 ^ 49 + 0x20000)).1 = 0x12 ∧
    (((group 3 2 0x11).groupLeave (2 ^ 49 + 0x20000)).2.group (2 ^ 49 + 0x20000)).members = 2 ∧
    (((group 3 2 0x11).groupLeave (2 ^ 49 + 0x20000)).2.group (2 ^ 49 + 0x20000)).arrived = 0 := by decide +kernel

/-- R229: the queue lock's word after A, B and C. -/
def queuer (key ident : Nat) : Waiter := ⟨false, key, 0, false, ident⟩
def locked2 : State := ((lockFree.lockAcquire 0x20000 (queuer 1 0x100)).2.lockAcquire 0x20000 (queuer 2 0x208)).2
theorem test_lock : (lockFree.lockAcquire 0x20000 (queuer 1 0x100)).2.homeBytes 0x20000 8 = 0x8000000080000100 ∧
    locked2.homeBytes 0x20000 8 = 0x8000000104000100 ∧
    (locked2.lockAcquire 0x20000 (queuer 3 0x310)).2.homeBytes 0x20000 8 = 0x8000000188000100 := by decide +kernel

/-- R317, R319: the caravans of the example, and the token of item 2. -/
def posted (taken : List Nat) (done : List Nat) : Session :=
  let l : List Item := [⟨false, 0, 0, [0, 1], 0, false⟩, ⟨false, 1, 1, [1, 2], 1, false⟩, ⟨false, 2, 2, [3, 4], 2, false⟩, ⟨false, 3, 3, [0, 4], 3, false⟩,
    ⟨false, 4, 4, [2, 3], 4, false⟩, ⟨false, 5, 5, [5], 5, false⟩]
  ⟨0, 0, 6, true, (l.filter fun i => !done.contains i.entry).map fun i => { i with taken := taken.contains i.entry }, []⟩
theorem test_caravans : (posted [] []).ready.map (·.entry) = [0, 2, 5] ∧ (posted [0, 2, 5] []).ready = [] ∧
    (posted [] [0, 2, 5]).ready.map (·.entry) = [1, 3] ∧ (posted [] [0, 1, 2, 3, 5]).ready.map (·.entry) = [4] ∧
    (Item.mk false 2 2 [3, 4] 2 false).result 0 = 0x0000800200000002 := by decide +kernel

/-- R109: the block of the example under RNE; only NX. -/
theorem test_oq4 :
    let ins : List OqIn := ([0x41A00000, 0x40400000, 0xC1600000, 0x40B00000, 0xC0000000, 0x3F800000, 0x3E800000, 0xC0E00000] ++ List.replicate 248 0).map
      fun b => (f32.read b, f32.lsb b)
    (oq4Encode ins .rne 1).1 = 0xC00F3528 ∧ (oq4Encode ins .rne 1).2.1 = 128 := by decide +kernel

/-- R113: the generator after 1, and both elements under SR. -/
theorem test_sr : srStep 1 = 0x00042021 ∧ srStep 0x00042021 = 0x04080601 ∧
    after (exec (.fcvt .bf16 .f32 .sr 5 (f1 4)) (regs base [(4, 0x3F80FFF0)])) (fun t => (t.me.getX 5, t.me.seed)) = some (0x3F80, 0x00042021) := by
  decide +kernel

/-- R117: VRED.SUM over 2^24, 1, 1, 1, with and without element 2. -/
def reds (m : Nat) : State := withV base { vecs with vl := 4, m := [(3, m)], v := [(1, ⟨9, false, 0x3F8000003F8000003F8000004B800000, []⟩)] }
theorem test_vred : after (exec (.vredSum .rne 5 (vr 1) true 3) (reds 0xB)) (fun t => t.me.getX 5) = some 0x4B800000 ∧
    after (exec (.vredSum .rne 5 (vr 1) false 0) (reds 0)) (fun t => t.me.getX 5) = some 0x4B800001 := by decide +kernel

/-- R242, R246, R87: {100, -100, 5, 7} added to itself, saturating and not, under a mask of three elements. -/
def sums : State := withV base { vecs with vl := 4, m := [(1, 7)],
                                           v := [(1, ⟨0, false, 0x07059C64, []⟩), (2, ⟨0, false, 0x07059C64, []⟩), (3, ⟨0, false, 0x09090909, []⟩)] }
theorem test_vsadd : after (exec (.vsadd (.v 3) (vr 1) (vr 2) ⟨true, 1, false⟩) sums) (fun t => t.me.vs.map fun v => (v.getV 3).bits % 2 ^ 32) =
    some (some 0x090A807F) := by decide +kernel
theorem test_vadd_last : after (exec (.vadd .last (vr 1) (vr 2) ⟨true, 1, false⟩) sums) (fun t => t.me.vs.map fun v => v.l0.r.bits % 2 ^ 32) =
    some (some 0x000A38C8) := by decide +kernel

/-- R245: 300 elements of 32 bits in a grant of 4; R271's MOPS and MOP of one element. -/
theorem test_setvl : vlmax 4 32 32 = 256 ∧ vlmax 4 32 16 = 512 := by decide
theorem test_mops :
    let a : Slot := ⟨0x3528, [(0, 127)], none⟩
    let b : Slot := ⟨0x1073, [(0, 129)], none⟩
    mopsElem a a b b 15 14 0x3E800000 0 0 = 0x42848000 ∧ mopElem a a b b 15 14 8 0x3E800000 0 0 = 0x41860000 := by decide +kernel

/-- R122, R66: the home of 0x20_0000_8040; R74: rows of a saved register. -/
def half : State := { base with fuse := { base.fuse with stkcfg := (upTo 8).map fun k => (k, 8 * 2 ^ 32 + 32768) } }
theorem test_home : base.homeSlice 0x2000008040 = 64 + 9 ∧ hostSvc 0x2000008040 = 5 ∧ (half.hostPa 0x1000008040 = some 0x2000008040) := by decide +kernel
theorem test_rows : slotRows 4 100 ⟨8, false, 0, []⟩ = 4 ∧ slotRows 4 100 ⟨9, false, 0, []⟩ = 2 ∧ slotRows 4 100 ⟨12, true, 0, []⟩ = 1 := by decide

end Sys2Proof.Tests
end

section
/-! SUPPORT. Events that are register writes: what a write of a system register made by an event comes to, by the level of the acting context, and what writes of the device block at a level below MON leave. -/
namespace Sys2Proof.Machine
open Sys2Proof.Claims

variable {s : State} {n rd need : Nat}

/-! ### A write of a system register, by the writer's level (R95, R204) -/

/-- Below the level that a register asks for, its write has no effect. -/
theorem sysEvent_below (v : Word) (ha : sysAccess n = some (rd, some need)) (hl : s.me.pl < need) : s.sysEvent n v = s := by
  simp [State.sysEvent, ha, levelOk, Nat.not_le.2 hl]

/-- At the level that a register asks for, a write that moves no bank is the write of the register. -/
theorem sysEvent_writes (v : Word) (ha : sysAccess n = some (rd, some need)) (hl : need ≤ s.me.pl)
    (hb : (s.writeSys n v.toNat).1 = 0) : s.sysEvent n v = (s.writeSys n v.toNat).2 := by
  simp [State.sysEvent, ha, levelOk, hl, hb]

/-- A write that moves banks holds the writer until the move ends (R93, R98). -/
theorem sysEvent_moves (v : Word) (ha : sysAccess n = some (rd, some need)) (hl : need ≤ s.me.pl)
    (hb : (s.writeSys n v.toNat).1 ≠ 0) :
    s.sysEvent n v = (s.writeSys n v.toNat).2.updMe fun x => { x with moving := some (0, 0) } := by
  simp [State.sysEvent, ha, levelOk, hl, hb]

/-- SAVEPTR moves no bank, whether or not its write is taken (R74). -/
theorem writeSys_saveptr_moves (s : State) (v : Nat) : (s.writeSys 0x052 v).1 = 0 := by
  simp only [State.writeSys]
  split <;> rfl

/-- At SUP each register of the core, of the context and of the dispatcher is written (R44, R94, R98 to R100). -/
theorem sysEvents_at_sup (s : State) (v : Word) (h : 1 ≤ s.me.pl) :
    exec (.htab v) s = .next (s.writeSys 0x032 v.toNat).2 ∧ exec (.hotq v) s = .next (s.writeSys 0x082 v.toNat).2 ∧
    exec (.vlanes v) s = .next (s.setLanes s.cur.core (v.toNat % 2 ^ 6)) ∧ exec (.saveptr v) s = .next (s.writeSys 0x052 v.toNat).2 ∧
    exec (.ptbase false v) s = .next (s.writeSys 0x050 v.toNat).2 ∧ exec (.ptbase true v) s = .next (s.writeSys 0x051 v.toNat).2 ∧
    exec (.mboxpol false v) s = .next (s.writeSys 0x031 v.toNat).2 ∧ exec (.mboxpol true v) s = .next (s.writeSys 0x030 v.toNat).2 := by
  have written {n rd : Nat} (ha : sysAccess n = some (rd, some 1)) (hb : (s.writeSys n v.toNat).1 = 0) :
      Host.Outcome.next (s.sysEvent n v) = (.next (s.writeSys n v.toNat).2 : Host.Outcome State Fault Refusal) :=
    congrArg _ (sysEvent_writes v ha h hb)
  exact ⟨written rfl rfl, written rfl rfl, written rfl rfl, written rfl (writeSys_saveptr_moves ..), written rfl rfl, written rfl rfl,
    written rfl rfl, written rfl rfl⟩

/-- FLEXCFG at SUP: a write that moves banks holds the writer (R97, R98). -/
theorem exec_flexcfg_at_sup (s : State) (v : Word) (h : 1 ≤ s.me.pl) :
    ((s.setFlex s.cur.core v.toNat).1 = 0 → exec (.flexcfg v) s = .next (s.setFlex s.cur.core v.toNat).2) ∧
    ((s.setFlex s.cur.core v.toNat).1 ≠ 0 →
      exec (.flexcfg v) s = .next ((s.setFlex s.cur.core v.toNat).2.updMe fun x => { x with moving := some (0, 0) })) :=
  ⟨fun hb => congrArg _ (sysEvent_writes (n := 0x021) v rfl h hb), fun hb => congrArg _ (sysEvent_moves (n := 0x021) v rfl h hb)⟩

/-- At USR no register that asks for SUP is written (R95). -/
theorem sysEvents_at_usr (s : State) (v : Word) (h : s.me.pl = 0) :
    Idle (.htab v) s ∧ Idle (.hotq v) s ∧ Idle (.vlanes v) s ∧ Idle (.saveptr v) s ∧ Idle (.flexcfg v) s ∧
      ∀ b, Idle (.ptbase b v) s ∧ Idle (.mboxpol b v) s := by
  have ignored {n rd : Nat} (ha : sysAccess n = some (rd, some 1)) :
      Host.Outcome.next (s.sysEvent n v) = (.next s : Host.Outcome State Fault Refusal) :=
    congrArg _ (sysEvent_below v ha (by omega))
  refine ⟨ignored rfl, ignored rfl, ignored rfl, ignored rfl, ignored rfl, fun b => ?_⟩
  cases b <;> exact ⟨ignored rfl, ignored rfl⟩

/-! ### FCSR and SEEDSR (R205) -/

/-- No window write in the stream: FCSR and SEEDSR may be written. -/
theorem go_numericIdle (h : NumericIdle s) : (numericIdle 0x010).go s = (.ok (), s) := by
  simp only [numericIdle, go_ite, go_bind, go_me, go_stall, go_pure, decide_true, Bool.true_or, if_true, ite_eq_right_iff,
    List.any_eq_true, forall_exists_index, and_imp]
  rintro ⟨cmd, b, f⟩ he hm
  cases cmd with
  | mst => exact (h _ _ _ _ _ _ _ _ _ _ _ _ he).elim
  | _ => cases hm

/-- A window write in the stream holds the write of FCSR and SEEDSR back. -/
theorem go_numericIdle_waits (h : ¬ NumericIdle s) : (numericIdle 0x010).go s = (.error .stall, s) := by
  simp only [NumericIdle, Classical.not_forall, Classical.not_not] at h
  obtain ⟨t, i0, n, base, st, d, mode, satn, seed, pages, b, f, hm⟩ := h
  simp only [numericIdle, go_ite, go_bind, go_me, go_stall, decide_true, Bool.true_or, if_true]
  exact if_pos (List.any_eq_true.2 ⟨_, hm, rfl⟩)

/-- FCSR and SEEDSR are written at every level, once no window write is outstanding. -/
theorem exec_fcsr (h : NumericIdle s) (v : Word) :
    exec (.fcsr false v) s = .next (s.writeSys 0x010 v.toNat).2 ∧ exec (.fcsr true v) s = .next (s.writeSys 0x011 v.toNat).2 := by
  have run (b : Bool) : exec (.fcsr b v) s = .next (s.sysEvent (if b then 0x011 else 0x010) v) := by
    change execFcsr b v s = _
    simp [execFcsr, go_numericIdle h]
  exact ⟨(run false).trans (congrArg _ (sysEvent_writes v rfl (Nat.zero_le _) rfl)),
    (run true).trans (congrArg _ (sysEvent_writes v rfl (Nat.zero_le _) rfl))⟩

theorem exec_fcsr_waits (h : ¬ NumericIdle s) (b : Bool) (v : Word) : Idle (.fcsr b v) s := by
  change execFcsr b v s = _
  simp [execFcsr, go_numericIdle_waits h]

/-! ### Device registers (R126, R353, R356, R394, R415) -/

/-- ERRACC names a register of a berth that holds a thread; of another it accepts nothing (R394). -/
theorem exec_erracc (s : State) (core : Nat) (v : Word) (hc : core < 1040) (hp : s.corePresent core = true) :
    exec (.erracc core v) s = .next (s.writeErracc core v.toNat) := by
  change execErracc core v s = _
  simp [execErracc, State.logCore, hc, hp]

/-- A failed scalar register that ERRACC names reads zero and is full (R394). -/
theorem accept_scalar (x : Ctx) {r cause a m : Nat} (h1 : 1 ≤ r) (h2 : r < 16) (h : x.stX r = .failed cause a m) :
    x.accept r = x.setX r 0 := by
  simp [Ctx.accept, h1, h2, h]

/-- HIRQ (R350). -/
theorem writeDev_hirq (s : State) (v pl : Nat) : s.writeDev 0x20000 v pl = s.raiseIrq v := rfl

/-- The routes and PORTFAIL are written at MON only (R353, R418). -/
theorem writeDev_route_ignored (s : State) {off pl : Nat} (v : Nat) (h1 : 0x30000 ≤ off) (h2 : off ≤ 0x32000) (hl : pl ≠ 3) :
    s.writeDev off v pl = s := by
  have low : ¬ off < 0x10200 := by omega
  have irq : off ≠ 0x20000 := by omega
  rcases Nat.lt_or_eq_of_le h2 with h | rfl
  · simp [State.writeDev, low, irq, h1, h, hl]
  · simp [State.writeDev, hl]

/-- The agents' registers are written at MON only (R398). -/
theorem writeDev_agent_ignored (s : State) {off pl : Nat} (v : Nat) (h1 : 0x60000 ≤ off) (h2 : off < 0x65000) (hl : pl ≠ 3) :
    s.writeDev off v pl = s := by
  have sd : ¬ off < 0x10200 := by omega
  have irq : off ≠ 0x20000 := by omega
  have route : ¬ off < 0x32000 := by omega
  have fail : off ≠ 0x32000 := by omega
  have mbi : ¬ off < 0x40040 := by omega
  have kill : ¬ 0x70000 ≤ off := by omega
  have log : ¬ 0x100000 ≤ off := by omega
  simp [State.writeDev, sd, irq, route, fail, mbi, kill, log, hl]

/-- Nothing writes below the shootdown ports: the identification block is read-only (R23). -/
theorem writeDev_low_ignored (s : State) {off : Nat} (v pl : Nat) (h : off < 0x10000) : s.writeDev off v pl = s := by
  have above {a : Nat} (ha : 0x10000 ≤ a) : ¬ a ≤ off := by omega
  have irq : off ≠ 0x20000 := by omega
  have fail : off ≠ 0x32000 := by omega
  simp [State.writeDev, above, irq, fail]

/-- Settles O60: each event is the write of its register, at the level that the register's access asks for. -/
theorem registerEvents : Obligations.RegisterEvents := by
  refine ⟨fun s v => ⟨fun h => ?_, sysEvents_at_usr s v, fun h => ?_, fun h => ?_, fun h => exec_fcsr h v, fun h => ?_⟩,
    fun s core v hc hp => ⟨fun h => ?_, fun h => ?_⟩, fun x r cause a m h1 h2 h => ?_, fun s cl v => ⟨fun h1 h2 => ?_, fun h => ?_⟩,
    fun s k v h => ?_, fun s p v h => ?_, fun s off v => ⟨rfl, ?_, ?_, ?_, ?_⟩⟩
  · obtain ⟨htab, hotq, vlanes, save, pt, asid, pol, depth⟩ := sysEvents_at_sup s v h
    exact ⟨htab, hotq, vlanes, save, pt, asid, pol, depth, exec_flexcfg_at_sup s v h⟩
  · exact congrArg _ (sysEvent_writes v rfl h rfl)
  · exact congrArg _ (sysEvent_below v rfl h)
  · exact ⟨exec_fcsr_waits h false v, exec_fcsr_waits h true v⟩
  · rw [exec_erracc s core v hc hp, State.writeErracc, if_pos h]
  · rw [Idle, exec_erracc s core v hc hp, State.writeErracc, if_neg h]
  · rw [accept_scalar x h1 h2 h]
    exact ⟨x.getX_setX_self 0 (by omega), x.stX_setX_self r 0⟩
  · change Host.Outcome.next (s.writeCbuKill cl v.toNat) = _
    simp [State.writeCbuKill, h1, h2]
  · change Host.Outcome.next (s.writeCbuKill cl v.toNat) = _
    simp [State.writeCbuKill, h]
  · exact congrArg _ (if_pos h)
  · exact congrArg _ (if_pos h)
  · rintro rfl
    exact writeDev_hirq ..
  · exact fun h1 h2 => writeDev_route_ignored s _ h1 h2 (by decide)
  · exact fun h1 h2 => writeDev_agent_ignored s _ h1 h2 (by decide)
  · exact fun h => writeDev_low_ignored s _ _ h

end Sys2Proof.Machine
end

section
/-! SUPPORT. The state that reset leaves: its cores, and the device registers by range of offsets. -/
namespace Sys2Proof.Machine
open Sys2Proof.Claims

/-! ### Parts of the state after reset -/

/-- No core is narrow after reset (log 3). -/
theorem narrow_reset (n : Nat) : State.reset.narrow n = false := Nat.zero_testBit _

/-- Every core after reset is one of 32 lanes (R22, R97). -/
theorem coreAt_resetAs (c : CtxId) (n : Nat) : (resetAs c).coreAt n = Core.reset 32 := by
  change Core.reset (if State.reset.narrow n then 16 else 32) = _
  simp [narrow_reset]

/-- Every core's VLANES after reset (R97). -/
theorem readSys_vlanes_resetAs (c : CtxId) : (resetAs c).readSys 0x020 = 32 :=
  congrArg Core.vlanes (coreAt_resetAs c c.core)

/-- FLEXCFG of every core after reset (R97): 16 banks at least, 28 at most, not fixed. -/
theorem readSys_flexcfg_resetAs (c : CtxId) : (resetAs c).readSys 0x021 = 16 + 28 * 2 ^ 8 := by
  simp only [State.readSys, coreAt_resetAs]
  rfl

/-- No window is configured after reset (R98). -/
theorem readSys_wincfg_resetAs (c : CtxId) : ∀ {k : Nat}, k < 8 → (resetAs c).readSys (0x040 + k) = 0
  | 0, _ | 1, _ | 2, _ | 3, _ | 4, _ | 5, _ | 6, _ | 7, _ => rfl

/-! ### Device registers by range (R126) -/

/-- The route table (R353). -/
theorem readDev_route (s : State) {p : Nat} (h : p < 1024) : s.readDev (0x30000 + 8 * p) = KMap.find 0 s.route p := by
  have id : ¬ 0x30000 + 8 * p < 0x1000 := by omega
  have sd : ¬ 0x30000 + 8 * p < 0x10200 := by omega
  have hi : 0x30000 + 8 * p < 0x32000 := by omega
  simp [State.readDev, id, sd, hi]

/-- The refresh registers of the stacks: a value written takes the place of the one in force (R356). -/
theorem readDev_mbicfg (s : State) {k : Nat} (h : k < 8) :
    s.readDev (0x40000 + 8 * k) = (KMap.find none s.mbiNext k).getD (KMap.find 4 s.mbicfg k) := by
  have id : ¬ 0x40000 + 8 * k < 0x1000 := by omega
  have sd : ¬ 0x40000 + 8 * k < 0x10200 := by omega
  have route : ¬ 0x40000 + 8 * k < 0x32000 := by omega
  have fail : 0x40000 + 8 * k ≠ 0x32000 := by omega
  have hi : 0x40000 + 8 * k < 0x40040 := by omega
  simp [State.readDev, id, sd, route, fail, hi]

/-- Settles O53: each register at the reset value of its table. -/
theorem resetState : Obligations.ResetState := by
  refine ⟨reset_wf, rfl, rfl, rfl, rfl, fun c => ?_, fun k h => ?_, fun p h => ?_, rfl, rfl, by decide⟩
  · exact ⟨rfl, readSys_vlanes_resetAs c, readSys_flexcfg_resetAs c, rfl, rfl, rfl, rfl, rfl, rfl, Nat.zero_div 2, rfl, rfl, rfl, rfl, rfl, rfl,
      fun _ => readSys_wincfg_resetAs c⟩
  · rw [readDev_mbicfg _ h]
    rfl
  · rw [readDev_route _ h]
    rfl

end Sys2Proof.Machine
end

section
/-! SUPPORT. What a module reset leaves of memory (R23), and the frame of the outer-product arrays' clocks: lease states and boundaries move, freezes, tiles and slots stay (R21, R275 to R278). -/
namespace Sys2Proof

/-- Keeping entries by their keys: a kept key reads as before, any other the default. -/
theorem KMap.find_filter_key {α : Type} (d : α) (p : Nat → Bool) (m : KMap α) (k : Nat) :
    KMap.find d (m.filter fun e => p e.1) k = if p k then KMap.find d m k else d := by
  induction m with
  | nil => simp [KMap.find]
  | cons e r ih =>
    obtain ⟨a, v⟩ := e
    by_cases ha : p a
    · simp only [List.filter_cons, ha, if_true, KMap.find, ih]
      split
      · subst_vars
        rw [if_pos ha]
      · rfl
    · simp only [List.filter_cons, ha, KMap.find, ih, Bool.false_eq_true, if_false]
      by_cases hk : a = k
      · subst hk
        simp [ha]
      · simp [hk]

namespace Machine
open Sys2Proof.Claims

/-! ### Module reset (R23, R359) -/

/-- Memory after a module reset: host memory as it was, every other byte as after power-on (log 1). -/
theorem readByte_filter_host (mem : List Host.Cell) (a : Nat) :
    readByte (mem.filter fun e => paClass e.1 == 3) a = if paClass a = 3 then readByte mem a else 0 := by
  simpa [readByte, unlistedByte] using KMap.find_filter_key unlistedByte (fun k => paClass k == 3) mem a

/-- MODULE_RESET: every part of the state as after reset, with the fuses and host memory kept. -/
theorem exec_moduleReset (s : State) : ∃ t, exec .moduleReset s = .next t ∧
    t.fuse = s.fuse ∧ t.fc = 0 ∧ t.pend = [] ∧ t.msgs = [] ∧ t.insts = [] ∧ t.poison = [] ∧ t.flaws = [] ∧ t.reg = [] ∧ (∀ c, t.ctxAt c = Ctx.reset) ∧
    (∀ n, t.coreAt n = Core.reset (if s.narrow n then 16 else 32)) ∧ (∀ n, t.clAt n = Cluster.reset) ∧
    (∀ n, t.dispAt n = Disp.reset) ∧ (∀ a, paClass a = 3 → readByte t.mem a = readByte s.mem a) ∧
    (∀ a, paClass a ≠ 3 → readByte t.mem a = 0) :=
  ⟨_, rfl, rfl, rfl, rfl, rfl, rfl, rfl, rfl, rfl, fun _ => rfl, fun _ => rfl, fun _ => rfl, fun _ => rfl,
    fun a h => (readByte_filter_host s.mem a).trans (if_pos h), fun a h => (readByte_filter_host s.mem a).trans (if_neg h)⟩

/-! ### Clocks of the arrays (R21, R275 to R278) -/

/-- A change of one cluster that keeps a part of it keeps that part of every cluster. -/
theorem clAt_updCl_keeps {α : Type} (s : State) (cl : Nat) {f : Cluster → Cluster} {part : Cluster → α}
    (h : ∀ k, part (f k) = part k) (n : Nat) : part ((s.updCl cl f).clAt n) = part (s.clAt n) := by
  by_cases hn : n = cl
  · subst hn
    rw [State.clAt_updCl_self, h]
  · rw [State.clAt_updCl_ne _ _ hn]

/-- `t` is `s` after the arrays of the clusters `l` froze at `a`, and the arbiters' own time has moved: everything but contexts and clusters stays, of each cluster its tiles and slots stay, and a freeze that has begun goes on from where it began (R278). -/
structure ArrayFrame (a : Nat) (l : List Nat) (s t : State) : Prop where
  rest : { t with cl := s.cl, ctx := s.ctx } = s
  frozen : ∀ n, (t.clAt n).frozen = if n ∈ l then some ((s.clAt n).frozen.getD a) else (s.clAt n).frozen
  tiles : ∀ n, (t.clAt n).tiles = (s.clAt n).tiles
  slots : ∀ n, (t.clAt n).slots = (s.clAt n).slots

namespace ArrayFrame

variable {s t u : State} {a : Nat} {l l' : List Nat}

theorem trans (h : ArrayFrame a l s t) (g : ArrayFrame a l' t u) : ArrayFrame a (l ++ l') s u where
  rest := (congrArg (fun x : State => { x with cl := s.cl, ctx := s.ctx }) g.rest).trans h.rest
  frozen n := by
    rw [g.frozen, h.frozen]
    by_cases hl : n ∈ l <;> by_cases hl' : n ∈ l' <;> simp [hl, hl']
  tiles n := (g.tiles n).trans (h.tiles n)
  slots n := (g.slots n).trans (h.slots n)

/-- A change of contexts alone freezes nothing. -/
theorem updCtx (s : State) (c : CtxId) (f : Ctx → Ctx) : ArrayFrame a [] s (s.updCtx c f) :=
  ⟨rfl, fun _ => rfl, fun _ => rfl, fun _ => rfl⟩

theorem refl (s : State) : ArrayFrame a [] s s := ⟨rfl, fun _ => rfl, fun _ => rfl, fun _ => rfl⟩

/-- A change of a cluster that keeps its freeze, tiles and slots. -/
theorem updCl (s : State) (cl : Nat) {f : Cluster → Cluster} (hz : ∀ k, (f k).frozen = k.frozen)
    (ht : ∀ k, (f k).tiles = k.tiles) (hs : ∀ k, (f k).slots = k.slots) : ArrayFrame a [] s (s.updCl cl f) :=
  ⟨rfl, clAt_updCl_keeps s cl hz, clAt_updCl_keeps s cl ht, clAt_updCl_keeps s cl hs⟩

theorem noHolder (s : State) (cl b : Nat) : ArrayFrame a [] s (s.noHolder cl b) :=
  updCl s cl (fun _ => rfl) (fun _ => rfl) fun _ => rfl

theorem lapseLease (s : State) (cl : Nat) (c : CtxId) (b : Nat) : ArrayFrame a [] s (s.lapseLease cl c b) :=
  (updCtx ..).trans (noHolder ..)

/-- One happening under a lease: the array has no holder any more, the lease lapses, or a command is accepted. -/
theorem leaseNext {cl : Nat} {c : CtxId} (h : s.leaseNext cl c = some t) : ArrayFrame a [] s t := by
  have due {p : Prop} [Decidable p] {x : State} (hx : ArrayFrame a [] s x) (e : (if p then some x else none) = some t) :
      ArrayFrame a [] s t := by
    obtain ⟨-, e⟩ := Option.ite_none_right_eq_some.1 e
    exact Option.some.inj e ▸ hx
  unfold State.leaseNext at h
  dsimp only at h
  split at h
  · exact due (noHolder ..) h
  split at h
  · exact due (lapseLease ..) h
  split at h
  · exact due (lapseLease ..) h
  split at h
  · exact due (lapseLease ..) h
  split at h
  · cases h
  split at h
  · cases h
    exact (updCtx ..).trans (noHolder ..)
  · cases h
    exact (updCtx ..).trans (noHolder ..)
  · split at h <;> cases h
    exact (updCtx ..).trans (updCl _ _ (fun _ => rfl) (fun _ => rfl) fun _ => rfl)

/-- Everything that is due under the HELD lease. -/
theorem leaseRun (s : State) (cl n : Nat) : ArrayFrame a [] s (s.leaseRun cl n) := by
  induction n generalizing s with
  | zero => exact refl s
  | succ n ih =>
    unfold State.leaseRun
    split
    · exact refl s
    · split
      · exact (leaseNext (by assumption)).trans (ih _)
      · exact refl s

/-- Bringing the lease states up to date freezes nothing. -/
theorem opaTick (s : State) (cl : Nat) : ArrayFrame a [] s (s.opaTick cl) := by
  unfold State.opaTick
  dsimp only
  split
  · exact leaseRun s cl 18
  · refine foldl_keeps (p := ArrayFrame a [] s) (fun t c ht => ?_) _ _ (leaseRun s cl 18)
    split
    · exact ht
    · exact ht.trans (updCtx ..)

/-- A freeze of one array. -/
theorem freeze (s : State) (cl : Nat) : ArrayFrame a [cl] s (s.freeze cl a) where
  rest := rfl
  frozen n := by
    by_cases hn : n = cl
    · subst hn
      simp [State.freeze]
    · simp [State.freeze, State.clAt_updCl_ne _ _ hn, hn]
  tiles := clAt_updCl_keeps (part := Cluster.tiles) s cl fun _ => rfl
  slots := clAt_updCl_keeps (part := Cluster.slots) s cl fun _ => rfl

theorem fc (h : ArrayFrame a l s t) : t.fc = s.fc := (congrArg State.fc h.rest :)

/-- Freezes of arrays one after another, each at the next ac edge. -/
theorem foldl_freeze (l : List Nat) (s : State) (ha : a = s.fc + s.fc % 2) :
    ArrayFrame a l s (l.foldl (fun (s : State) cl => (s.opaTick cl).freeze cl (s.fc + s.fc % 2)) s) := by
  induction l generalizing s with
  | nil => exact refl s
  | cons cl l ih =>
    have h : ArrayFrame a [cl] s ((s.opaTick cl).freeze cl a) := (opaTick s cl).trans (freeze _ cl)
    rw [List.foldl_cons, ← ha]
    exact h.trans (ih _ (by rw [h.fc, ha]))

end ArrayFrame

/-- CLOCK_CHANGE freezes the array of every present cluster from the next ac edge on, and nothing else depends on it (R21, R278). -/
theorem exec_clockChange (s : State) (r : Nat) : ∃ t, exec (.clockChange r) s = .next t ∧ { t with cl := s.cl, ctx := s.ctx } = s ∧
    ∀ cl, s.clusterPresent cl = true →
      (t.clAt cl).frozen = some ((s.clAt cl).frozen.getD (s.fc + s.fc % 2)) ∧ (t.clAt cl).tiles = (s.clAt cl).tiles ∧
      (t.clAt cl).slots = (s.clAt cl).slots := by
  have h := ArrayFrame.foldl_freeze ((upTo 256).filter fun cl => s.clusterPresent cl) s rfl
  refine ⟨_, rfl, h.rest, fun cl hc => ⟨(h.frozen cl).trans (if_pos ?_), h.tiles cl, h.slots cl⟩⟩
  have hlt : cl < 256 := by simp_all [State.clusterPresent]
  simp [upTo, hlt, hc]

end Machine
end Sys2Proof
end

section
/-! SUPPORT. Fetch and the choice of a context: what entering a line answers (R179, R182, R208), and what an issue opportunity chooses (R52). -/
namespace Sys2Proof.Machine
open Sys2Proof.Claims

/-! ### Entering a line (R179, R182) -/

section Line

variable {s s' : State} {b : Nat}

/-- A well-formed line that its header does not predicate, entered at one of its heads. -/
theorem go_enterLine {h : Header} (hl : s.me.line = none) (hb : (fetchBytes (s.me.pc / 64 * 64)).go s = (.ok b, s'))
    (hk : lineOk b = some h) (h0 : s.me.pc % 2 = 0) (h1 : 1 ≤ s.me.pc % 64 / 2) (h2 : s.me.pc % 64 / 2 ≤ h.n)
    (hp : (h.pe && h.pm ≠ 0) = false) :
    enterLine.go s = (.ok ⟨s.me.pc / 64 * 64, b, h.n, 2 ^ 31 - 1⟩,
      s'.updMe fun x => { x with line := some ⟨s.me.pc / 64 * 64, b, h.n, 2 ^ 31 - 1⟩ }) := by
  have h1' : s.me.pc % 64 / 2 ≠ 0 := by omega
  have hp' : h.pe = true → h.pm = 0 := by simpa using hp
  simp only [enterLine, go_bind, go_me, hl, hb, hk, go_trapIf, h0, h1', Nat.not_lt.2 h2]
  simpa using fun he hm => absurd (hp' he) hm

/-- A malformed line takes ILLEGAL_LINE with its address. -/
theorem go_enterLine_malformed (hl : s.me.line = none) (hb : (fetchBytes (s.me.pc / 64 * 64)).go s = (.ok b, s'))
    (hk : lineOk b = none) : enterLine.go s = (.error (.trap Cause.illegalLine (s.me.pc / 64 * 64) 0), s') := by
  simp only [enterLine, go_bind, go_me, hl, hb, hk, go_trap]

/-- A fetch that stops, stops the entry. -/
theorem go_enterLine_stops {e : Stop} (hl : s.me.line = none) (hb : (fetchBytes (s.me.pc / 64 * 64)).go s = (.error e, s')) :
    enterLine.go s = (.error e, s') := by
  simp only [enterLine, go_bind, go_me, hl, hb]

end Line

section Fetch

variable {s s' : State} {c : CtxId}

/-- INSTRUCTION_FETCH of a live berth thread that needs a line and enters it. -/
theorem exec_instructionFetch_enters {l : Line} (h8 : c.idx < 8) (hv : s.live c = true) (hl : (s.ctxAt c).line = none)
    (hr : (s.ctxAt c).regErr = none) (he : enterLine.go { s with cur := c } = (.ok l, s')) :
    exec (.instructionFetch c.core c.idx) s = .next s' := by
  have hb : c.isHandler = false := by simpa [CtxId.isHandler] using h8
  change execInstructionFetch c.core c.idx s = _
  simp [execInstructionFetch, hv, hl, hr, hb, he]

/-- INSTRUCTION_FETCH of a live berth thread whose entry traps. -/
theorem exec_instructionFetch_traps {cause value mask : Nat} (h8 : c.idx < 8) (hv : s.live c = true)
    (hl : (s.ctxAt c).line = none) (hr : (s.ctxAt c).regErr = none)
    (he : enterLine.go { s with cur := c } = (.error (.trap cause value mask), s')) :
    exec (.instructionFetch c.core c.idx) s =
      .next (if s.trapWaits c cause then s.trapLater c cause else s'.takeTrap c cause value mask (s.ctxAt c).pc) := by
  have hb : c.isHandler = false := by simpa [CtxId.isHandler] using h8
  change execInstructionFetch c.core c.idx s = _
  simp [execInstructionFetch, hv, hl, hr, hb, he]

end Fetch

/-! ### The choice of a context (R52) -/

section Pick

variable {run : Run} {s : State} {core b : Nat} {c : CtxId}

/-- The berths of a core that could issue now, and that no YIELD holds. -/
def State.readyBerths (run : Run) (s : State) (core : Nat) : List Nat :=
  (upTo 8).filter fun b => s.berthReady run core b && !s.held (s.berthCtx core b)

/-- The handler slots of a core that could issue now. -/
def State.readySlots (run : Run) (s : State) (core : Nat) : List Nat := (upTo 2).filter fun n => s.ready run ⟨core, 8 + n⟩

/-- What a berth issues from: itself, or as a LENT berth the home berth of an erg that is composed (R52, R332). -/
theorem berthCtx_cases (s : State) (core b : Nat) :
    s.berthCtx core b = ⟨core, b⟩ ∨ (s.berthCtx core b).idx < 8 ∧ (s.ctxAt (s.berthCtx core b)).composed = true := by
  unfold State.berthCtx
  split
  · cases he : s.ergOf core with
    | none => exact .inl rfl
    | some c =>
      right
      have hm := List.mem_of_find?_eq_some he
      have hp := List.find?_some he
      simp only [Bool.and_eq_true] at hp
      simp only [List.mem_flatMap, List.mem_map, upTo, List.mem_range] at hm
      obtain ⟨k, -, b', hb', rfl⟩ := hm
      exact ⟨hb', hp.1.2⟩
  · exact .inl rfl

/-- A berth that round-robin order gives is one of the list's, below 8. -/
theorem afterLast_eq_some {last : Nat} {l : List Nat} (h : afterLast last l = some b) : b < 8 := by
  have hm := List.mem_of_find?_eq_some h
  simp only [List.mem_map] at hm
  obtain ⟨k, -, rfl⟩ := hm
  omega

/-- Round-robin order gives a berth where the list has one. -/
theorem afterLast_eq_none {last : Nat} {l : List Nat} (h : afterLast last l = none) (h8 : ∀ b ∈ l, b < 8) : l = [] := by
  refine List.eq_nil_iff_forall_not_mem.2 fun b hb => ?_
  have hlt := h8 b hb
  refine List.find?_eq_none.1 h b ?_ (by simpa using hb)
  simp only [List.mem_map, upTo, List.mem_range]
  exact ⟨(b + 15 - last % 8) % 8, by omega, by omega⟩

/-- Does a handler slot have the turn: is one ready, and no berth, or did a berth issue last? -/
def State.slotsTurn (run : Run) (s : State) (core : Nat) : Bool :=
  !(s.readySlots run core).isEmpty && ((s.readyBerths run core).isEmpty || !(s.coreAt core).hprev)

/-- Where the handler slots have the turn, one of them is chosen. -/
theorem pick_slot (h : s.slotsTurn run core = true) : ∃ n, n < 2 ∧ (s.pick run core).1 = some ⟨core, 8 + n⟩ := by
  simp only [State.slotsTurn, State.readySlots, State.readyBerths] at h
  unfold State.pick
  simp only [h, if_true]
  refine ⟨_, ?_, rfl⟩
  split
  · omega
  · cases hl : (upTo 2).filter fun n => s.ready run ⟨core, 8 + n⟩ with
    | nil => decide
    | cons n r =>
      have hn : n ∈ (upTo 2).filter fun n => s.ready run ⟨core, 8 + n⟩ := by simp [hl]
      simpa [upTo] using (List.mem_filter.1 hn).1

theorem mem_readyBerths :
    b ∈ s.readyBerths run core ↔ b < 8 ∧ s.berthReady run core b = true ∧ s.held (s.berthCtx core b) = false := by
  simp [State.readyBerths, upTo]

theorem mem_readySlots {n : Nat} : n ∈ s.readySlots run core ↔ n < 2 ∧ s.ready run ⟨core, 8 + n⟩ = true := by
  simp [State.readySlots, upTo]

/-- Where the berths have the turn, one of them is chosen, or none is ready. -/
theorem pick_berth (h : s.slotsTurn run core = false) :
    (s.readyBerths run core = [] ∧ (s.pick run core).1 = none) ∨
      ∃ b, b < 8 ∧ (s.pick run core).1 = some (s.berthCtx core b) := by
  have h8 : ∀ b ∈ s.readyBerths run core, b < 8 := fun b hb => (mem_readyBerths.1 hb).1
  simp only [State.slotsTurn, State.readySlots, State.readyBerths] at h h8 ⊢
  unfold State.pick
  simp only [h, Bool.false_eq_true, if_false]
  generalize (upTo 8).filter (fun b => s.berthReady run core b && !s.held (s.berthCtx core b)) = l at h8 ⊢
  generalize (if (s.coreAt core).left = 0 then 8 else (s.coreAt core).left) = left
  generalize (if (s.coreAt core).left = 0 then l else (s.coreAt core).owed) = owed
  split
  case h_1 hp =>
    refine .inl ⟨?_, rfl⟩
    split at hp
    next hd =>
      have due := afterLast_eq_none hp fun b hb => h8 b (by simpa using (List.mem_filter.1 hb).2)
      rw [due] at hd
      simp at hd
    next =>
      split at hp
      · cases hp
      · exact afterLast_eq_none hp h8
  case h_2 b hp =>
    refine .inr ⟨b, ?_, rfl⟩
    split at hp
    · exact afterLast_eq_some hp
    · split at hp
      next hf =>
        cases hp
        exact h8 b (List.mem_of_find?_eq_some hf)
      next => exact afterLast_eq_some hp

/-- Whatever an opportunity chooses is a berth or slot of the core, or the home berth of an erg (R52, R332). -/
theorem pick_some (h : (s.pick run core).1 = some c) : c.idx < 10 ∧ (c.core = core ∨ (s.ctxAt c).composed = true) := by
  cases ht : s.slotsTurn run core with
  | true =>
    obtain ⟨n, hn, he⟩ := pick_slot ht
    cases he.symm.trans h
    exact ⟨by dsimp only; omega, .inl rfl⟩
  | false =>
    obtain ⟨-, he⟩ | ⟨b, hb, he⟩ := pick_berth ht
    · cases he.symm.trans h
    · cases he.symm.trans h
      rcases berthCtx_cases s core b with hc | ⟨hi, hc⟩
      · rw [hc]
        exact ⟨by dsimp only; omega, .inl rfl⟩
      · exact ⟨by omega, .inr hc⟩

/-- After a handler's issue, a ready berth that no YIELD holds comes before the handler slots. -/
theorem pick_after_handler (hp : (s.coreAt core).hprev = true) (hb : b ∈ s.readyBerths run core) :
    ∃ c, (s.pick run core).1 = some c ∧ c.isHandler = false := by
  have hne := List.ne_nil_of_mem hb
  have ht : s.slotsTurn run core = false := by simp [State.slotsTurn, hp, hne]
  obtain ⟨hn, -⟩ | ⟨b', hb', he⟩ := pick_berth ht
  · exact absurd hn hne
  · refine ⟨_, he, ?_⟩
    have hi : (s.berthCtx core b').idx < 8 := by
      rcases berthCtx_cases s core b' with hc | ⟨hi, -⟩
      · rwa [hc]
      · exact hi
    simpa [CtxId.isHandler] using hi

/-- After a berth's issue, a ready handler comes first. -/
theorem pick_after_berth {n : Nat} (hp : (s.coreAt core).hprev = false) (hn : n ∈ s.readySlots run core) :
    ∃ c, (s.pick run core).1 = some c ∧ c.isHandler = true := by
  have ht : s.slotsTurn run core = true := by simp [State.slotsTurn, hp, List.ne_nil_of_mem hn]
  obtain ⟨n', -, he⟩ := pick_slot ht
  exact ⟨_, he, by simp [CtxId.isHandler]⟩

/-- A core that has had its opportunity in this fc has no other. -/
theorem select_seen (h : s.fc < (s.coreAt core).seen) : s.select run core = (none, s) := by
  simp [State.select, h]

/-- The opportunity of a core in the present fc is that of its state after the opportunities before. -/
theorem select_eq_pick (h : ¬ s.fc < (s.coreAt core).seen) :
    s.select run core = (s.updCore core fun k => { k.idle (s.fc - k.seen) with seen := s.fc + 1 }).pick run core := by
  simp [State.select, h]

/-- A core that has missed no opportunity. -/
theorem select_now (h : (s.coreAt core).seen = s.fc) :
    s.select run core = (s.updCore core fun k => { k with seen := s.fc + 1 }).pick run core := by
  rw [select_eq_pick (by omega)]
  simp [State.updCore, h, Core.idle]

/-- What a core's opportunity chooses (R52). -/
theorem select_some (h : (s.select run core).1 = some c) : c.idx < 10 ∧ (c.core = core ∨ (s.ctxAt c).composed = true) := by
  by_cases hs : s.fc < (s.coreAt core).seen
  · simp [select_seen hs] at h
  · rw [select_eq_pick hs] at h
    have hc := pick_some h
    rwa [State.ctxAt_updCore] at hc

/-- ISSUE_SELECT of a core that lives: the next step issues from what its opportunity chooses. -/
theorem exec_issueSelect (hp : s.corePresent core = true) (hd : s.coreDead core = false) :
    exec (.issueSelect core) s = .next { (s.select encoded core).2 with chosen := (s.select encoded core).1 } := by
  change execIssueSelect core s = _
  simp [execIssueSelect, hp, hd]

end Pick
end Sys2Proof.Machine
end

section
/-! SUPPORT. Results that return, and the events of contexts and banks (R78, R92, R93, R306, R367); the statement on the events of the module and its cores. -/
namespace Sys2Proof.Machine
open Sys2Proof.Claims

/-! ### Results (R78, R367) -/

section Results

variable {s : State} {p : Pend} {c : CtxId} {k : Nat}

theorem ctxAt_withPend (s : State) (l : List Pend) (c : CtxId) : ({ s with pend := l } : State).ctxAt c = s.ctxAt c := rfl

/-- A result that ends in a thread that stands in a context acts on that context, and may end its wait for it. -/
theorem ctxAt_settle (f : Ctx → Ctx) (hc : s.ctxOf p.uid = some c) (hu : (s.ctxAt c).uid = p.uid) (ho : (s.ctxAt c).occ ≠ .free) :
    ∃ w, (s.settle p f).ctxAt c = { f (s.ctxAt c) with wait := w } := by
  simp only [State.settle, hc, Option.getD_some, ctxAt_withPend]
  rw [if_pos (Bool.and_eq_true_iff.2 ⟨decide_eq_true hu, decide_eq_true ho⟩), State.ctxAt_updCtx_self]
  split
  · exact ⟨none, rfl⟩
  · exact ⟨_, rfl⟩

/-- A result of this module that nothing holds, and that no home still works on, is written where it arrives. -/
theorem deliver_arrives (h1 : p.origin.isPeer = false) (h2 : p.origin.isBase = false) (h3 : p.origin.isRecall = false)
    (h4 : s.resultHeld p = false) (hf : p.fail = none) :
    s.deliver p .arrives = s.settle p fun x => x.writeResult p := by
  simp [State.deliver, h1, h2, h3, h4, hf]

/-- Such a result that carries a failure fails its destination. -/
theorem deliver_arrives_failed {cause a mask : Nat} (h1 : p.origin.isPeer = false) (h2 : p.origin.isBase = false)
    (h3 : p.origin.isRecall = false) (h4 : s.resultHeld p = false) (hf : p.fail = some (cause, a, mask)) :
    s.deliver p .arrives = s.settle p fun x => x.failResult p cause a mask := by
  simp [State.deliver, h1, h2, h3, h4, hf]

/-- A marked register has the mark. -/
theorem stX_markX_self (x : Ctx) (st : RegSt) (h : k ≠ 0) : (x.markX k st).stX k = st := by
  simp [Ctx.markX, Ctx.stX, h]

/-- A scalar result that arrives: its register is full with its value (R78). -/
theorem deliver_arrives_x (hd : p.dst = .x k) (hk : 0 < k) (h1 : p.origin.isPeer = false) (h2 : p.origin.isBase = false)
    (h3 : p.origin.isRecall = false) (h4 : s.resultHeld p = false) (hc : s.ctxOf p.uid = some c)
    (hu : (s.ctxAt c).uid = p.uid) (ho : (s.ctxAt c).occ ≠ .free) (hf : p.fail = none) :
    ((s.deliver p .arrives).ctxAt c).getX k = p.xs.headD 0 ∧ ((s.deliver p .arrives).ctxAt c).stX k = .full := by
  obtain ⟨w, hw⟩ := ctxAt_settle (fun x => x.writeResult p) hc hu ho
  rw [deliver_arrives h1 h2 h3 h4 hf, hw]
  simp only [Ctx.writeResult, hd]
  exact ⟨(s.ctxAt c).getX_setX_self (p.xs.headD 0) (by omega), (s.ctxAt c).stX_setX_self k (p.xs.headD 0)⟩

/-- A scalar result that fails: its register fails with the result's cause, address and mask (R367). -/
theorem deliver_arrives_x_failed {cause a mask : Nat} (hd : p.dst = .x k) (hk : 0 < k) (h1 : p.origin.isPeer = false)
    (h2 : p.origin.isBase = false) (h3 : p.origin.isRecall = false) (h4 : s.resultHeld p = false) (hc : s.ctxOf p.uid = some c)
    (hu : (s.ctxAt c).uid = p.uid) (ho : (s.ctxAt c).occ ≠ .free) (hf : p.fail = some (cause, a, mask)) :
    ((s.deliver p .arrives).ctxAt c).stX k = .failed cause a mask := by
  obtain ⟨w, hw⟩ := ctxAt_settle (fun x => x.failResult p cause a mask) hc hu ho
  rw [deliver_arrives_failed h1 h2 h3 h4 hf, hw]
  simp only [Ctx.failResult, hd]
  exact stX_markX_self (s.ctxAt c) _ (by omega)

/-- LONG_LATENCY_RESULT of a result in flight that no MRD is still to produce. -/
theorem exec_longLatencyResult {n : Nat} (r : ResultIn) (hp : s.pendAt n = some p) (hi : s.inStream n = false) :
    exec (.longLatencyResult n r) s = .next (s.whole fun s => s.resultIn p r) := by
  change execLongLatencyResult n r s = _
  simp [execLongLatencyResult, hp, hi]

/-- A result behind no recall is delivered. -/
theorem resultIn_eq_deliver (r : ResultIn) (h : p.origin.isRecall = false) : s.resultIn p r = s.deliver p r := by
  simp [State.resultIn, h]

end Results

/-! ### Contexts and banks (R92, R93, R306) -/

/-- YIELD_HOLD_END: a hold ends when its fc is there (R306). -/
theorem exec_yieldHoldEnd {s : State} {core idx t : Nat} (h : (s.ctxAt ⟨core, idx⟩).hold = some t) :
    exec (.yieldHoldEnd core idx) s =
      .next (if t ≤ s.fc then s.updCtx ⟨core, idx⟩ fun x => { x with hold := none } else s) := by
  change execYieldHoldEnd core idx s = _
  simp [execYieldHoldEnd, h]

/-- BANK_MOVE_COMPLETE (R93). -/
theorem exec_bankMoveComplete {s : State} {core idx d v : Nat} (h : (s.ctxAt ⟨core, idx⟩).moving = some (d, v)) :
    exec (.bankMoveComplete core idx) s = .next (s.updCtx ⟨core, idx⟩ fun x => { x.setX d (wd v) with moving := none }) := by
  change execBankMoveComplete core idx s = _
  simp [execBankMoveComplete, h]

/-- BANK_RETURN of a core that is there (R92). -/
theorem exec_bankReturn {s : State} {core : Nat} (hp : s.corePresent core = true) (hv : isSvc core = false) :
    exec (.bankReturn core) s = .next (s.bankReturnAt core) := by
  change execBankReturn core s = _
  simp [execBankReturn, hp, hv]

section Drain

variable {s : State} {core idx : Nat}

/-- DRAIN_COMPLETE of a thread that ends: the berth is free when no result and no command of an array is outstanding (R30). -/
theorem exec_drainComplete (h8 : idx < 8) (ho : (s.ctxAt ⟨core, idx⟩).occ = .draining) (hs : (s.ctxAt ⟨core, idx⟩).saving = false) :
    exec (.drainComplete core idx) s = .next (if !s.awaits ⟨core, idx⟩ && (s.ctxAt ⟨core, idx⟩).stream.isEmpty then
      ((s.logReports core ((s.ctxAt ⟨core, idx⟩).reports ++ (s.ctxAt ⟨core, idx⟩).msyncReports)).updCtx ⟨core, idx⟩ Ctx.vacate).threadGone
        (s.ctxAt ⟨core, idx⟩).inst
      else s) := by
  change execDrainComplete core idx s = _
  simp [execDrainComplete, Nat.not_le.2 h8, ho, hs]

/-- DRAIN_COMPLETE of a thread that is being preempted: it is saved when it can be (R73). -/
theorem exec_drainComplete_saving (h8 : idx < 8) (ho : (s.ctxAt ⟨core, idx⟩).occ = .draining)
    (hs : (s.ctxAt ⟨core, idx⟩).saving = true) (hr : s.saveReady ⟨core, idx⟩ = true) :
    exec (.drainComplete core idx) s = .next (s.whole fun s => s.saveNow ⟨core, idx⟩) := by
  change execDrainComplete core idx s = _
  simp [execDrainComplete, Nat.not_le.2 h8, ho, hs, hr]

end Drain

/-- Settles O54, clause by clause from what each event's meaning answers. -/
theorem machineEvents : Obligations.MachineEvents := by
  refine ⟨exec_moduleReset, exec_clockChange, fun s c h8 hv hl hr => ⟨?_, ?_, ?_⟩, fun s core hp hd => ⟨exec_issueSelect hp hd,
    fun c => select_some, select_seen, fun hn => ?_⟩, fun s core idx t h => ⟨fun ht => ?_, fun ht => ?_⟩,
    fun s n r p hp hi => ⟨exec_longLatencyResult r hp hi, resultIn_eq_deliver r, ?_⟩, fun s core idx d v => exec_bankMoveComplete,
    fun s core hp hv => ⟨fun h => ?_, fun h => ?_⟩, fun s core idx h8 ho => ⟨fun hs ha hm => ?_, exec_drainComplete_saving h8 ho, fun hs h => ?_⟩⟩
  · intro b h s' hb hk _ h0 h1 h2 hpm
    exact exec_instructionFetch_enters h8 hv hl hr (go_enterLine (s := { s with cur := c }) hl hb hk h0 h1 h2 hpm)
  · intro b s' hb hk _
    exact exec_instructionFetch_traps h8 hv hl hr (go_enterLine_malformed (s := { s with cur := c }) hl hb hk)
  · intro cause value mask s' hb
    exact exec_instructionFetch_traps h8 hv hl hr (go_enterLine_stops (s := { s with cur := c }) hl hb)
  · rw [select_now hn]
    refine ⟨fun hp ⟨b, hb⟩ => pick_after_handler ?_ (mem_readyBerths.2 hb), fun hp ⟨n, hb⟩ => pick_after_berth ?_ (mem_readySlots.2 hb)⟩
    all_goals rw [State.coreAt_updCore_self]; exact hp
  · rw [exec_yieldHoldEnd h, if_pos ht]
  · rw [Idle, exec_yieldHoldEnd h, if_neg (by omega)]
  · intro k c hd hk h1 h2 h3 h4 hc hu ho
    exact ⟨deliver_arrives_x hd hk h1 h2 h3 h4 hc hu ho, fun _ _ _ => deliver_arrives_x_failed hd hk h1 h2 h3 h4 hc hu ho⟩
  · rw [exec_bankReturn hp hv, State.bankReturnAt, if_pos (by simpa using h)]
  · rw [Idle, exec_bankReturn hp hv, State.bankReturnAt, if_neg (by simpa using h)]
  · rw [exec_drainComplete h8 ho hs, if_pos (by simp [ha, hm])]
  · rw [Idle, exec_drainComplete h8 ho hs, if_neg]
    rcases h with h | h <;> simp [h]

end Sys2Proof.Machine
end

section
/-! SUPPORT. Instructions of tasks and watchpoints: how TSPAWN ends once it has released, one GRANT of an instance, the lowest free watchpoint of a slice, the watchpoint that a handle names (R57, R58, R63, R310, R311). -/
namespace Sys2Proof.Machine.Tasks
open Sys2Proof.Claims

variable {s t : State}

/-! ### Shared computations -/

/-- What another unit does as a whole, where it lacks nothing. -/
theorem go_wholeM {α : Type} {f : State → α × State} {r : α} (h : f s = (r, t)) (hl : t.lacks = s.lacks) :
    (wholeM f).go s = (.ok r, t) := by
  simp [wholeM, h, hl]

/-- A quad reads its four registers. -/
theorem go_readQuad (q : QSrc) (s : State) : (readQuad q).go s =
    (.ok [s.me.getX q.q.code, s.me.getX (q.q.code + 1), s.me.getX (q.q.code + 2), s.me.getX (q.q.code + 3)], s) := rfl

/-- A long-latency result of a quad. -/
theorem go_produce_quad (q : Quad) (v : List Word) (va pa : Nat) (fail : Option (Nat × Nat × Nat)) (o : Origin) (s : State) :
    (produce (.quad q.code) v VReg.zero va pa fail o (64, false)).go s = (.ok s.nextPend, producingQuad s q v va pa fail o) := rfl

/-- A translation that the caches answer. -/
theorem go_xlateM {va : Nat} {k : Kind} {x : Xl} (h : s.Translates va k x) : (xlateM va k).go s = (.ok x, s) := h

/-- A meaning whose last act is to move on. -/
theorem issue_ends {m : M Unit} (h : m.go s = (.ok (), t.updMe Ctx.advance)) : issue m s = .next (t.ends id) := by
  rw [issue_ok h, State.updMe_updMe]
  rfl

/-- A meaning that writes a register and moves on. -/
theorem issue_writes {m : M Unit} {d : Reg} {v : Word}
    (h : m.go s = (.ok (), (t.updMe fun c => c.setX d.toNat v).updMe Ctx.advance)) : issue m s = .next (t.writes d v) := by
  rw [issue_ok h, State.updMe_updMe, State.updMe_updMe]
  rfl

/-! ### TSPAWN (R57, R310) -/

section Tspawn
variable {a : Src} {imm : BitVec 16} {va : Nat} {words : List Nat} {s' s₂ : State} {pair : Nat × Nat} {r : Except (Nat × Nat) Unit}

/-- TSPAWN has its operand, waits for no answer, and can release (R156, R310). -/
structure SpawnReady (s : State) (a : Src) : Prop where
  ops : s.OpsReady [srcX a] []
  asks : s.me.asks = []
  release : s.MayRelease Scope.pk.code 1023
  quiet : (releases s .pk).Quiet

/-- TSPAWN releases at PK before it looks at its record. -/
theorem go_spawnStart (h : SpawnReady s a) (k : Word → M Unit) :
    M.go (do
      operands [srcX a] []
      let w ← readX a
      if (← me).asks.isEmpty then
        releaseM Scope.pk.code 1023
        waitPoint
      k w) s = (k (val s a)).go (releases s .pk) := by
  have hr : (releaseM Scope.pk.code 1023).go s = (.ok (), releases s .pk) := go_releaseM _ _ h.release
  simp [go_operands h.ops, h.asks, hr, go_waitPoint h.quiet, val]

/-- A record at an address that is no multiple of 64. -/
theorem exec_tspawn_misaligned (h : SpawnReady s a) (he : (val s a + imm.signExtend 64).toNat = va) (hv : va % 64 ≠ 0) :
    exec (.tspawn a imm) s = .next (s.traps (releases s .pk) Cause.badTarget va 0) := by
  refine issue_trap (?_ : M.go _ s = _)
  rw [go_spawnStart h]
  simp only [he, go_bind, go_trapIf, hv, ne_eq, not_false_eq_true, decide_true, if_true]

/-- A malformed record. -/
theorem exec_tspawn_malformed (h : SpawnReady s a) (he : (val s a + imm.signExtend 64).toNat = va) (hv : va % 64 = 0)
    (hw : ((upTo 8).mapM fun k => pushWord (va + 8 * k)).go (releases s .pk) = (.ok words, s'))
    (hb : (recordBad fun k => words.getD k 0) = true) :
    exec (.tspawn a imm) s = .next (s.traps s' Cause.badTarget va 0) := by
  refine issue_trap (?_ : M.go _ s = _)
  rw [go_spawnStart h]
  simp only [he, go_bind, go_trapIf, hv, hw, hb, ne_eq, not_true_eq_false, decide_false, Bool.false_eq_true, if_false, if_true]

/-- The push that a record makes for the acting thread (R57, R61). -/
def pushFor (s : State) (va : Nat) (words : List Nat) (pair : Nat × Nat) : Push :=
  ⟨s.space.ptbase, s.space.asid, s.space.pl != 0, svcOfCore s.cur.core, va, words, pair⟩

/-- The dependence pair that a record names is read; where it names none it is zero (R57, R62). -/
def PairRead (s' s₂ : State) (dep : Nat) (pair : Nat × Nat) : Prop :=
  dep = 0 ∧ pair = (0, 0) ∧ s₂ = s' ∨
    dep ≠ 0 ∧ ∃ s₁, (pushWord dep).go s' = (.ok pair.1, s₁) ∧ (pushWord (dep + 8)).go s₁ = (.ok pair.2, s₂)

/-- How TSPAWN ends with the answer of its push (R310). -/
def pushEnds (va : Nat) (r : Except (Nat × Nat) Unit) : M Unit :=
  match r with
  | .ok () => advance
  | .error (1, _) => trap Cause.badTarget va
  | .error _ => trap Cause.taskQueueFull va

theorem pushEnds_full {n k : Nat} (hn : n ≠ 1) (va : Nat) : pushEnds va (.error (n, k)) = trap Cause.taskQueueFull va := by
  unfold pushEnds
  split <;> simp_all

/-- A well-formed record is pushed, and TSPAWN ends with what the push answers. -/
theorem exec_tspawn_pushes (h : SpawnReady s a) (he : (val s a + imm.signExtend 64).toNat = va) (hv : va % 64 = 0)
    (hw : ((upTo 8).mapM fun k => pushWord (va + 8 * k)).go (releases s .pk) = (.ok words, s'))
    (hb : (recordBad fun k => words.getD k 0) = false) (hd : PairRead s' s₂ (words.getD 6 0) pair)
    (hp : s₂.pushInst (pushFor s₂ va words pair) = (r, t)) (hl : t.lacks = s₂.lacks) :
    ∃ m : M Unit, exec (.tspawn a imm) s = issue m s ∧ m.go s = (pushEnds va r).go t := by
  have push := go_wholeM (f := fun s => s.pushInst (pushFor s va words pair)) hp hl
  simp only [pushFor] at push
  refine ⟨_, rfl, ?_⟩
  rw [go_spawnStart h]
  simp only [he, go_bind, go_trapIf, hv, hw, hb, ne_eq, not_true_eq_false, decide_false, Bool.false_eq_true, if_false]
  obtain ⟨hd, rfl, rfl⟩ | ⟨hd, s₁, h1, h2⟩ := hd
  · simp only [hd, if_true, go_bind, go_pure, push]
    rfl
  · simp only [hd, if_false, go_bind, go_pure, h1, h2, push]
    rfl

end Tspawn

/-! ### GRANT (R58) -/

section Grant
variable {q : Quad}

/-- A thread of no instance gets zeros. -/
theorem exec_grant_none (h : s.OpsReady [] (quadDsts q)) (hi : s.me.inst = none) :
    exec (.grant q) s = .next ((producingQuad s q [0, 0, 0, 0] 0 0 none .here).ends id) := by
  refine issue_ends (?_ : M.go _ s = _)
  simp only [go_bind, go_operands h, go_get, hi, Option.bind_none, go_produce_quad, go_advance]

/-- A grant moves the cursor; the instance stays with its dispatcher. -/
@[simp] theorem grant_owner (v : Inst) (vl : Nat) : (v.grant vl).2.owner = v.owner := by
  unfold Inst.grant
  split
  · rfl
  · dsimp only
    split <;> rfl

/-- The vector length that a thread's grants go by: 0 without vector state (R58). -/
def lengthOf (x : Ctx) : Nat :=
  match x.vs with
  | some v => v.vl
  | none => 0

/-- A thread of an instance takes its next rectangle. -/
theorem exec_grant_some {i : Nat} {v : Inst} (h : s.OpsReady [] (quadDsts q)) (hi : s.me.inst = some i) (hv : s.instAt i = some v)
    (he : s.edgeHeld (dieOf s.cur.core) (v.owner / 4) = false) :
    exec (.grant q) s = .next ((producingQuad ((s.setInst i (v.grant (lengthOf s.me)).2).leaveQueue i) q
      (v.grant (lengthOf s.me)).1 0 0 none (.home (v.owner / 4))).ends id) := by
  refine issue_ends (?_ : M.go _ s = _)
  cases hs : s.me.vs <;> simp only [go_bind, go_operands h, go_get, hi, hv, Option.bind_some, Option.map_some, go_edgeGate he, go_upd,
    go_produce_quad, go_advance, grant_owner, lengthOf, hs]

/-- An instance whose cursor is at its end, or that has no columns, grants zeros. -/
theorem grant_over {v : Inst} (vl : Nat) (h : v.rows ≤ v.rb ∨ v.cols = 0) : v.grant vl = ([0, 0, 0, 0], v) := by
  simp [Inst.grant, h]

/-- The rectangle of a grant, and the cursor after it. -/
theorem grant_rectangle {v : Inst} (vl : Nat) (hr : v.rb < v.rows) (hc : v.c < v.cols) :
    let n := min (max v.grain 1) (v.rows - v.rb)
    let w := min (max vl 1) (v.cols - v.c)
    v.grant vl = ([wd v.rb, wd n, wd v.c, wd w], if v.c + w = v.cols then { v with c := 0, rb := v.rb + n } else { v with c := v.c + w }) := by
  have h : (v.rows ≤ v.rb || v.cols = 0) = false := by simp; omega
  simp only [Inst.grant, h, Bool.false_eq_true, if_false]
  split <;> rfl

end Grant

/-! ### Watchpoints (R63, R311) -/

section Watch
variable {d : Reg} {q : QSrc} {n : BitVec 3} {x : Xl} {range f : Nat}

/-- The lowest free watchpoint of a slice. -/
theorem find_freeWatch {cl : Nat} (hf : f < 16) (h : s.watchAt cl f = none) (hl : ∀ g, g < f → s.watchAt cl g ≠ none) :
    ((upTo 16).find? fun f => (s.watchAt cl f).isNone) = some f := by
  refine List.find?_range_eq_some.2 ⟨by simp [h], List.mem_range.2 hf, fun g hg => ?_⟩
  simpa [Option.isSome_iff_ne_none] using hl g hg

/-- A slice whose 16 watchpoints are taken. -/
theorem find_freeWatch_none {cl : Nat} (h : ∀ f, f < 16 → s.watchAt cl f ≠ none) :
    ((upTo 16).find? fun f => (s.watchAt cl f).isNone) = none := by
  refine List.find?_range_eq_none.2 fun f hf => ?_
  simpa [Option.isSome_iff_ne_none] using h f hf

/-- A range that is misaligned or leaves its line. -/
theorem exec_watch_misaligned (once : Bool) (h : s.OpsReady (quadSrcs q) [.x d.toNat false]) (hr : (s.me.getX q.q.code).toNat = range)
    (hm : range % 8 ≠ 0 ∨ 8 < range / 8 % 8 + (n.toNat + 1)) :
    exec (.watch once n d q) s = .next (s.traps s Cause.misalign range 0) := by
  refine issue_trap (?_ : M.go _ s = _)
  have hm : (decide (range % 8 ≠ 0) || decide (8 < range / 8 % 8 + (n.toNat + 1))) = true := by
    simpa only [Bool.or_eq_true, decide_eq_true_eq] using hm
  simp only [go_bind, go_operands h, go_readQuad, List.getD_cons_zero, hr, go_trapIf, hm, if_true]

/-- WATCH of a range within its line that translates: what is left to do once it has been checked (R311). -/
theorem go_watchStart (h : s.OpsReady (quadSrcs q) [.x d.toNat false]) (hr : (s.me.getX q.q.code).toNat = range)
    (h8 : range % 8 = 0) (hl : range / 8 % 8 + (n.toNat + 1) ≤ 8) (ht : s.Translates range .load x) (k : List Word → Xl → M Unit) :
    M.go (do
      operands (quadSrcs q) [.x d.toNat false]
      let w ← readQuad q
      trapIf ((w.getD 0 0).toNat % 8 ≠ 0 || 8 < (w.getD 0 0).toNat / 8 % 8 + (n.toNat + 1)) Cause.misalign (w.getD 0 0).toNat
      let x ← xlateM (w.getD 0 0).toNat .load
      k w x) s =
    (k [s.me.getX q.q.code, s.me.getX (q.q.code + 1), s.me.getX (q.q.code + 2), s.me.getX (q.q.code + 3)] x).go s := by
  have hm : (decide (range % 8 ≠ 0) || decide (8 < range / 8 % 8 + (n.toNat + 1))) = false := by simp; omega
  simp only [go_bind, go_operands h, go_readQuad, List.getD_cons_zero, hr, go_trapIf, hm, Bool.false_eq_true, if_false, go_xlateM ht]

/-- The watchpoint that a WATCH of the acting thread sets in place `f` of its slice (R311; log 44). -/
def newWatch (s : State) (once : Bool) (n : BitVec 3) (q : QSrc) (pa f : Nat) : Watch :=
  ⟨watchHandle (s.clAt (s.homeSlice pa)).watchSeq (s.homeSlice pa) f, pa, n.toNat + 1, s.me.getX (q.q.code + 1), s.me.getX (q.q.code + 2),
    (s.me.getX (q.q.code + 3)).toNat, once, s.space.ptbase, s.space.asid, s.space.pl != 0⟩

section Placed
variable (once : Bool) (h : s.OpsReady (quadSrcs q) [.x d.toNat false]) (hr : (s.me.getX q.q.code).toNat = range)
  (h8 : range % 8 = 0) (hl : range / 8 % 8 + (n.toNat + 1) ≤ 8) (ht : s.Translates range .load x)
include h hr h8 hl ht

/-- A range outside this module's HBM. -/
theorem exec_watch_elsewhere (hc : paClass x.pa ≠ 0) : exec (.watch once n d q) s = .next (s.traps s Cause.badTarget range 0) := by
  refine issue_trap (?_ : M.go _ s = _)
  rw [go_watchStart h hr h8 hl ht]
  simp only [go_bind, go_trapIf, hc, ne_eq, not_false_eq_true, decide_true, if_true, List.getD_cons_zero, hr]

variable (hc : paClass x.pa = 0) (he : s.edgeHeld (dieOf s.cur.core) (s.homeSlice x.pa / 64) = false)
include hc he

/-- A slice without a free watchpoint. -/
theorem exec_watch_full (hf : ∀ f, f < 16 → s.watchAt (s.homeSlice x.pa) f ≠ none) :
    exec (.watch once n d q) s = .next (s.traps s Cause.watchFull range 0) := by
  refine issue_trap (?_ : M.go _ s = _)
  rw [go_watchStart h hr h8 hl ht]
  simp only [go_bind, go_trapIf, hc, ne_eq, not_true_eq_false, decide_false, Bool.false_eq_true, if_false, List.getD_cons_zero, hr,
    go_get, go_edgeGate he, find_freeWatch_none hf, go_trap]

/-- The lowest free watchpoint of the home slice is set, and its handle answered. -/
theorem exec_watch_set (hf : f < 16) (hn : s.watchAt (s.homeSlice x.pa) f = none)
    (hg : ∀ g, g < f → s.watchAt (s.homeSlice x.pa) g ≠ none) :
    exec (.watch once n d q) s = .next ((s.updCl (s.homeSlice x.pa) fun c =>
      { c with watch := KMap.ins c.watch f (some (newWatch s once n q x.pa f)), watchSeq := (c.watchSeq + 1) % 2 ^ 16 }).writes d
        (wd (newWatch s once n q x.pa f).handle)) := by
  refine issue_writes (?_ : M.go _ s = _)
  rw [go_watchStart h hr h8 hl ht]
  simp only [go_bind, go_trapIf, hc, ne_eq, not_true_eq_false, decide_false, Bool.false_eq_true, if_false,
    go_get, go_edgeGate he, find_freeWatch hf hn hg, go_upd, go_writeX, go_advance]
  rfl

end Placed

/-- A handle that names no place of a slice that is there. -/
theorem exec_unwatch_bad {a : Src} {w : Nat} (h : s.OpsReady [srcX a] [.x d.toNat false]) (hv : (val s a).toNat = w)
    (hb : 2 ^ 32 ≤ w ∨ bitsAt w 12 4 ≠ 0 ∨ s.clusterPresent (bitsAt w 4 8) = false) :
    exec (.unwatch d a) s = .next (s.traps s Cause.badTarget w 0) := by
  refine issue_trap (?_ : M.go _ s = _)
  have hb : (decide (2 ^ 32 ≤ w) || decide (bitsAt w 12 4 ≠ 0) || !s.clusterPresent (bitsAt w 4 8)) = true := by
    simpa only [Bool.or_eq_true, decide_eq_true_eq, Bool.not_eq_true', or_assoc] using hb
  simp only [val] at hv
  simp only [go_bind, go_operands h, go_readX, go_get, go_trapIf, hv, hb, if_true]

section Named
variable {a : Src} {w : Nat} (h : s.OpsReady [srcX a] [.x d.toNat false]) (hv : (val s a).toNat = w) (h32 : w < 2 ^ 32)
  (hz : bitsAt w 12 4 = 0) (hp : s.clusterPresent (bitsAt w 4 8) = true)
  (he : s.edgeHeld (dieOf s.cur.core) (bitsAt w 4 8 / 64) = false)
include h hv h32 hz hp he

/-- UNWATCH of a handle that names a place: what is left to do once it has been checked (R311). -/
theorem go_unwatchStart (k : Word → State → M Unit) :
    M.go (do
      operands [srcX a] [.x d.toNat false]
      let v ← readX a
      let s ← get
      trapIf (decide (2 ^ 32 ≤ v.toNat) || bitsAt v.toNat 12 4 ≠ 0 || !s.clusterPresent (bitsAt v.toNat 4 8)) Cause.badTarget v.toNat
      edgeGate (bitsAt v.toNat 4 8 / 64)
      k v s) s = (k (val s a) s).go s := by
  have hb : (decide (2 ^ 32 ≤ w) || decide (bitsAt w 12 4 ≠ 0) || !s.clusterPresent (bitsAt w 4 8)) = false := by
    simp only [hz, hp, Nat.not_le.2 h32, ne_eq, not_true_eq_false, decide_false, Bool.or_self, Bool.not_true]
  simp only [val] at hv ⊢
  simp only [go_bind, go_operands h, go_readX, go_get, go_trapIf, hv, hb, Bool.false_eq_true, if_false, go_edgeGate he]

/-- UNWATCH of a handle that names no watchpoint any more. -/
theorem exec_unwatch_gone (hk : ∀ k, s.watchAt (bitsAt w 4 8) (w % 16) = some k → k.handle ≠ w) :
    exec (.unwatch d a) s = .next (s.writes d 1) := by
  refine issue_writes (?_ : M.go _ s = _)
  rw [go_unwatchStart h hv h32 hz hp he, hv]
  cases hw : s.watchAt (bitsAt w 4 8) (w % 16) with
  | none => rfl
  | some k => simp only [hk k hw, if_false, go_bind, go_writeX, go_advance]

/-- UNWATCH removes the watchpoint that its handle names. -/
theorem exec_unwatch_named {k : Watch} (hw : s.watchAt (bitsAt w 4 8) (w % 16) = some k) (hk : k.handle = w) :
    exec (.unwatch d a) s = .next ((s.updCl (bitsAt w 4 8) fun c => { c with watch := KMap.ins c.watch (w % 16) none }).writes d 0) := by
  refine issue_writes (?_ : M.go _ s = _)
  rw [go_unwatchStart h hv h32 hz hp he, hv]
  simp only [hw, hk, if_true, go_bind, go_upd, go_writeX, go_advance]

end Named

end Watch

/-- Settles O48: each instruction by the lemmas on its outcomes. -/
theorem tasksAndWatchpoints : Obligations.TasksAndWatchpoints := by
  refine ⟨fun s s' t a imm words r ho ha hr hq => ?_, fun s q h => ⟨exec_grant_none h, fun i v hi hv he => exec_grant_some h hi hv he⟩,
    fun v vl => ⟨grant_over vl, fun hr hc => ?_⟩, fun s once n d q x h => ⟨exec_watch_misaligned once h rfl, fun h8 hl ht =>
      ⟨exec_watch_elsewhere once h rfl h8 hl ht, fun hc he => ⟨exec_watch_full once h rfl h8 hl ht hc he,
        fun f hf hn hg => exec_watch_set once h rfl h8 hl ht hc he hf hn hg⟩⟩⟩,
    fun s d a h => ⟨exec_unwatch_bad h rfl, fun h32 hz hp he => ⟨exec_unwatch_gone h rfl h32 hz hp he,
      fun k hw hk => exec_unwatch_named h rfl h32 hz hp he hw hk⟩⟩⟩
  · have ready : SpawnReady s a := ⟨ho, ha, hr, hq⟩
    refine ⟨exec_tspawn_misaligned ready rfl, fun hv hw => ⟨exec_tspawn_malformed ready rfl hv hw, fun s₂ pair hb hd hp hl => ?_⟩⟩
    obtain ⟨m, hm, hg⟩ := exec_tspawn_pushes ready rfl hv hw hb hd hp hl
    rw [hm]
    refine ⟨fun hr => issue_ends ?_, fun k hr => issue_trap ?_, fun n k hn hr => issue_trap ?_⟩ <;> rw [hg, hr]
    · rfl
    · rfl
    · rw [pushEnds_full hn]
      rfl
  · have hg := grant_rectangle vl hr hc
    refine ⟨congrArg Prod.fst hg, fun hw => ?_, fun hw => ?_⟩
    · exact (congrArg Prod.snd hg).trans (if_neg (Nat.ne_of_lt hw))
    · exact (congrArg Prod.snd hg).trans (if_pos hw)

end Sys2Proof.Machine.Tasks
end

section
/-! SUPPORT. Events of tasks: what entering a queue leaves alone, where a dispatcher places a thread, and what each event's meaning comes to (R62, R64, R67 to R73). -/
namespace Sys2Proof.Machine.Tasks
open Sys2Proof.Claims

variable {s t : State} {i k : Nat} {v : Inst}

/-! ### What entering a queue leaves alone -/

@[simp] theorem satisfy_lacks (s : State) (i : Nat) (v : Inst) : (s.satisfy i v).lacks = s.lacks := rfl

@[simp] theorem dropDepend_lacks (s : State) (i : Nat) (v : Inst) : (s.dropDepend i v).lacks = s.lacks := rfl

/-- Entering a queue reaches for nothing. -/
@[simp] theorem enterQueue_lacks (s : State) (k : Nat) : (s.enterQueue k).lacks = s.lacks := by
  unfold State.enterQueue
  generalize (s.dispAt k).satisfied = l
  induction l generalizing s with
  | nil => rfl
  | cons i l ih =>
    rw [List.foldl_cons, ih]
    split
    · rfl
    · split <;> rfl

/-- Where no instance's condition holds, none enters. -/
theorem enterQueue_none (h : (s.dispAt k).satisfied = []) : s.enterQueue k = s := by
  simp [State.enterQueue, h]

/-- A dispatcher that lives lets waiting instances enter (R62). -/
theorem exec_pendingEnterQueue (hk : k < 16) (hd : s.dispDead k = false) : exec (.pendingEnterQueue k) s = .next (s.enterQueue k) := by
  change execPendingEnterQueue k s = _
  simp [execPendingEnterQueue, hk, hd]

/-! ### Watchpoint matches (R64) -/

section Match
variable {n : Nat} {h : Hit}

/-- The first match of its slice is pushed. -/
theorem exec_watchpointMatch (hn : s.hits[n]? = some h) (hf : ((s.hits.take n).any fun e => e.cl == h.cl) = false) :
    exec (.watchpointMatch n) s =
      .next (s.whole fun s => ({ s with hits := s.hits.eraseIdx n } : State).watchPush h.cl h.watch) := by
  change execWatchpointMatch n s = _
  simp only [execWatchpointMatch, hn, hf, Bool.false_eq_true, if_false]

/-- A later match of a slice waits for the earlier ones. -/
theorem watchpointMatch_waits (hn : s.hits[n]? = some h) (hf : ((s.hits.take n).any fun e => e.cl == h.cl) = true) :
    Idle (.watchpointMatch n) s := by
  change execWatchpointMatch n s = _
  simp only [execWatchpointMatch, hn, hf, if_true]

end Match

/-! ### Dependences (R62, R404) -/

/-- What the home's compare of a pending instance's word comes to. -/
def compareDepend (s : State) (i : Nat) (v : Inst) : State :=
  let r := s.homeWord (v.depPa / 8)
  if r.2 then s.dropDepend i v
  else if decide (v.depThr ≤ r.1.toNat) then (s.satisfy i v).enterQueue v.owner else s

@[simp] theorem compareDepend_lacks (s : State) (i : Nat) (v : Inst) : (compareDepend s i v).lacks = s.lacks := by
  simp only [compareDepend]
  split
  · rw [dropDepend_lacks]
  · split
    · rw [enterQueue_lacks, satisfy_lacks]
    · rfl

/-- A word within reach is compared. -/
theorem exec_dependenceSatisfied (hi : s.instAt i = some v) (hp : v.st = .pending) (hb : s.heldBack (1024 + v.owner) v.depPa 8 = false) :
    exec (.dependenceSatisfied i) s = .next (compareDepend s i v) := by
  have hw : (s.whole fun s => compareDepend (s.reach (1024 + v.owner) v.depPa 8) i v) = compareDepend s i v := by
    rw [whole_done] <;> simp only [reach_open hb, compareDepend_lacks]
  change execDependenceSatisfied i s = _
  simp only [execDependenceSatisfied, hi, hp, ne_eq, not_true_eq_false, if_false]
  exact congrArg _ hw

/-! ### Dispatch (R68 to R70) -/

section Dispatch
variable {c : CtxId} {core b : Nat} {held : List Nat}

theorem freeBerth_some (h : s.freeBerth core = some b) : (s.ctxAt ⟨core, b⟩).occ = .free := by
  unfold State.freeBerth at h
  split at h
  · cases h
  · simpa using List.find?_some h

/-- A thread is placed in a FREE berth of a cluster in the instance's order (R69). -/
theorem placeOf_some (h : s.placeOf v held = some c) : (s.ctxAt c).occ = .free ∧ (s.placeOrder v).contains (c.core / 4) = true := by
  obtain ⟨core, hm, hc⟩ := List.exists_of_findSome?_eq_some h
  obtain ⟨cl, hcl, hm⟩ := List.mem_flatMap.1 hm
  obtain ⟨j, hj, rfl⟩ := List.mem_map.1 hm
  have hj : j < 4 := List.mem_range.1 hj
  split at hc
  · cases hc
  · obtain ⟨b, hb, rfl⟩ := Option.map_eq_some_iff.1 hc
    have hd : (4 * cl + j) / 4 = cl := by omega
    exact ⟨freeBerth_some hb, by simpa only [hd, List.contains_iff_mem] using (List.mem_filter.1 hcl).1⟩

/-- What the dispatcher enters next is one of its instances, placed in a berth (R68). -/
theorem dispatchNext_some (h : s.dispatchNext k = some (i, v, c)) : s.instAt i = some v ∧ ∃ held, s.placeOf v held = some c := by
  unfold State.dispatchNext at h
  split at h
  · cases h
  · obtain ⟨p, _, hp⟩ := List.exists_of_findSome?_eq_some h
    obtain ⟨j, _, hj⟩ := List.exists_of_findSome?_eq_some hp
    split at hj
    · cases hj
    · next w hw =>
      dsimp only at hj
      split at hj
      · obtain ⟨d, hd, he⟩ := Option.map_eq_some_iff.1 hj
        cases he
        exact ⟨hw, _, hd⟩
      · cases hj

/-- The dispatcher starts a thread of the instance that comes first. -/
theorem exec_taskDispatch (h : s.dispatchNext k = some (i, v, c)) : exec (.taskDispatch k) s = .next (s.whole fun s =>
    (((s.cross (k / 4) (dieOf c.core)).startThread c (v.start i)).updInst i fun v => { v with started := v.started + 1 }).leaveQueue i) := by
  change execTaskDispatch k s = _
  simp only [execTaskDispatch, h]

end Dispatch

/-! ### Aging (R68) -/

/-- An instance that may rise is queued below priority 3, and has waited longer than TDAGE. -/
theorem ages_requires (h : s.ages v = true) : v.st = .queued ∧ v.prio < 3 ∧ v.since + 64 * (s.dispAt v.owner).tdage < s.fc := by
  simp only [State.ages, Bool.and_eq_true, beq_iff_eq, decide_eq_true_eq] at h
  obtain ⟨⟨⟨⟨hq, hp⟩, _⟩, ht⟩, _⟩ := h
  exact ⟨hq, hp, ht⟩

/-- An instance that may rise goes to the tail of the next queue. -/
theorem exec_taskAging (hi : s.instAt i = some v) (ho : v.owner = k) (hd : s.dispDead k = false) (h : s.ages v = true) :
    exec (.taskAging k i) s = .next (((s.setInst i { v with prio := v.prio + 1, since := s.fc }).updDisp k fun d =>
      (d.dequeue i).enqueue (v.prio + 1) i).enterQueue k) := by
  change execTaskAging k i s = _
  simp [execTaskAging, hi, ho, hd, h]

/-- Any other stays where it is. -/
theorem taskAging_idle (hi : s.instAt i = some v) (h : s.ages v = false) : Idle (.taskAging k i) s := by
  change execTaskAging k i s = _
  simp [execTaskAging, hi, h]

/-! ### Preemption and resumption (R72, R73) -/

/-- The victim of a dispatcher is stopped. -/
theorem exec_preempt {c : CtxId} (hd : s.dispDead k = false) (h : s.dispVictim k = some c) :
    exec (.preempt k) s = .next (s.preemptAt c) := by
  change execPreempt k s = _
  simp [execPreempt, hd, State.preempt, h]

/-- A dispatcher without a victim stops nothing. -/
theorem preempt_idle (hd : s.dispDead k = false) (h : s.dispVictim k = none) : Idle (.preempt k) s := by
  change execPreempt k s = _
  simp [execPreempt, hd, State.preempt, h]

theorem exec_resume {core : Nat} (hd : s.coreDead core = false) : exec (.resume core) s = .next (s.whole fun s => s.resume core) := by
  change execResume core s = _
  simp [execResume, hd]

/-- A core without saved threads resumes none. -/
theorem resume_none {core : Nat} (h : (s.coreAt core).saved = []) : s.resume core = s := by
  simp [State.resume, State.resumePlace, h]

/-! ### Completion (R71, R413) -/

/-- An instance is over only without threads and commands. -/
theorem instOver_requires (h : s.instOver v = true) : v.threads = 0 ∧ v.ferries = 0 := by
  simp only [State.instOver, Bool.and_eq_true, beq_iff_eq] at h
  obtain ⟨⟨⟨_, ht⟩, hf⟩, _⟩ := h
  exact ⟨ht, hf⟩

theorem taskCompletion_idle (hi : s.instAt i = some v) (h : s.instOver v = false) : Idle (.taskCompletion i) s := by
  change execTaskCompletion i s = _
  simp [execTaskCompletion, hi, h]

/-- A completing instance releases what the cores have written, in `t`; what comes next depends on what that lacked and on what its word waits for. -/
theorem exec_taskCompletion (hi : s.instAt i = some v) (h : s.instOver v = true)
    (ht : (s.releaseAllHomes.foldl (fun (s : State) a => s.reach a.1 a.2.1 a.2.2) s).releaseAll = t) :
    exec (.taskCompletion i) s = .next (if t.lacks ≠ s.lacks then s.askRecalls t.lacks
      else if t.releasing || t.complBlocked v then t else t.whole fun s => s.complete i v) := by
  subst ht
  change execTaskCompletion i s = _
  simp only [execTaskCompletion, hi, h, Bool.not_true, Bool.false_eq_true, if_false]

/-- A completion word of this module within reach rises by 1 (R57). -/
theorem bumpCompl_home {x : Xl} {owner : Nat} (hc : paClass x.pa = 0) (hb : s.heldBack (1024 + owner) x.pa 8 = false) :
    s.bumpCompl owner x = ((s.homePut x.pa 8 ((s.homeBytes x.pa 8 + 1) % 2 ^ 64)).1.isNone,
      (s.homePut x.pa 8 ((s.homeBytes x.pa 8 + 1) % 2 ^ 64)).2) := by
  simp [State.bumpCompl, reach_open hb, hc]

/-- An instance whose completion word has risen leaves the dispatcher's table. -/
theorem complete_bumps {x : Xl} (hl : v.lost = 0) (hv : v.compl ≠ 0)
    (hx : s.complXl (pushSpace v.ptbase v.asid v.psup v.owner) v.compl = (some x, t)) (hb : (t.bumpCompl v.owner x).1 = true) :
    s.complete i v = { (t.bumpCompl v.owner x).2 with insts := KMap.del (t.bumpCompl v.owner x).2.insts i } := by
  simp only [State.complete, hl, Nat.lt_irrefl, if_false, hv, hx, hb, if_true]

/-- Settles O56, clause by clause from what each event's meaning comes to. -/
theorem taskEvents : Obligations.TaskEvents := by
  refine ⟨fun s n h hn => ⟨exec_watchpointMatch hn, watchpointMatch_waits hn⟩, fun s i v hi hp hb => ?_, fun s k hk hd =>
      ⟨exec_pendingEnterQueue hk hd, enterQueue_none⟩,
    fun s k i v c h => ?_, fun s k i v hi ho hd => ⟨exec_taskAging hi ho hd, taskAging_idle hi, ?_⟩,
    fun s k hd => ⟨fun c => exec_preempt hd, preempt_idle hd⟩, fun s core hd => ⟨exec_resume hd, fun h => ?_⟩,
    fun s i v hi => ⟨fun h => ?_, taskCompletion_idle hi, instOver_requires⟩, fun s i v x t hl hv hx hc hb h => ?_⟩
  · have e := exec_dependenceSatisfied hi hp hb
    refine ⟨fun h => ?_, fun h1 h2 => ?_, fun h1 h2 => ?_⟩
    · simpa only [compareDepend, h, if_true] using e
    · simpa only [compareDepend, h1, h2, decide_true, Bool.false_eq_true, if_true, if_false] using e
    · simpa only [Idle, compareDepend, h1, Nat.not_le.2 h2, decide_false, Bool.false_eq_true, if_false] using e
  · obtain ⟨hi, held, hp⟩ := dispatchNext_some h
    exact ⟨exec_taskDispatch h, hi, placeOf_some hp⟩
  · subst ho
    exact ages_requires
  · rw [Idle, exec_resume hd, whole_done] <;> rw [resume_none h]
  · have e := exec_taskCompletion hi h rfl
    refine ⟨fun hl => ?_, fun hl hr hb => ?_, fun hl hr => ?_⟩
    · rw [e, if_pos hl]
    · rw [e, if_neg (not_not_intro hl), if_neg (by simp [hr, hb])]
    · rw [e, if_neg (not_not_intro hl), if_pos hr]
  · have e := bumpCompl_home hc hb
    have hr : (t.bumpCompl v.owner x).1 = true := by simp only [e, h, Option.isNone_none]
    rw [complete_bumps hl hv hx hr, e]

end Sys2Proof.Machine.Tasks
end

section
/-! SUPPORT. Scalar floating point: what each shape of instruction comes to, and what FCVT leaves (R113, R215 to R219). -/
namespace Sys2Proof.Machine
open Sys2Proof.Claims

section Forms
variable {s : State} {t : FTy} {rm : RMode} {d : Reg} {a b c : Src}

/-- Issuing what ends by changing the acting context and moving to the next head. -/
theorem issue_ends {m : M Unit} {f : Ctx → Ctx} (h : m.go s = (.ok (), s.updMe fun x => (f x).advance)) :
    issue m s = .next (s.ends f) := by
  rw [issue_ok h, State.updMe_updMe]
  rfl

/-- A result of two codes (R215, R216). -/
theorem issue_float2 (f : Fmt → Nat → Nat → Nat → Nat × Nat) (h : s.OpsReady [srcX a, srcX b] [dstX d]) :
    issue (float2 t d a b f) s =
      .next (floats s d (f (ftyFmt t) s.me.fcsr ((val s a).toNat % 2 ^ (ftyFmt t).width) ((val s b).toNat % 2 ^ (ftyFmt t).width))) := by
  refine issue_ends ?_
  simp only [float2, go_bind, go_operands h, go_readX, go_me, go_raise, go_writeX, go_advance, State.updMe_updMe]
  rfl

/-- The square root (R216). -/
theorem exec_fsqrt (h : s.OpsReady [srcX a] [dstX d]) :
    exec (.fsqrt t rm d a) s =
      .next (floats s d ((ftyFmt t).sqrtOp (arith s.me.fcsr rm) ((ftyFmt t).read ((val s a).toNat % 2 ^ (ftyFmt t).width)))) := by
  refine issue_ends ?_
  simp only [go_bind, go_operands h, go_readX, go_me, go_raise, go_writeX, go_advance, State.updMe_updMe]
  rfl

/-- A fused product (R218). -/
theorem issue_fused (f : Fmt → Rnd → Fv → Fv → Fv → Nat × Nat) (h : s.OpsReady [srcX a, srcX b, srcX c] [dstX d]) :
    issue (fused t rm d a b c f) s =
      .next (floats s d (f (ftyFmt t) (arith s.me.fcsr rm) ((ftyFmt t).read ((val s a).toNat % 2 ^ (ftyFmt t).width))
        ((ftyFmt t).read ((val s b).toNat % 2 ^ (ftyFmt t).width)) ((ftyFmt t).read ((val s c).toNat % 2 ^ (ftyFmt t).width)))) := by
  refine issue_ends ?_
  simp only [fused, go_bind, go_operands h, go_readX, go_me, go_raise, go_writeX, go_advance, State.updMe_updMe]
  rfl

/-! ### FCVT (R113, R219) -/

/-- The generator after a conversion: one step where it draws (R113). -/
theorem convert_seed (src dst : Nat) (mode : RMode) (satn : Bool) (seed bits : Nat) :
    (convert src dst mode satn seed bits).2.2 =
      if mode = .sr ∧ narrowing src dst false = true ∧ (codeValue src bits).isFin = true then srStep seed else seed := by
  simp only [convert, Bool.and_eq_true, beq_iff_eq, and_assoc]

/-- An I32 result is sign-extended to its register (R219). -/
theorem wd_ofSigned_toSigned (n : Nat) : wd (ofSigned 64 (toSigned 32 n)) = (BitVec.ofNat 32 n).signExtend 64 := by
  have h : toSigned 32 n = (BitVec.ofNat 32 n).toInt := by
    rw [BitVec.toInt_eq_toNat_cond, BitVec.toNat_ofNat]
    rfl
  rw [h]
  apply BitVec.eq_of_toNat_eq
  simp only [wd, ofSigned, BitVec.signExtend, BitVec.toNat_ofNat, BitVec.toNat_ofInt]
  omega

/-- FCVT: flags, generator and result. -/
theorem exec_fcvt {dt st : CTy} (h : s.OpsReady [srcX a] [dstX d]) :
    let r := convert (ctyCode st) (ctyCode dt) (resolveMode s.me.fcsr rm) (fcsrSatn s.me.fcsr) s.me.seed (val s a).toNat
    exec (.fcvt dt st rm d a) s = .next (s.ends fun x =>
      ({ x with fcsr := x.fcsr ||| r.2.1, seed := r.2.2 }).setX d.toNat
        (if dt = CTy.i32 then wd (ofSigned 64 (toSigned 32 r.1)) else wd r.1)) := by
  refine issue_ends ?_
  simp only [go_bind, go_operands h, go_readX, go_me, go_raise, go_updMe, go_writeX, go_advance, State.updMe_updMe]
  rfl

end Forms

/-- Settles O10: the shapes of the rounded and the fused forms, and FCVT with its generator and its sign extension. -/
theorem floatResults : Obligations.FloatResults := by
  refine ⟨⟨fun rm s t d a b h => issue_float2 _ h, fun rm s t d a b h => issue_float2 _ h, fun rm s t d a b h => issue_float2 _ h,
      fun rm s t d a b h => issue_float2 _ h, fun s t d a b h => issue_float2 _ h, fun s t d a b h => issue_float2 _ h,
      fun s t rm d a h => exec_fsqrt h, fun s t rm d a b c h => issue_fused _ h, fun s t rm d a b c h => issue_fused _ h,
      fun s t rm d a b c h => issue_fused _ h⟩, fun s dt st rm d a h => ?_⟩
  intro mode v draws r
  rw [exec_fcvt h]
  refine congrArg _ (s.updMe_congr ?_)
  simp only [convert_seed, wd_ofSigned_toSigned]
  rfl

end Sys2Proof.Machine
end

section
/-! SUPPORT. Vector arithmetic of one and two sources: the element operations of the model as R103 and R246 write them, and the two shapes of instruction. -/
namespace Sys2Proof.Machine
open Sys2Proof.Claims

/-! ### Element operations (R103, R246) -/

/-- An integer type has no format. -/
theorem fmtOf_isInt : ∀ {ty : Nat}, isInt ty = true → fmtOf ty = none
  | 0, _ | 1, _ | 2, _ | 3, _ | 4, _ | 5, _ | 6, _ | 7, _ => rfl
  | n + 8, h => absurd (of_decide_eq_true h : n + 8 < 8) (Nat.not_lt.2 (Nat.le_add_left 8 n))

/-- An integer operation of two elements, on an integer type. -/
theorem int2_isInt {ty : Nat} (f : Bool → Nat → Nat → Nat → Nat) (h : isInt ty = true) (fcsr x y : Nat) :
    int2 f ty fcsr x y = (f (tySigned ty) (tyWidth ty) x y, 0) := by
  simp only [int2, elem2, fmtOf_isInt h]

/-- An integer operation of one element, on an integer type. -/
theorem int1_isInt {ty : Nat} (f : Nat → Nat → Nat) (h : isInt ty = true) (fcsr x : Nat) :
    int1 f ty fcsr x = (f (tyWidth ty) x, 0) := by
  simp only [int1, elem1, fmtOf_isInt h]

/-- The smaller by the type's order. -/
theorem intPick_min (sg : Bool) (w x y : Nat) :
    intPick false sg w x y = if sg then (if toSigned w x < toSigned w y then x else y) else if x < y then x else y := by
  cases sg <;> simp only [intPick, Bool.bne_false, decide_eq_true_eq, if_true, if_false, Bool.false_eq_true]

/-- The larger by the type's order. -/
theorem intPick_max (sg : Bool) (w x y : Nat) :
    intPick true sg w x y = if sg then (if toSigned w x < toSigned w y then y else x) else if x < y then y else x := by
  cases sg <;> simp only [intPick, Bool.bne_true, Bool.not_eq_true', decide_eq_false_iff_not, ite_not, if_true, if_false, Bool.false_eq_true]

/-! ### The two shapes (R246) -/

/-- A form that issues as two sources of one accepted type, with an operation that is `g` on those types. -/
theorem vec2_of {i : VDst → VSrc → VSrc → MaskF → Instr} {op : Nat} {ok : Nat → Bool} {f g : Nat → Nat → Nat → Nat → Nat × Nat}
    (hi : ∀ d a b m s, exec (i d a b m) s = issue (vec2 op ok d a b m f) s)
    (hfg : ∀ ty fcsr x y, ok ty = true → f ty fcsr x y = g ty fcsr x y) : Vec2 i ok g := by
  intro s d a b m v t ho ht hf hok
  rw [hi, issue_vec2 ho ht hf hok]
  simp only [hfg _ _ _ _ hok]

/-- A form of two sources with an integer operation. -/
theorem vec2_int {i : VDst → VSrc → VSrc → MaskF → Instr} {op : Nat} (f : Bool → Nat → Nat → Nat → Nat)
    (hi : ∀ d a b m s, exec (i d a b m) s = issue (vec2 op isInt d a b m (int2 f)) s) :
    Vec2 i isInt fun ty _ x y => (f (tySigned ty) (tyWidth ty) x y, 0) :=
  vec2_of hi fun _ fcsr x y h => int2_isInt f h fcsr x y

/-- A form that issues as one source of an accepted type. -/
theorem vec1_of {i : VDst → VSrc → MaskF → Instr} {op : Nat} {ok : Nat → Bool} {f g : Nat → Nat → Nat → Nat × Nat}
    (hi : ∀ d a m s, exec (i d a m) s = issue (vec1 op ok d a m f) s)
    (hfg : ∀ ty fcsr x, ok ty = true → f ty fcsr x = g ty fcsr x) : Vec1 i ok g := by
  intro s d a m v t ho ht hf hok
  rw [hi, issue_vec1 ho ht hf hok]
  simp only [hfg _ _ _ hok]

/-- A form of one source with an integer operation. -/
theorem vec1_int {i : VDst → VSrc → MaskF → Instr} {op : Nat} (f : Nat → Nat → Nat)
    (hi : ∀ d a m s, exec (i d a m) s = issue (vec1 op isInt d a m (int1 f)) s) :
    Vec1 i isInt fun ty _ x => (f (tyWidth ty) x, 0) :=
  vec1_of hi fun _ fcsr x h => int1_isInt f h fcsr x

/-- VMIN: the smaller integer by the type's order, `minmax` of floats (R246). -/
theorem vec2_vmin : Vec2 .vmin isNum (elem2
    (fun sg w x y => if sg then (if toSigned w x < toSigned w y then x else y) else if x < y then x else y)
    fun f _ x y => f.minmax false x y) :=
  vec2_of (fun _ _ _ _ _ => rfl) fun ty fcsr x y _ => by simp only [elem2, intPick_min]

/-- VMAX: the larger integer by the type's order, `minmax` of floats (R246). -/
theorem vec2_vmax : Vec2 .vmax isNum (elem2
    (fun sg w x y => if sg then (if toSigned w x < toSigned w y then y else x) else if x < y then y else x)
    fun f _ x y => f.minmax true x y) :=
  vec2_of (fun _ _ _ _ _ => rfl) fun ty fcsr x y _ => by simp only [elem2, intPick_max]

/-- Settles O29: each form by its shape, its operation on elements being the stated one. -/
theorem vectorArithmetic : Obligations.VectorArithmetic := by
  have num2 {i op f} (hi : ∀ d a b m s, exec (i d a b m) s = issue (vec2 op isNum d a b m f) s) : Vec2 i isNum f :=
    vec2_of hi fun _ _ _ _ _ => rfl
  have one {i op ok f} (hi : ∀ d a m s, exec (i d a m) s = issue (vec1 op ok d a m f) s) : Vec1 i ok f :=
    vec1_of hi fun _ _ _ _ => rfl
  refine ⟨num2 fun _ _ _ _ _ => rfl, num2 fun _ _ _ _ _ => rfl, num2 fun _ _ _ _ _ => rfl, num2 fun _ _ _ _ _ => rfl, vec2_vmin, vec2_vmax,
    vec2_int (fun _ _ x y => x &&& y) fun _ _ _ _ _ => rfl, vec2_int (fun _ _ x y => x ||| y) fun _ _ _ _ _ => rfl,
    vec2_int (fun _ _ x y => Nat.xor x y) fun _ _ _ _ _ => rfl, vec2_int (fun _ w x y => x * 2 ^ (y % w)) fun _ _ _ _ _ => rfl,
    vec2_int (fun _ w x y => x / 2 ^ (y % w)) fun _ _ _ _ _ => rfl, vec2_int (fun _ w x y => intShra w x y) fun _ _ _ _ _ => rfl,
    vec2_int (intSat false) fun _ _ _ _ _ => rfl, vec2_int (intSat true) fun _ _ _ _ _ => rfl, vec2_int intMulh fun _ _ _ _ _ => rfl,
    one fun _ _ _ _ => rfl, one fun _ _ _ _ => rfl, one fun _ _ _ _ => rfl, one fun _ _ _ _ => rfl, one fun _ _ _ _ => rfl,
    one fun _ _ _ _ => rfl, one fun _ _ _ _ => rfl, vec1_int (fun w x => 2 ^ w - 1 - x) fun _ _ _ _ => rfl,
    vec1_int clzN fun _ _ _ _ => rfl, vec1_int popN fun _ _ _ _ => rfl⟩

end Sys2Proof.Machine
end

section
/-! SUPPORT. Vector conversion, quantisation, reductions and dot product: what a loop that hands the generator on comes to (R113), and each form once its gates are open (R251 to R253). -/
namespace Sys2Proof.Machine
open Sys2Proof.Claims

/-! ### Ends of instructions (R87) -/

/-- Issuing what ends with a vector result of any tag. -/
theorem issue_vector {m : M Unit} {s s' : State} {srcs : List VSrc} {d : VDst} {r : VReg} {fl : Nat}
    (h : m.go s = (do raise fl; popAll srcs; writeV d r; advance : M Unit).go s') : issue m s = .next (vresult s' srcs d r fl) := by
  simp only [popAll, writeV, go_bind, go_raise, go_updMe, go_advance, State.updMe_updMe] at h
  rw [issue_ok h, State.updMe_updMe]
  rfl

/-- Issuing what ends with a word and flags. -/
theorem issue_word {m : M Unit} {s s' : State} {srcs : List VSrc} {d : Reg} {w : Word} {fl : Nat}
    (h : m.go s = (vscalar srcs d (w, fl)).go s') : issue m s = .next (vscalars s' srcs d w fl) :=
  issue_vscalar (r := (w, fl)) h

/-! ### Loops that hand the generator on (R113) -/

/-- One more step of a loop over `0` to `n`. -/
theorem foldl_upTo_succ {β : Type} (f : β → Nat → β) (b : β) (n : Nat) :
    (upTo (n + 1)).foldl f b = f ((upTo n).foldl f b) n := by
  simp only [upTo, List.range_succ, List.foldl_append, List.foldl_cons, List.foldl_nil]

/-- Elements formed one after the other, each active one from the generator that those before it have left: bits and flags are those formed with that generator for each element. -/
theorem foldl_elements {act : Nat → Bool} {elem : Nat → Nat → Nat × Nat × Nat} {kept w x : Nat} (v : VState)
    {f : Nat × Nat × Nat → Nat → Nat × Nat × Nat}
    (hf : ∀ acc k, f acc k = if act k then
      (acc.1 + (elem k acc.2.2).1 % 2 ^ w * 2 ^ (w * k), acc.2.1 ||| (elem k acc.2.2).2.1, (elem k acc.2.2).2.2)
      else (acc.1 + bitsAt kept (w * k) w * 2 ^ (w * k), acc.2.1, acc.2.2)) :
    let seed := drawnBefore x act fun k y => (elem k y).2.2
    let r := formBits v kept w act fun k => ((elem k (seed k)).1, (elem k (seed k)).2.1)
    (upTo v.vl).foldl f (0, 0, x) = (r.1, r.2, seed v.vl) := by
  intro seed r
  simp only [r, formBits]
  generalize v.vl = n
  induction n with
  | zero => rfl
  | succ n ih =>
    rw [foldl_upTo_succ, ih, hf, foldl_upTo_succ]
    cases h : act n <;> simp only [seed, drawnBefore, h, if_true, if_false, Bool.false_eq_true]

/-- Blocks encoded one after the other, each from the generator that the one before has left: bits, scales and flags are those of the blocks with that generator for each. -/
theorem foldl_blocks {block : Nat → Nat → Nat × Nat × Nat × Nat} {w x : Nat} {old : KMap Nat}
    {f : Nat × KMap Nat × Nat × Nat → Nat → Nat × KMap Nat × Nat × Nat}
    (hf : ∀ acc b, f acc b = (acc.1 + (block b acc.2.2.2).1 * 2 ^ (256 * w * b), KMap.put 127 acc.2.1 b (block b acc.2.2.2).2.1,
      acc.2.2.1 ||| (block b acc.2.2.2).2.2.1, (block b acc.2.2.2).2.2.2)) (n : Nat) :
    let seed := drawnBefore x (fun _ => true) fun b y => (block b y).2.2.2
    (upTo n).foldl f (0, old, 0, x) =
      ((upTo n).foldl (fun n b => n + (block b (seed b)).1 * 2 ^ (256 * w * b)) 0,
       (upTo n).foldl (fun m b => KMap.put 127 m b (block b (seed b)).2.1) old,
       (upTo n).foldl (fun n b => n ||| (block b (seed b)).2.2.1) 0, seed n) := by
  intro seed
  induction n with
  | zero => rfl
  | succ n ih =>
    simp only [foldl_upTo_succ, ih, hf]
    rfl

/-! ### Conversion and quantisation (R251, R252) -/

section Convert
variable {s : State} {dt : BitVec 4} {rm : RMode} {d : VDst} {a : VSrc} {v : VState} {t : Tag}

/-- VCVT to the type that an unscaled source has: its bits as they are (R251). -/
theorem exec_vcvt_same {m : MaskF} (ho : VOpen s [a] [] (vdst d) v) (ht : TagIs v (arg s v a) d t)
    (hf : Fits s v [tyWidth t.ty, tyWidth dt.toNat]) (h : dt.toNat = t.ty ∧ t.s = false) :
    let r := formBits v (keptBits v d m.mz) (tyWidth dt.toNat) (v.active m.me m.mr) fun k =>
      ((arg s v a).bits (tyWidth dt.toNat) k, 0)
    exec (.vcvt dt rm d a m) s = .next (vresult s [a] d (plainV dt.toNat r) r.2) := by
  have hc : (decide (dt.toNat = t.ty) && !t.s) = true := by
    simp only [h.1, h.2, decide_true, Bool.not_false, Bool.and_self]
  refine issue_vdone ?_
  simp only [go_bind, go_vopen ho, go_me]
  simp only [show readV v s.me a = arg s v a from rfl, go_tag1 ht, go_limit hf, if_pos hc]

/-- VCVT otherwise: each active element converted from the generator that those before it have left (R113, R251). -/
theorem exec_vcvt_converts {m : MaskF} (ho : VOpen s [a] [] (vdst d) v) (ht : TagIs v (arg s v a) d t)
    (hf : Fits s v [tyWidth t.ty, tyWidth dt.toNat]) (h : ¬ (dt.toNat = t.ty ∧ t.s = false)) :
    let elem k x := cvtElem t dt.toNat (resolveMode s.me.fcsr rm) (fcsrSatn s.me.fcsr) (arg s v a) k x
    let seed := drawnBefore s.me.seed (v.active m.me m.mr) fun k x => (elem k x).2.2
    let r := formBits v (keptBits v d m.mz) (tyWidth dt.toNat) (v.active m.me m.mr) fun k => ((elem k (seed k)).1, (elem k (seed k)).2.1)
    exec (.vcvt dt rm d a m) s =
      .next (vresult (s.updMe fun x => { x with seed := seed v.vl }) [a] d (plainV dt.toNat r) r.2) := by
  have hc : ¬ (decide (dt.toNat = t.ty) && !t.s) = true := by
    simpa only [Bool.and_eq_true, decide_eq_true_eq, Bool.not_eq_true'] using h
  intro elem seed r
  refine issue_vdone ?_
  simp only [go_bind, go_vopen ho, go_me]
  simp only [show readV v s.me a = arg s v a from rfl, go_tag1 ht, go_limit hf, if_neg hc, go_bind, go_updMe]
  rw [foldl_elements (elem := elem) v fun _ _ => rfl]

/-- VQNT: each block encoded from the generator that the one before has left (R109, R252). -/
theorem exec_vqnt (ho : VOpen s [a] [] (vdst d) v) (ht : TagIs v (arg s v a) d t)
    (hf : Fits s v [tyWidth t.ty, tyWidth dt.toNat]) (hty : isFlt t.ty = true) (hs : t.s = false) :
    let block := quantised v t.ty dt.toNat (arg s v a) (resolveMode s.me.fcsr rm)
    let seed := drawnBefore s.me.seed (fun _ => true) fun b x => (block b x).2.2.2
    let bs := upTo ((v.vl + 255) / 256)
    exec (.vqnt dt rm d a) s =
      .next (vresult (s.updMe fun x => { x with seed := seed bs.length }) [a] d
        ⟨dt.toNat, true, bs.foldl (fun n b => n + (block b (seed b)).1 * 2 ^ (256 * tyWidth dt.toNat * b)) 0,
          bs.foldl (fun m b => KMap.put 127 m b (block b (seed b)).2.1) (oldScales v d)⟩
        (bs.foldl (fun n b => n ||| (block b (seed b)).2.2.1) 0)) := by
  intro block seed bs
  have hlen : bs.length = (v.vl + 255) / 256 := List.length_range
  refine issue_vector ?_
  simp only [go_bind, go_vopen ho, go_me]
  simp only [show readV v s.me a = arg s v a from rfl, go_tag1 ht, go_limit hf, hty, hs, Bool.not_false, Bool.and_self, Bool.not_true,
    Bool.false_eq_true, if_false, go_bind, go_updMe, hlen]
  rw [foldl_blocks (block := block) (w := tyWidth dt.toNat) fun acc b => ?_]
  · rfl
  · simp only [block, quantised]
    split <;> rfl

end Convert

/-! ### Reductions (R117 to R119, R253) -/

section Reduce
variable {s : State} {rm : RMode} {d : Reg} {a b : VSrc} {me : Bool} {mk : BitVec 3} {v : VState} {t : Tag}

/-- VL fits the width of a source that is a vector. -/
theorem go_limit_arg (hf : Fits s v [tyWidth t.ty]) (ht : (arg s v a).tag = some t) :
    (limit v (argWidths [arg s v a])).go s = (.ok (), s) := by
  refine go_limit (fits_argWidths hf fun x hx u hu => ?_)
  obtain rfl := List.mem_singleton.1 hx
  rw [Option.some.inj (ht.symm.trans hu)]

/-- The first of two sources with a common tag has no other tag. -/
theorem tagsVec_left {x y : VArg} {u : Tag} (h : TagsVec x y t) (hx : x.tag = some u) : u = t := by
  unfold TagsVec at h
  cases hy : y.tag <;> simp only [hx, hy] at h
  · exact h
  · exact h.1

/-- Nor has the second. -/
theorem tagsVec_right {x y : VArg} {u : Tag} (h : TagsVec x y t) (hy : y.tag = some u) : u = t := by
  unfold TagsVec at h
  cases hx : x.tag <;> simp only [hx, hy] at h
  · exact h
  · exact h.2

/-- VL fits the widths of two sources that have one tag between them. -/
theorem go_limit_args (hf : Fits s v [tyWidth t.ty]) (ht : TagsVec (arg s v a) (arg s v b) t) :
    (limit v (argWidths [arg s v a, arg s v b])).go s = (.ok (), s) := by
  refine go_limit (fits_argWidths hf fun x hx u hu => ?_)
  simp only [List.mem_cons, List.not_mem_nil, or_false] at hx
  rcases hx with rfl | rfl
  · rw [tagsVec_left ht hu]
  · rw [tagsVec_right ht hu]

/-- VRED of a kind that accepts the type (R253). -/
theorem vreduce_of {i : RMode → Reg → VSrc → Bool → BitVec 3 → Instr} {q : Red}
    (hi : ∀ rm d a me mk s, exec (i rm d a me mk) s = issue (vred q rm d a me mk) s) : VReduce i q := by
  intro s rm d a me mk v t ho ht hf hok
  rw [hi]
  refine issue_word ?_
  simp only [vred, go_bind, go_vopen ho, go_me]
  simp only [show readV v s.me a = arg s v a from rfl, go_limit_arg hf ht, go_tag1_vec ht, hok, Bool.not_true, Bool.false_eq_true, if_false]

/-- VREDS: the sums of the blocks, each times its scale, over the tree (R119, R253). -/
theorem exec_vreds (ho : VOpen s [a] [] [.x d.toNat false] v) (ht : (arg s v a).tag = some t) (hf : Fits s v [tyWidth t.ty])
    (hty : 10 ≤ t.ty) (hs : t.s = true) :
    let bs := (upTo ((v.vl + 255) / 256)).map (blockSum v me mk (arg s v a) t.ty (accAdd 9 s.me.fcsr rm))
    let r := tree (accAdd 9 s.me.fcsr rm) treeFuel (bs.map fun e => e.1)
    exec (.vreds rm d a me mk) s =
      .next (vscalars s [a] d (wd (r.1.getD 0)) (bs.foldl (fun n e => n ||| e.2) 0 ||| r.2)) := by
  have hok : (!(decide (10 ≤ t.ty) && t.s)) = false := by
    simp only [hty, hs, decide_true, Bool.and_self, Bool.not_true]
  refine issue_word ?_
  simp only [go_bind, go_vopen ho, go_me]
  simp only [show readV v s.me a = arg s v a from rfl, go_limit_arg hf ht, go_tag1_vec ht, hok, Bool.false_eq_true, if_false]
  rfl

/-- VDOT: the products over the tree; each use of an unstated integer takes a value of its own (R117, R118, R253). -/
theorem exec_vdot (ho : VOpen s [a, b] [] [.x d.toNat false] v) (ht : TagsVec (arg s v a) (arg s v b) t) (hf : Fits s v [tyWidth t.ty]) :
    let l := leaves v me mk fun k => dotLeaf t.ty s.me.fcsr rm (s.freeN + k) (arg s v a) (arg s v b) k
    let r := tree (accAdd t.ty s.me.fcsr rm) treeFuel l.1
    exec (.vdot rm d a b me mk) s =
      .next (vscalars { s with freeN := s.freeN + v.vl } [a, b] d (wd (r.1.getD 0)) (l.2 ||| r.2)) := by
  refine issue_word ?_
  simp only [go_bind, go_vopen ho, go_me]
  simp only [show readV v s.me a = arg s v a from rfl, show readV v s.me b = arg s v b from rfl, go_limit_args hf ht, go_tag2_vec ht,
    go_accept2 (ok := fun _ => true) (t := t) rfl, go_get, go_upd]

end Reduce

/-- Settles O31, clause by clause from what each form comes to. -/
theorem vectorConversionAndReduction : Obligations.VectorConversionAndReduction :=
  ⟨fun _ _ _ _ _ _ _ _ ho ht hf => ⟨exec_vcvt_same ho ht hf, exec_vcvt_converts ho ht hf⟩,
    fun _ _ _ _ _ _ _ ho ht hf hty hs => exec_vqnt ho ht hf hty hs,
    vreduce_of fun _ _ _ _ _ _ => rfl, vreduce_of fun _ _ _ _ _ _ => rfl, vreduce_of fun _ _ _ _ _ _ => rfl,
    vreduce_of fun _ _ _ _ _ _ => rfl, vreduce_of fun _ _ _ _ _ _ => rfl,
    fun _ _ _ _ _ _ _ _ ho ht hf hty hs => exec_vreds ho ht hf hty hs,
    fun _ _ _ _ _ _ _ _ _ ho ht hf => exec_vdot ho ht hf⟩

end Sys2Proof.Machine
end
